-- ==== Sys2Proof/Word.lean ====
section
/-!
DEFINITION. The words of the machine and their plainest arithmetic (spec/10_state.md R31, R34; spec/20_memory.md R200).
-/
namespace Sys2Proof

/-- A 32-bit word: a register, an address, an ARM instruction. -/
abbrev Word := BitVec 32

/-- A 16-bit halfword: a Thumb instruction. -/
abbrev Half := BitVec 16

/-- A byte of memory. -/
abbrev Byte := BitVec 8

/-- A register number, r0 to r15. -/
abbrev Reg := BitVec 4

/-- A register number of a Thumb low register, r0 to r7. -/
abbrev LoReg := BitVec 3

/-- r13, the stack pointer. -/
def regSp : Reg := 13#4

/-- r14, the link register. -/
def regLr : Reg := 14#4

/-- r15, the program counter. -/
def regPc : Reg := 15#4

/-- A low register as a register number. -/
def lo (r : LoReg) : Reg := r.zeroExtend 4

end Sys2Proof
end

