-- ==== Sys2Proof/Config.lean ====
section
/-!
DEFINITION. What an implementation or the platform fixes and the spec leaves open, as opaque constants: nothing in
Lean can evaluate them (spec/92_eei_decisions.md Part 2; notes/assumptions 5 to 8, 12).
-/
namespace Sys2Proof.Config

/-- The values the spec leaves open ("any value", spec/93 Part 0): the n-th free value of a run. DESIGN CHOICE, safe
(log 5). -/
opaque free : Nat → Word

/-- Parameter STORE_PC_OFFSET (D8): true when a stored r15 is A + 12, false when it is A + 8. DESIGN CHOICE, safe (log 6). -/
opaque storePcIs12 : Bool

/-- Parameter REVISION, the low nibble of the device ID (spec/11 R84). DESIGN CHOICE, safe (log 7). -/
opaque revision : BitVec 4

/-- What a device answers to the n-th read the model leaves free: address and n (spec/92 Part 3). DESIGN CHOICE, safe (log 12). -/
opaque deviceRead : Word → Nat → Word

/-- Does an uncached instruction fetch at a physical address read the aligned doubleword (spec/23 R394)? Only the bus
record depends on it in memory. DESIGN CHOICE, safe (log 46). -/
opaque wideFetch : Word → Bool

/-- `CpDecide` (spec/23 R404, D40): does coprocessor n accept the instruction, given its bits [27:0], whether it is the
cond = 1111 form, CPSUPER, CPBIGEND (spec/23 R405), and the words of the interface's history. DESIGN CHOICE, safe (log 8). -/
opaque cpAccepts : BitVec 4 → BitVec 28 → Bool → Bool → Bool → List Word → Bool

/-- CPLSLEN - 1 (spec/23 R408): one less than the number of words of an LDC or STC, 0 to 62. DESIGN CHOICE, safe (log 8). -/
opaque cpLength : BitVec 4 → BitVec 28 → List Word → Fin 63

/-- CPLSDBL (spec/23 R408): the coprocessor moves doubleword-aligned pairs of words as 64-bit transfers. DESIGN CHOICE, safe
(log 8). -/
opaque cpDouble : BitVec 4 → BitVec 28 → List Word → Bool

/-- CPLSSWP (spec/23 R408): the two words of a 64-bit transfer are exchanged. DESIGN CHOICE, safe (log 8). -/
opaque cpSwaps : BitVec 4 → BitVec 28 → List Word → Bool

/-- The k-th word coprocessor n drives for an STC, MRC or MRRC (spec/23 R404, R415). DESIGN CHOICE, safe (log 8). -/
opaque cpSupplies : BitVec 4 → BitVec 28 → List Word → Nat → Word

/-- The physical page, PA[31:10], that a soft TLB entry gives whose size code spec/11 R152 does not list, by its code, its PA[31:10]
and the MVA[31:10]. DESIGN CHOICE, safe (log 51). -/
opaque unlistedPage : BitVec 4 → BitVec 22 → BitVec 22 → BitVec 22

/-- Do the faults of such an entry have the status codes of a section? DESIGN CHOICE, safe (log 51). -/
opaque unlistedSection : BitVec 4 → Bool

end Sys2Proof.Config
end

