-- ==== Sys2Proof/Syntax.lean ====
section
/-!
DEFINITION. The instructions: one constructor of `Instr` for each of the 152 rows of spec/opcode_table.json, in its
order. Should-be-zero and should-be-one fields are kept as fields, so that decoding drops no bit (spec/30 R440); the
rows named UNDEFINED are constructors too, with the bits the row leaves free (notes/assumptions/28.md).
-/
namespace Sys2Proof

/-- The condition of an ARM instruction (spec/30 R422). -/
inductive Cond where
  | eq | ne | cs | cc | mi | pl | vs | vc | hi | ls | ge | lt | gt | le | al
  deriving DecidableEq, Repr

/-- The two-bit shift type of a shifter operand (spec/30 R427). -/
inductive Shift where
  | lsl | lsr | asr | ror
  deriving DecidableEq, Repr

/-- The shifter operand of a data-processing instruction (spec/30 R426, R427, R428). -/
inductive Op2 where
  /-- An 8-bit immediate rotated right by twice `rot`. -/
  | imm (rot : BitVec 4) (imm8 : BitVec 8)
  /-- A register shifted by an immediate. -/
  | shiftImm (amount : BitVec 5) (sh : Shift) (rm : Reg)
  /-- A register shifted by a register. -/
  | shiftReg (rs : Reg) (sh : Shift) (rm : Reg)
  deriving DecidableEq, Repr

/-- The offset of addressing mode 2 (spec/30 R432, R433). -/
inductive Off2 where
  | imm (offset : BitVec 12)
  | reg (amount : BitVec 5) (sh : Shift) (rm : Reg)
  deriving DecidableEq, Repr

/-- The offset of addressing mode 3 (spec/30 R430); `sbz` are bits [11:8] of the register form. -/
inductive Off3 where
  | imm (offset : BitVec 8)
  | reg (sbz : BitVec 4) (rm : Reg)
  deriving DecidableEq, Repr

/-- Bits P, U, W and the base register of a load or store. -/
structure Index where
  p : Bool
  u : Bool
  w : Bool
  rn : Reg
  deriving DecidableEq, Repr

/-- The fields of LDC, STC, LDC2, STC2 (spec/30 R437). -/
structure CpMem where
  p : Bool
  u : Bool
  n : Bool
  w : Bool
  rn : Reg
  crd : BitVec 4
  cp : BitVec 4
  offset : BitVec 8
  deriving DecidableEq, Repr

/-- The fields of CDP, CDP2. -/
structure CpOp where
  op1 : BitVec 4
  crn : BitVec 4
  crd : BitVec 4
  cp : BitVec 4
  op2 : BitVec 3
  crm : BitVec 4
  deriving DecidableEq, Repr

/-- The fields of MCR, MRC, MCR2, MRC2. -/
structure CpReg where
  op1 : BitVec 3
  crn : BitVec 4
  rd : Reg
  cp : BitVec 4
  op2 : BitVec 3
  crm : BitVec 4
  deriving DecidableEq, Repr

/-- The instructions of the opcode table. Constructors whose name begins with `t` are Thumb. -/
inductive Instr where
  -- ARM, cond = 1111
  | undPld (u : Bool) (rn rs : BitVec 4) (mid : BitVec 3) (rm : BitVec 4)
  | pld (u : Bool) (rn : Reg) (off : Off2)
  | blxImm (h : Bool) (imm : BitVec 24)
  | undExt2 (n l : Bool) (body : BitVec 20)
  | ldc2 (f : CpMem)
  | stc2 (f : CpMem)
  | cdp2 (f : CpOp)
  | mcr2 (f : CpReg)
  | mrc2 (f : CpReg)
  | undUncond (op : BitVec 8) (rn rd rs lo4 rm : BitVec 4)
  -- miscellaneous
  | mrs (c : Cond) (r : Bool) (sbo : BitVec 4) (rd : Reg) (sbz1 sbz2 : BitVec 4)
  | msrReg (c : Cond) (r : Bool) (mask sbo sbz : BitVec 4) (rm : Reg)
  | bx (c : Cond) (sbo1 sbo2 sbo3 : BitVec 4) (rm : Reg)
  | clz (c : Cond) (sbo1 : BitVec 4) (rd : Reg) (sbo2 : BitVec 4) (rm : Reg)
  | blxReg (c : Cond) (sbo1 sbo2 sbo3 : BitVec 4) (rm : Reg)
  | qadd (c : Cond) (rn rd : Reg) (sbz : BitVec 4) (rm : Reg)
  | qsub (c : Cond) (rn rd : Reg) (sbz : BitVec 4) (rm : Reg)
  | qdadd (c : Cond) (rn rd : Reg) (sbz : BitVec 4) (rm : Reg)
  | qdsub (c : Cond) (rn rd : Reg) (sbz : BitVec 4) (rm : Reg)
  | bkpt (c : Cond) (hi : BitVec 12) (lo : BitVec 4)
  | smlaxy (c : Cond) (rd rn rs : Reg) (y x : Bool) (rm : Reg)
  | smlawy (c : Cond) (rd rn rs : Reg) (y : Bool) (rm : Reg)
  | smulwy (c : Cond) (rd : Reg) (sbz : BitVec 4) (rs : Reg) (y : Bool) (rm : Reg)
  | smlalxy (c : Cond) (rdHi rdLo rs : Reg) (y x : Bool) (rm : Reg)
  | smulxy (c : Cond) (rd : Reg) (sbz : BitVec 4) (rs : Reg) (y x : Bool) (rm : Reg)
  | undMiscA (c : Cond) (op : BitVec 2) (rn rd rs : BitVec 4) (k : BitVec 3) (rm : BitVec 4)
  | undMiscB (c : Cond) (op : BitVec 2) (rn rd rs : BitVec 4) (k : BitVec 3) (rm : BitVec 4)
  -- multiplies and swaps
  | mul (c : Cond) (s : Bool) (rd : Reg) (sbz : BitVec 4) (rs rm : Reg)
  | mla (c : Cond) (s : Bool) (rd rn rs rm : Reg)
  | umull (c : Cond) (s : Bool) (rdHi rdLo rs rm : Reg)
  | umlal (c : Cond) (s : Bool) (rdHi rdLo rs rm : Reg)
  | smull (c : Cond) (s : Bool) (rdHi rdLo rs rm : Reg)
  | smlal (c : Cond) (s : Bool) (rdHi rdLo rs rm : Reg)
  | swp (c : Cond) (rn rd : Reg) (sbz : BitVec 4) (rm : Reg)
  | swpb (c : Cond) (rn rd : Reg) (sbz : BitVec 4) (rm : Reg)
  | undMul (c : Cond) (op : BitVec 5) (rn rd rs rm : BitVec 4)
  -- halfword, signed and doubleword transfers
  | strh (c : Cond) (ix : Index) (rd : Reg) (off : Off3)
  | ldrh (c : Cond) (ix : Index) (rd : Reg) (off : Off3)
  | ldrd (c : Cond) (ix : Index) (rd : Reg) (off : Off3)
  | ldrsb (c : Cond) (ix : Index) (rd : Reg) (off : Off3)
  | strd (c : Cond) (ix : Index) (rd : Reg) (off : Off3)
  | ldrsh (c : Cond) (ix : Index) (rd : Reg) (off : Off3)
  -- data processing
  | undMsr (c : Cond) (r : Bool) (body : BitVec 20)
  | msrImm (c : Cond) (r : Bool) (mask sbo rot : BitVec 4) (imm8 : BitVec 8)
  | and (c : Cond) (s : Bool) (rn rd : Reg) (op : Op2)
  | eor (c : Cond) (s : Bool) (rn rd : Reg) (op : Op2)
  | sub (c : Cond) (s : Bool) (rn rd : Reg) (op : Op2)
  | rsb (c : Cond) (s : Bool) (rn rd : Reg) (op : Op2)
  | add (c : Cond) (s : Bool) (rn rd : Reg) (op : Op2)
  | adc (c : Cond) (s : Bool) (rn rd : Reg) (op : Op2)
  | sbc (c : Cond) (s : Bool) (rn rd : Reg) (op : Op2)
  | rsc (c : Cond) (s : Bool) (rn rd : Reg) (op : Op2)
  | tst (c : Cond) (rn : Reg) (sbz : BitVec 4) (op : Op2)
  | teq (c : Cond) (rn : Reg) (sbz : BitVec 4) (op : Op2)
  | cmp (c : Cond) (rn : Reg) (sbz : BitVec 4) (op : Op2)
  | cmn (c : Cond) (rn : Reg) (sbz : BitVec 4) (op : Op2)
  | orr (c : Cond) (s : Bool) (rn rd : Reg) (op : Op2)
  | mov (c : Cond) (s : Bool) (sbz : BitVec 4) (rd : Reg) (op : Op2)
  | bic (c : Cond) (s : Bool) (rn rd : Reg) (op : Op2)
  | mvn (c : Cond) (s : Bool) (sbz : BitVec 4) (rd : Reg) (op : Op2)
  -- word and byte transfers
  | undMedia (c : Cond) (op : BitVec 5) (rn rd rs : BitVec 4) (mid : BitVec 3) (rm : BitVec 4)
  | ldrt (c : Cond) (u : Bool) (rn rd : Reg) (off : Off2)
  | ldrbt (c : Cond) (u : Bool) (rn rd : Reg) (off : Off2)
  | strt (c : Cond) (u : Bool) (rn rd : Reg) (off : Off2)
  | strbt (c : Cond) (u : Bool) (rn rd : Reg) (off : Off2)
  | ldr (c : Cond) (ix : Index) (rd : Reg) (off : Off2)
  | ldrb (c : Cond) (ix : Index) (rd : Reg) (off : Off2)
  | str (c : Cond) (ix : Index) (rd : Reg) (off : Off2)
  | strb (c : Cond) (ix : Index) (rd : Reg) (off : Off2)
  -- load and store multiple
  | ldm1 (c : Cond) (ix : Index) (list : BitVec 16)
  | ldm2 (c : Cond) (ix : Index) (list : BitVec 15)
  | ldm3 (c : Cond) (ix : Index) (list : BitVec 15)
  | stm1 (c : Cond) (ix : Index) (list : BitVec 16)
  | stm2 (c : Cond) (ix : Index) (list : BitVec 16)
  -- branches, coprocessors, SWI
  | b (c : Cond) (imm : BitVec 24)
  | bl (c : Cond) (imm : BitVec 24)
  | undCpExt (c : Cond) (l : Bool) (body : BitVec 20)
  | mcrr (c : Cond) (rn rd : Reg) (cp opc crm : BitVec 4)
  | mrrc (c : Cond) (rn rd : Reg) (cp opc crm : BitVec 4)
  | ldc (c : Cond) (f : CpMem)
  | stc (c : Cond) (f : CpMem)
  | cdp (c : Cond) (f : CpOp)
  | mcr (c : Cond) (f : CpReg)
  | mrc (c : Cond) (f : CpReg)
  | swi (c : Cond) (imm : BitVec 24)
  -- Thumb data processing
  | tAddReg (rm rn rd : LoReg)
  | tSubReg (rm rn rd : LoReg)
  | tAddImm3 (imm : BitVec 3) (rn rd : LoReg)
  | tSubImm3 (imm : BitVec 3) (rn rd : LoReg)
  | tLslImm (imm : BitVec 5) (rm rd : LoReg)
  | tLsrImm (imm : BitVec 5) (rm rd : LoReg)
  | tAsrImm (imm : BitVec 5) (rm rd : LoReg)
  | tMovImm (rd : LoReg) (imm : BitVec 8)
  | tCmpImm (rn : LoReg) (imm : BitVec 8)
  | tAddImm8 (rd : LoReg) (imm : BitVec 8)
  | tSubImm8 (rd : LoReg) (imm : BitVec 8)
  | tAnd (rm rd : LoReg)
  | tEor (rm rd : LoReg)
  | tLslReg (rs rd : LoReg)
  | tLsrReg (rs rd : LoReg)
  | tAsrReg (rs rd : LoReg)
  | tAdc (rm rd : LoReg)
  | tSbc (rm rd : LoReg)
  | tRor (rs rd : LoReg)
  | tTst (rm rn : LoReg)
  | tNeg (rm rd : LoReg)
  | tCmpReg (rm rn : LoReg)
  | tCmn (rm rn : LoReg)
  | tOrr (rm rd : LoReg)
  | tMul (rm rd : LoReg)
  | tBic (rm rd : LoReg)
  | tMvn (rm rd : LoReg)
  | tAddHi (rm rd : Reg)
  | tCmpHi (rm rn : Reg)
  | tMovHi (rm rd : Reg)
  | tBx (rm : Reg) (sbz : BitVec 3)
  | tBlxReg (rm : Reg) (sbz : BitVec 3)
  -- Thumb loads and stores
  | tLdrPc (rd : LoReg) (imm : BitVec 8)
  | tStrReg (rm rn rd : LoReg)
  | tStrhReg (rm rn rd : LoReg)
  | tStrbReg (rm rn rd : LoReg)
  | tLdrsbReg (rm rn rd : LoReg)
  | tLdrReg (rm rn rd : LoReg)
  | tLdrhReg (rm rn rd : LoReg)
  | tLdrbReg (rm rn rd : LoReg)
  | tLdrshReg (rm rn rd : LoReg)
  | tStrImm (imm : BitVec 5) (rn rd : LoReg)
  | tLdrImm (imm : BitVec 5) (rn rd : LoReg)
  | tStrbImm (imm : BitVec 5) (rn rd : LoReg)
  | tLdrbImm (imm : BitVec 5) (rn rd : LoReg)
  | tStrhImm (imm : BitVec 5) (rn rd : LoReg)
  | tLdrhImm (imm : BitVec 5) (rn rd : LoReg)
  | tStrSp (rd : LoReg) (imm : BitVec 8)
  | tLdrSp (rd : LoReg) (imm : BitVec 8)
  | tAddPc (rd : LoReg) (imm : BitVec 8)
  | tAddSpRd (rd : LoReg) (imm : BitVec 8)
  | tAddSp (imm : BitVec 7)
  | tSubSp (imm : BitVec 7)
  | tPush (r : Bool) (list : BitVec 8)
  | tPop (r : Bool) (list : BitVec 8)
  | tBkpt (imm : BitVec 8)
  | tUnd1011 (body : BitVec 12)
  | tStmia (rn : LoReg) (list : BitVec 8)
  | tLdmia (rn : LoReg) (list : BitVec 8)
  -- Thumb SWI and branches
  | tSwi (imm : BitVec 8)
  | tUndCond (body : BitVec 8)
  | tBcond (c : Cond) (imm : BitVec 8)
  | tB (imm : BitVec 11)
  | tUndBlx (body : BitVec 10)
  | tBlxSuffix (imm : BitVec 10)
  | tBlPrefix (imm : BitVec 11)
  | tBlSuffix (imm : BitVec 11)
  deriving DecidableEq, Repr

end Sys2Proof
end

