-- ==== Sys2Proof/WellFormed.lean ====
section
/-!
DEFINITION. Which terms of `Instr` an instruction word stands for (`encodable`: the row's fixed bits and the rows
before it leave the term a word of its own), and which of these keep the should-be-zero and should-be-one fields of
spec/30 R440 (`regular`). Register restrictions are checked where an instruction is executed (Machine/Operands.lean).
-/
namespace Sys2Proof

/-- The cond = 1111 words that are in no row before the last (spec/30 R439): bits [27:20] and [15:12]. -/
def uncondFree (op : BitVec 8) (rd : BitVec 4) : Bool :=
  match op.getLsbD 7, op.getLsbD 6, op.getLsbD 5 with
  | false, false, _ => true
  | false, true, _ =>
    !(op.getLsbD 4 && op.getLsbD 2 && !op.getLsbD 1 && op.getLsbD 0 && rd == 15#4)
  | true, false, false => true
  | true, false, true => false
  | true, true, false => false
  | true, true, true => op.getLsbD 4

/-- The unallocated words of the miscellaneous space with bit 7 = 0 (spec/30 R429): bits [22:21] and [6:4]. -/
def miscFree (op : BitVec 2) (k : BitVec 3) : Bool :=
  match k.getLsbD 2, k.getLsbD 1, k.getLsbD 0 with
  | false, false, false => false
  | false, false, true => !op.getLsbD 0
  | false, true, false => true
  | false, true, true => op != 1#2
  | true, false, false => true
  | true, false, true => false
  | true, true, false => true
  | true, true, true => op != 1#2

/-- The unallocated words of the multiply and swap space (spec/30 R430): bits [24:20]. -/
def mulFree (op : BitVec 5) : Bool :=
  match op.getLsbD 4 with
  | false => !op.getLsbD 3 && op.getLsbD 2
  | true => op != 0b10000#5 && op != 0b10100#5

/-- The 1011 halfwords that are not T13, T14 or BKPT (spec/31 R490): bits [11:8] of the halfword. -/
def thumb1011Free (n : BitVec 4) : Bool :=
  match n.getLsbD 3, n.getLsbD 2, n.getLsbD 1 with
  | false, false, false => n.getLsbD 0
  | false, true, false => false
  | true, true, false => false
  | true, true, true => n.getLsbD 0
  | _, _, _ => true

/-- Post-indexed with W = 1 is the user-privilege row, not this one (spec/30 R432). -/
def Index.notT (ix : Index) : Bool := ix.p || !ix.w

/-- P = U = W = 0 is the coprocessor extension space (spec/30 R437). -/
def CpMem.notExt (f : CpMem) : Bool := f.p || f.u || f.w

/-- A word decodes to the term. -/
def Instr.encodable : Instr → Bool
  | .undUncond op _ rd _ _ _ => uncondFree op rd
  | .undMiscA _ op _ _ _ k _ => miscFree op k
  | .undMiscB .. => false
  | .undMul _ op .. => mulFree op
  | .ldc2 f | .stc2 f | .ldc _ f | .stc _ f => f.notExt
  | .ldr _ ix _ _ | .ldrb _ ix _ _ | .str _ ix _ _ | .strb _ ix _ _ => ix.notT
  | .tUnd1011 body => thumb1011Free (body.extractLsb' 8 4)
  | .tBcond c _ => c != .al
  | _ => true

/-- The register form of addressing mode 3 has bits [11:8] zero (spec/30 R430). -/
def Off3.regular : Off3 → Bool
  | .imm _ => true
  | .reg sbz _ => sbz == 0#4

/-- Should-be-zero fields are zero and should-be-one fields are ones (spec/30 R440). -/
def Instr.regular : Instr → Bool
  | .mrs _ _ sbo _ z1 z2 => sbo == 15#4 && z1 == 0#4 && z2 == 0#4
  | .msrReg _ _ _ sbo sbz _ => sbo == 15#4 && sbz == 0#4
  | .bx _ o1 o2 o3 _ | .blxReg _ o1 o2 o3 _ => o1 == 15#4 && o2 == 15#4 && o3 == 15#4
  | .clz _ o1 _ o2 _ => o1 == 15#4 && o2 == 15#4
  | .qadd _ _ _ z _ | .qsub _ _ _ z _ | .qdadd _ _ _ z _ | .qdsub _ _ _ z _ => z == 0#4
  | .smulwy _ _ z _ _ _ | .smulxy _ _ z _ _ _ _ => z == 0#4
  | .mul _ _ _ z _ _ | .swp _ _ _ z _ | .swpb _ _ _ z _ => z == 0#4
  | .strh _ _ _ o | .ldrh _ _ _ o | .ldrd _ _ _ o | .ldrsb _ _ _ o | .strd _ _ _ o | .ldrsh _ _ _ o => o.regular
  | .msrImm _ _ _ sbo _ _ => sbo == 15#4
  | .tst _ _ z _ | .teq _ _ z _ | .cmp _ _ z _ | .cmn _ _ z _ => z == 0#4
  | .mov _ _ z _ _ | .mvn _ _ z _ _ => z == 0#4
  | .ldm2 _ ix _ | .stm2 _ ix _ => !ix.w
  | .tBx _ z | .tBlxReg _ z => z == 0#3
  | _ => true

/-- The check: the term has a word, and its should-be fields hold. -/
def Instr.wf (i : Instr) : Bool := i.encodable && i.regular

/-- A well-formed instruction. -/
abbrev WellFormed (i : Instr) : Prop := i.wf = true

end Sys2Proof
end

