-- ==== Sys2Proof/Decode.lean ====
section
/-!
DEFINITION. Decoding an instruction word and encoding an instruction, both from spec/30_encoding.md (R423-R439) and
spec/31_encoding_thumb.md (R471-R490). Decoding is total on words: a word of no instruction decodes to the UNDEFINED
row it lies in; a list of bytes too short for a word is rejected by name.
-/
namespace Sys2Proof

/-- Four bits, the first the most significant. -/
def nib (a b c d : Bool) : BitVec 4 := BitVec.ofBool a ++ BitVec.ofBool b ++ BitVec.ofBool c ++ BitVec.ofBool d

/-- Three bits, the first the most significant. -/
def tri (a b c : Bool) : BitVec 3 := BitVec.ofBool a ++ BitVec.ofBool b ++ BitVec.ofBool c

/-- The four bits of a condition (spec/30 R422). -/
def Cond.bits : Cond → BitVec 4
  | .eq => 0#4 | .ne => 1#4 | .cs => 2#4 | .cc => 3#4 | .mi => 4#4 | .pl => 5#4 | .vs => 6#4 | .vc => 7#4
  | .hi => 8#4 | .ls => 9#4 | .ge => 10#4 | .lt => 11#4 | .gt => 12#4 | .le => 13#4 | .al => 14#4

/-- The condition of four bits; `none` is 1111, the unconditional space. -/
def Cond.ofBits (n : BitVec 4) : Option Cond :=
  match n.toNat with
  | 0 => some .eq | 1 => some .ne | 2 => some .cs | 3 => some .cc | 4 => some .mi | 5 => some .pl
  | 6 => some .vs | 7 => some .vc | 8 => some .hi | 9 => some .ls | 10 => some .ge | 11 => some .lt
  | 12 => some .gt | 13 => some .le | 14 => some .al | _ => none

/-- Bit [6] of a shift type. -/
def Shift.hiBit : Shift → Bool
  | .lsl => false | .lsr => false | .asr => true | .ror => true

/-- Bit [5] of a shift type. -/
def Shift.loBit : Shift → Bool
  | .lsl => false | .lsr => true | .asr => false | .ror => true

/-- The shift type of bits [6:5] (spec/30 R427). -/
def Shift.ofBits : Bool → Bool → Shift
  | false, false => .lsl | false, true => .lsr | true, false => .asr | true, true => .ror

/-- An ARM word cut into the pieces the decoder looks at (spec/30 R421). -/
structure Fields where
  cond : BitVec 4
  b27 : Bool
  b26 : Bool
  b25 : Bool
  b24 : Bool
  b23 : Bool
  b22 : Bool
  b21 : Bool
  b20 : Bool
  rn : BitVec 4
  rd : BitVec 4
  rs : BitVec 4
  b7 : Bool
  b6 : Bool
  b5 : Bool
  b4 : Bool
  rm : BitVec 4
  deriving DecidableEq, Repr

/-- Cut a word. -/
def unpack (w : Word) : Fields where
  cond := w.extractLsb' 28 4
  b27 := w.getLsbD 27
  b26 := w.getLsbD 26
  b25 := w.getLsbD 25
  b24 := w.getLsbD 24
  b23 := w.getLsbD 23
  b22 := w.getLsbD 22
  b21 := w.getLsbD 21
  b20 := w.getLsbD 20
  rn := w.extractLsb' 16 4
  rd := w.extractLsb' 12 4
  rs := w.extractLsb' 8 4
  b7 := w.getLsbD 7
  b6 := w.getLsbD 6
  b5 := w.getLsbD 5
  b4 := w.getLsbD 4
  rm := w.extractLsb' 0 4

/-- Join the pieces. -/
def pack (f : Fields) : Word :=
  f.cond ++ nib f.b27 f.b26 f.b25 f.b24 ++ nib f.b23 f.b22 f.b21 f.b20 ++ f.rn ++ f.rd ++ f.rs
    ++ nib f.b7 f.b6 f.b5 f.b4 ++ f.rm

namespace Fields

/-- Bits [7:0]. -/
def low8 (f : Fields) : BitVec 8 := nib f.b7 f.b6 f.b5 f.b4 ++ f.rm

/-- Bits [11:0]. -/
def low12 (f : Fields) : BitVec 12 := f.rs ++ f.low8

/-- Bits [15:0]. -/
def low16 (f : Fields) : BitVec 16 := f.rd ++ f.low12

/-- Bits [19:0]. -/
def low20 (f : Fields) : BitVec 20 := f.rn ++ f.low16

/-- Bits [23:0]. -/
def low24 (f : Fields) : BitVec 24 := nib f.b23 f.b22 f.b21 f.b20 ++ f.low20

/-- Bits [14:0]. -/
def low15 (f : Fields) : BitVec 15 := f.rd.extractLsb' 0 3 ++ f.low12

/-- Put bits [7:0]. -/
def setLow8 (f : Fields) (x : BitVec 8) : Fields :=
  { f with b7 := x.getLsbD 7, b6 := x.getLsbD 6, b5 := x.getLsbD 5, b4 := x.getLsbD 4, rm := x.extractLsb' 0 4 }

/-- Put bits [11:0]. -/
def setLow12 (f : Fields) (x : BitVec 12) : Fields :=
  { f.setLow8 (x.extractLsb' 0 8) with rs := x.extractLsb' 8 4 }

/-- Put bits [15:0]. -/
def setLow16 (f : Fields) (x : BitVec 16) : Fields :=
  { f.setLow12 (x.extractLsb' 0 12) with rd := x.extractLsb' 12 4 }

/-- Put bits [19:0]. -/
def setLow20 (f : Fields) (x : BitVec 20) : Fields :=
  { f.setLow16 (x.extractLsb' 0 16) with rn := x.extractLsb' 16 4 }

/-- Put bits [23:0]. -/
def setLow24 (f : Fields) (x : BitVec 24) : Fields :=
  { f.setLow20 (x.extractLsb' 0 20) with
    b23 := x.getLsbD 23, b22 := x.getLsbD 22, b21 := x.getLsbD 21, b20 := x.getLsbD 20 }

/-- Put bit [15] and bits [14:0]. -/
def setLow15 (f : Fields) (top : Bool) (x : BitVec 15) : Fields :=
  { f.setLow12 (x.extractLsb' 0 12) with rd := BitVec.ofBool top ++ x.extractLsb' 12 3 }

/-- The shifter operand (spec/30 R426-R428). -/
def op2 (f : Fields) : Op2 :=
  match f.b25 with
  | true => .imm f.rs f.low8
  | false =>
    match f.b4 with
    | false => .shiftImm (f.rs ++ BitVec.ofBool f.b7) (Shift.ofBits f.b6 f.b5) f.rm
    | true => .shiftReg f.rs (Shift.ofBits f.b6 f.b5) f.rm

/-- Put a shifter operand. -/
def setOp2 (f : Fields) : Op2 → Fields
  | .imm rot i => { f.setLow8 i with b25 := true, rs := rot }
  | .shiftImm n sh rm =>
    { f with b25 := false, rs := n.extractLsb' 1 4, b7 := n.getLsbD 0, b6 := sh.hiBit, b5 := sh.loBit, b4 := false, rm := rm }
  | .shiftReg rs sh rm =>
    { f with b25 := false, rs := rs, b7 := false, b6 := sh.hiBit, b5 := sh.loBit, b4 := true, rm := rm }

/-- The offset of addressing mode 2 (spec/30 R432). -/
def off2 (f : Fields) : Off2 :=
  match f.b25 with
  | false => .imm f.low12
  | true => .reg (f.rs ++ BitVec.ofBool f.b7) (Shift.ofBits f.b6 f.b5) f.rm

/-- Put an offset of addressing mode 2. -/
def setOff2 (f : Fields) : Off2 → Fields
  | .imm o => { f.setLow12 o with b25 := false }
  | .reg n sh rm =>
    { f with b25 := true, rs := n.extractLsb' 1 4, b7 := n.getLsbD 0, b6 := sh.hiBit, b5 := sh.loBit, b4 := false, rm := rm }

/-- The offset of addressing mode 3 (spec/30 R430). -/
def off3 (f : Fields) : Off3 :=
  match f.b22 with
  | true => .imm (f.rs ++ f.rm)
  | false => .reg f.rs f.rm

/-- Put an offset of addressing mode 3. -/
def setOff3 (f : Fields) : Off3 → Fields
  | .imm o => { f with b22 := true, rs := o.extractLsb' 4 4, rm := o.extractLsb' 0 4 }
  | .reg z rm => { f with b22 := false, rs := z, rm := rm }

/-- P, U, W and the base register. -/
def index (f : Fields) : Index := ⟨f.b24, f.b23, f.b21, f.rn⟩

/-- Put P, U, W and the base register. -/
def setIndex (f : Fields) (ix : Index) : Fields := { f with b24 := ix.p, b23 := ix.u, b21 := ix.w, rn := ix.rn }

/-- The fields of LDC and STC. -/
def cpMem (f : Fields) : CpMem := ⟨f.b24, f.b23, f.b22, f.b21, f.rn, f.rd, f.rs, f.low8⟩

/-- Put the fields of LDC and STC. -/
def setCpMem (f : Fields) (x : CpMem) : Fields :=
  { f.setLow8 x.offset with b24 := x.p, b23 := x.u, b22 := x.n, b21 := x.w, rn := x.rn, rd := x.crd, rs := x.cp }

/-- The fields of CDP. -/
def cpOp (f : Fields) : CpOp := ⟨nib f.b23 f.b22 f.b21 f.b20, f.rn, f.rd, f.rs, tri f.b7 f.b6 f.b5, f.rm⟩

/-- Put the fields of CDP. -/
def setCpOp (f : Fields) (x : CpOp) : Fields :=
  { f with b23 := x.op1.getLsbD 3, b22 := x.op1.getLsbD 2, b21 := x.op1.getLsbD 1, b20 := x.op1.getLsbD 0, rn := x.crn, rd := x.crd, rs := x.cp,
           b7 := x.op2.getLsbD 2, b6 := x.op2.getLsbD 1, b5 := x.op2.getLsbD 0, b4 := false, rm := x.crm }

/-- The fields of MCR and MRC. -/
def cpReg (f : Fields) : CpReg := ⟨tri f.b23 f.b22 f.b21, f.rn, f.rd, f.rs, tri f.b7 f.b6 f.b5, f.rm⟩

/-- Put the fields of MCR (`load` false) or MRC. -/
def setCpReg (f : Fields) (load : Bool) (x : CpReg) : Fields :=
  { f with b23 := x.op1.getLsbD 2, b22 := x.op1.getLsbD 1, b21 := x.op1.getLsbD 0, b20 := load, rn := x.crn, rd := x.rd, rs := x.cp,
           b7 := x.op2.getLsbD 2, b6 := x.op2.getLsbD 1, b5 := x.op2.getLsbD 0, b4 := true, rm := x.crm }

end Fields

/-- The word with this condition field and every other bit clear. -/
def fieldsOf (cond : BitVec 4) : Fields :=
  { cond := cond, b27 := false, b26 := false, b25 := false, b24 := false, b23 := false, b22 := false, b21 := false,
    b20 := false, rn := 0#4, rd := 0#4, rs := 0#4, b7 := false, b6 := false, b5 := false, b4 := false, rm := 0#4 }

/-- The unconditional space (spec/30 R439). -/
def decodeUncond (f : Fields) : Instr :=
  let hole := Instr.undUncond (nib f.b27 f.b26 f.b25 f.b24 ++ nib f.b23 f.b22 f.b21 f.b20) f.rn f.rd f.rs
    (nib f.b7 f.b6 f.b5 f.b4) f.rm
  match f.b27, f.b26, f.b25 with
  | false, false, _ => hole
  | false, true, i =>
    match f.b24 && f.b22 && !f.b21 && f.b20 && f.rd == 15#4 with
    | false => hole
    | true =>
      match i && f.b4 with
      | true => .undPld f.b23 f.rn f.rs (tri f.b7 f.b6 f.b5) f.rm
      | false => .pld f.b23 f.rn f.off2
  | true, false, false => hole
  | true, false, true => .blxImm f.b24 f.low24
  | true, true, false =>
    match f.b24 || f.b23 || f.b21, f.b20 with
    | false, _ => .undExt2 f.b22 f.b20 f.low20
    | true, true => .ldc2 f.cpMem
    | true, false => .stc2 f.cpMem
  | true, true, true =>
    match f.b24, f.b4, f.b20 with
    | true, _, _ => hole
    | false, false, _ => .cdp2 f.cpOp
    | false, true, false => .mcr2 f.cpReg
    | false, true, true => .mrc2 f.cpReg

/-- The miscellaneous space (spec/30 R429): bits [27:23] = 00010, bit 20 = 0, and bit 7 = 0 or bit 4 = 0. -/
def decodeMisc (c : Cond) (f : Fields) : Instr :=
  let hole := Instr.undMiscA c (BitVec.ofBool f.b22 ++ BitVec.ofBool f.b21) f.rn f.rd f.rs (tri f.b6 f.b5 f.b4) f.rm
  match f.b7 with
  | false =>
    match f.b6, f.b5, f.b4, f.b22, f.b21 with
    | false, false, false, r, false => .mrs c r f.rn f.rd f.rs f.rm
    | false, false, false, r, true => .msrReg c r f.rn f.rd f.rs f.rm
    | false, false, true, false, true => .bx c f.rn f.rd f.rs f.rm
    | false, false, true, true, true => .clz c f.rn f.rd f.rs f.rm
    | false, true, true, false, true => .blxReg c f.rn f.rd f.rs f.rm
    | true, false, true, false, false => .qadd c f.rn f.rd f.rs f.rm
    | true, false, true, false, true => .qsub c f.rn f.rd f.rs f.rm
    | true, false, true, true, false => .qdadd c f.rn f.rd f.rs f.rm
    | true, false, true, true, true => .qdsub c f.rn f.rd f.rs f.rm
    | true, true, true, false, true => .bkpt c (f.rn ++ f.rd ++ f.rs) f.rm
    | _, _, _, _, _ => hole
  | true =>
    match f.b22, f.b21 with
    | false, false => .smlaxy c f.rn f.rd f.rs f.b6 f.b5 f.rm
    | false, true =>
      match f.b5 with
      | false => .smlawy c f.rn f.rd f.rs f.b6 f.rm
      | true => .smulwy c f.rn f.rd f.rs f.b6 f.rm
    | true, false => .smlalxy c f.rn f.rd f.rs f.b6 f.b5 f.rm
    | true, true => .smulxy c f.rn f.rd f.rs f.b6 f.b5 f.rm

/-- Multiplies and swaps (spec/30 R430): bits [27:25] = 000 and [7:4] = 1001. -/
def decodeMul (c : Cond) (f : Fields) : Instr :=
  let hole := Instr.undMul c (BitVec.ofBool f.b24 ++ nib f.b23 f.b22 f.b21 f.b20) f.rn f.rd f.rs f.rm
  match f.b24, f.b23, f.b22, f.b21 with
  | false, false, false, false => .mul c f.b20 f.rn f.rd f.rs f.rm
  | false, false, false, true => .mla c f.b20 f.rn f.rd f.rs f.rm
  | false, false, true, _ => hole
  | false, true, false, false => .umull c f.b20 f.rn f.rd f.rs f.rm
  | false, true, false, true => .umlal c f.b20 f.rn f.rd f.rs f.rm
  | false, true, true, false => .smull c f.b20 f.rn f.rd f.rs f.rm
  | false, true, true, true => .smlal c f.b20 f.rn f.rd f.rs f.rm
  | true, false, false, false =>
    match f.b20 with
    | false => .swp c f.rn f.rd f.rs f.rm
    | true => hole
  | true, false, true, false =>
    match f.b20 with
    | false => .swpb c f.rn f.rd f.rs f.rm
    | true => hole
  | true, _, _, _ => hole

/-- Bits [27:25] = 000, bit 7 = 1, bit 4 = 1 (spec/30 R430). -/
def decodeExtra (c : Cond) (f : Fields) : Instr :=
  match f.b6, f.b5, f.b20 with
  | false, false, _ => decodeMul c f
  | false, true, false => .strh c f.index f.rd f.off3
  | false, true, true => .ldrh c f.index f.rd f.off3
  | true, false, false => .ldrd c f.index f.rd f.off3
  | true, false, true => .ldrsb c f.index f.rd f.off3
  | true, true, false => .strd c f.index f.rd f.off3
  | true, true, true => .ldrsh c f.index f.rd f.off3

/-- The sixteen data-processing operations (spec/30 R425). -/
def decodeDp (c : Cond) (f : Fields) : Instr :=
  match f.b24, f.b23, f.b22, f.b21 with
  | false, false, false, false => .and c f.b20 f.rn f.rd f.op2
  | false, false, false, true => .eor c f.b20 f.rn f.rd f.op2
  | false, false, true, false => .sub c f.b20 f.rn f.rd f.op2
  | false, false, true, true => .rsb c f.b20 f.rn f.rd f.op2
  | false, true, false, false => .add c f.b20 f.rn f.rd f.op2
  | false, true, false, true => .adc c f.b20 f.rn f.rd f.op2
  | false, true, true, false => .sbc c f.b20 f.rn f.rd f.op2
  | false, true, true, true => .rsc c f.b20 f.rn f.rd f.op2
  | true, false, false, false => .tst c f.rn f.rd f.op2
  | true, false, false, true => .teq c f.rn f.rd f.op2
  | true, false, true, false => .cmp c f.rn f.rd f.op2
  | true, false, true, true => .cmn c f.rn f.rd f.op2
  | true, true, false, false => .orr c f.b20 f.rn f.rd f.op2
  | true, true, false, true => .mov c f.b20 f.rn f.rd f.op2
  | true, true, true, false => .bic c f.b20 f.rn f.rd f.op2
  | true, true, true, true => .mvn c f.b20 f.rn f.rd f.op2

/-- Bits [27:25] = 000 (spec/30 R423 rows 1 to 4). -/
def decode000 (c : Cond) (f : Fields) : Instr :=
  match f.b24, f.b23, f.b20 with
  | true, false, false =>
    match f.b4 with
    | false => decodeMisc c f
    | true =>
      match f.b7 with
      | false => decodeMisc c f
      | true => decodeExtra c f
  | _, _, _ =>
    match f.b4 with
    | false => decodeDp c f
    | true =>
      match f.b7 with
      | false => decodeDp c f
      | true => decodeExtra c f

/-- Bits [27:25] = 001 (spec/30 R423 rows 5 to 7). -/
def decode001 (c : Cond) (f : Fields) : Instr :=
  match f.b24, f.b23, f.b20, f.b21 with
  | true, false, false, false => .undMsr c f.b22 f.low20
  | true, false, false, true => .msrImm c f.b22 f.rn f.rd f.rs f.low8
  | _, _, _, _ => decodeDp c f

/-- Word and byte transfers (spec/30 R432). -/
def decodeSingle (c : Cond) (f : Fields) : Instr :=
  match f.b24, f.b21, f.b22, f.b20 with
  | false, true, false, true => .ldrt c f.b23 f.rn f.rd f.off2
  | false, true, true, true => .ldrbt c f.b23 f.rn f.rd f.off2
  | false, true, false, false => .strt c f.b23 f.rn f.rd f.off2
  | false, true, true, false => .strbt c f.b23 f.rn f.rd f.off2
  | _, _, false, true => .ldr c f.index f.rd f.off2
  | _, _, true, true => .ldrb c f.index f.rd f.off2
  | _, _, false, false => .str c f.index f.rd f.off2
  | _, _, true, false => .strb c f.index f.rd f.off2

/-- Load and store multiple (spec/30 R435). -/
def decodeMultiple (c : Cond) (f : Fields) : Instr :=
  match f.b20, f.b22, f.rd.getLsbD 3 with
  | true, false, _ => .ldm1 c f.index f.low16
  | true, true, false => .ldm2 c f.index f.low15
  | true, true, true => .ldm3 c f.index f.low15
  | false, false, _ => .stm1 c f.index f.low16
  | false, true, _ => .stm2 c f.index f.low16

/-- Bits [27:25] = 110 (spec/30 R437). -/
def decode110 (c : Cond) (f : Fields) : Instr :=
  match f.b24 || f.b23 || f.b21, f.b22, f.b20 with
  | false, false, l => .undCpExt c l f.low20
  | false, true, false => .mcrr c f.rn f.rd f.rs (nib f.b7 f.b6 f.b5 f.b4) f.rm
  | false, true, true => .mrrc c f.rn f.rd f.rs (nib f.b7 f.b6 f.b5 f.b4) f.rm
  | true, _, true => .ldc c f.cpMem
  | true, _, false => .stc c f.cpMem

/-- Bits [27:25] = 111 (spec/30 R423 rows 15 to 17). -/
def decode111 (c : Cond) (f : Fields) : Instr :=
  match f.b24, f.b4, f.b20 with
  | true, _, _ => .swi c f.low24
  | false, false, _ => .cdp c f.cpOp
  | false, true, false => .mcr c f.cpReg
  | false, true, true => .mrc c f.cpReg

/-- The conditional instructions (spec/30 R423). -/
def decodeCond (c : Cond) (f : Fields) : Instr :=
  match f.b27, f.b26, f.b25 with
  | false, false, false => decode000 c f
  | false, false, true => decode001 c f
  | false, true, false => decodeSingle c f
  | false, true, true =>
    match f.b4 with
    | false => decodeSingle c f
    | true => .undMedia c (BitVec.ofBool f.b24 ++ nib f.b23 f.b22 f.b21 f.b20) f.rn f.rd f.rs (tri f.b7 f.b6 f.b5) f.rm
  | true, false, false => decodeMultiple c f
  | true, false, true =>
    match f.b24 with
    | false => .b c f.low24
    | true => .bl c f.low24
  | true, true, false => decode110 c f
  | true, true, true => decode111 c f

/-- Decoding of the pieces of an ARM word (spec/30 R424). -/
def decodeFields (f : Fields) : Instr :=
  match Cond.ofBits f.cond with
  | none => decodeUncond f
  | some c => decodeCond c f

/-- Decoding of an ARM word. -/
def decodeArm (w : Word) : Instr := decodeFields (unpack w)

/-- A Thumb halfword cut into its bits. -/
structure Bits16 where
  b15 : Bool
  b14 : Bool
  b13 : Bool
  b12 : Bool
  b11 : Bool
  b10 : Bool
  b9 : Bool
  b8 : Bool
  b7 : Bool
  b6 : Bool
  b5 : Bool
  b4 : Bool
  b3 : Bool
  b2 : Bool
  b1 : Bool
  b0 : Bool
  deriving DecidableEq, Repr

/-- Cut a halfword. -/
def unpack16 (h : Half) : Bits16 :=
  ⟨h.getLsbD 15, h.getLsbD 14, h.getLsbD 13, h.getLsbD 12, h.getLsbD 11, h.getLsbD 10, h.getLsbD 9, h.getLsbD 8,
   h.getLsbD 7, h.getLsbD 6, h.getLsbD 5, h.getLsbD 4, h.getLsbD 3, h.getLsbD 2, h.getLsbD 1, h.getLsbD 0⟩

/-- Join the bits. -/
def pack16 (t : Bits16) : Half :=
  nib t.b15 t.b14 t.b13 t.b12 ++ nib t.b11 t.b10 t.b9 t.b8 ++ nib t.b7 t.b6 t.b5 t.b4 ++ nib t.b3 t.b2 t.b1 t.b0

namespace Bits16

/-- Bits [2:0]. -/
def r0 (t : Bits16) : LoReg := tri t.b2 t.b1 t.b0

/-- Bits [5:3]. -/
def r3 (t : Bits16) : LoReg := tri t.b5 t.b4 t.b3

/-- Bits [8:6]. -/
def r6 (t : Bits16) : LoReg := tri t.b8 t.b7 t.b6

/-- Bits [10:8]. -/
def r8 (t : Bits16) : LoReg := tri t.b10 t.b9 t.b8

/-- Bits [7:0]. -/
def imm8 (t : Bits16) : BitVec 8 := nib t.b7 t.b6 t.b5 t.b4 ++ nib t.b3 t.b2 t.b1 t.b0

/-- Bits [10:6]. -/
def imm5 (t : Bits16) : BitVec 5 := BitVec.ofBool t.b10 ++ nib t.b9 t.b8 t.b7 t.b6

/-- Bits [6:0]. -/
def imm7 (t : Bits16) : BitVec 7 := tri t.b6 t.b5 t.b4 ++ nib t.b3 t.b2 t.b1 t.b0

/-- Bits [10:0]. -/
def imm11 (t : Bits16) : BitVec 11 := tri t.b10 t.b9 t.b8 ++ t.imm8

/-- Bits [10:1]. -/
def imm10 (t : Bits16) : BitVec 10 := tri t.b10 t.b9 t.b8 ++ tri t.b7 t.b6 t.b5 ++ nib t.b4 t.b3 t.b2 t.b1

/-- Put bits [2:0]. -/
def setR0 (t : Bits16) (r : LoReg) : Bits16 := { t with b2 := r.getLsbD 2, b1 := r.getLsbD 1, b0 := r.getLsbD 0 }

/-- Put bits [5:3]. -/
def setR3 (t : Bits16) (r : LoReg) : Bits16 := { t with b5 := r.getLsbD 2, b4 := r.getLsbD 1, b3 := r.getLsbD 0 }

/-- Put bits [8:6]. -/
def setR6 (t : Bits16) (r : LoReg) : Bits16 := { t with b8 := r.getLsbD 2, b7 := r.getLsbD 1, b6 := r.getLsbD 0 }

/-- Put bits [10:8]. -/
def setR8 (t : Bits16) (r : LoReg) : Bits16 := { t with b10 := r.getLsbD 2, b9 := r.getLsbD 1, b8 := r.getLsbD 0 }

/-- Put bits [7:0]. -/
def setImm8 (t : Bits16) (x : BitVec 8) : Bits16 :=
  { t with b7 := x.getLsbD 7, b6 := x.getLsbD 6, b5 := x.getLsbD 5, b4 := x.getLsbD 4,
           b3 := x.getLsbD 3, b2 := x.getLsbD 2, b1 := x.getLsbD 1, b0 := x.getLsbD 0 }

/-- Put bits [10:6]. -/
def setImm5 (t : Bits16) (x : BitVec 5) : Bits16 :=
  { t with b10 := x.getLsbD 4, b9 := x.getLsbD 3, b8 := x.getLsbD 2, b7 := x.getLsbD 1, b6 := x.getLsbD 0 }

/-- Put bits [6:0]. -/
def setImm7 (t : Bits16) (x : BitVec 7) : Bits16 :=
  { t with b6 := x.getLsbD 6, b5 := x.getLsbD 5, b4 := x.getLsbD 4,
           b3 := x.getLsbD 3, b2 := x.getLsbD 2, b1 := x.getLsbD 1, b0 := x.getLsbD 0 }

/-- Put bits [10:0]. -/
def setImm11 (t : Bits16) (x : BitVec 11) : Bits16 :=
  { t with b10 := x.getLsbD 10, b9 := x.getLsbD 9, b8 := x.getLsbD 8, b7 := x.getLsbD 7, b6 := x.getLsbD 6, b5 := x.getLsbD 5,
           b4 := x.getLsbD 4, b3 := x.getLsbD 3, b2 := x.getLsbD 2, b1 := x.getLsbD 1, b0 := x.getLsbD 0 }

/-- Put bits [10:1]. -/
def setImm10 (t : Bits16) (x : BitVec 10) : Bits16 :=
  { t with b10 := x.getLsbD 9, b9 := x.getLsbD 8, b8 := x.getLsbD 7, b7 := x.getLsbD 6, b6 := x.getLsbD 5, b5 := x.getLsbD 4,
           b4 := x.getLsbD 3, b3 := x.getLsbD 2, b2 := x.getLsbD 1, b1 := x.getLsbD 0 }

/-- The destination of the high-register format, H1 and bits [2:0]. -/
def hi0 (t : Bits16) : Reg := nib t.b7 t.b2 t.b1 t.b0

/-- The source of the high-register format, H2 and bits [5:3]. -/
def hi3 (t : Bits16) : Reg := nib t.b6 t.b5 t.b4 t.b3

/-- Put H1 and bits [2:0]. -/
def setHi0 (t : Bits16) (r : Reg) : Bits16 :=
  { t with b7 := r.getLsbD 3, b2 := r.getLsbD 2, b1 := r.getLsbD 1, b0 := r.getLsbD 0 }

/-- Put H2 and bits [5:3]. -/
def setHi3 (t : Bits16) (r : Reg) : Bits16 :=
  { t with b6 := r.getLsbD 3, b5 := r.getLsbD 2, b4 := r.getLsbD 1, b3 := r.getLsbD 0 }

end Bits16

/-- Format T4 (spec/31 R475). -/
def decodeT4 (t : Bits16) : Instr :=
  match t.b9, t.b8, t.b7, t.b6 with
  | false, false, false, false => .tAnd t.r3 t.r0
  | false, false, false, true => .tEor t.r3 t.r0
  | false, false, true, false => .tLslReg t.r3 t.r0
  | false, false, true, true => .tLsrReg t.r3 t.r0
  | false, true, false, false => .tAsrReg t.r3 t.r0
  | false, true, false, true => .tAdc t.r3 t.r0
  | false, true, true, false => .tSbc t.r3 t.r0
  | false, true, true, true => .tRor t.r3 t.r0
  | true, false, false, false => .tTst t.r3 t.r0
  | true, false, false, true => .tNeg t.r3 t.r0
  | true, false, true, false => .tCmpReg t.r3 t.r0
  | true, false, true, true => .tCmn t.r3 t.r0
  | true, true, false, false => .tOrr t.r3 t.r0
  | true, true, false, true => .tMul t.r3 t.r0
  | true, true, true, false => .tBic t.r3 t.r0
  | true, true, true, true => .tMvn t.r3 t.r0

/-- Format T5 (spec/31 R476). -/
def decodeT5 (t : Bits16) : Instr :=
  match t.b9, t.b8, t.b7 with
  | false, false, _ => .tAddHi t.hi3 t.hi0
  | false, true, _ => .tCmpHi t.hi3 t.hi0
  | true, false, _ => .tMovHi t.hi3 t.hi0
  | true, true, false => .tBx t.hi3 t.r0
  | true, true, true => .tBlxReg t.hi3 t.r0

/-- Formats T7 and T8 (spec/31 R478). -/
def decodeT7 (t : Bits16) : Instr :=
  match t.b11, t.b10, t.b9 with
  | false, false, false => .tStrReg t.r6 t.r3 t.r0
  | false, false, true => .tStrhReg t.r6 t.r3 t.r0
  | false, true, false => .tStrbReg t.r6 t.r3 t.r0
  | false, true, true => .tLdrsbReg t.r6 t.r3 t.r0
  | true, false, false => .tLdrReg t.r6 t.r3 t.r0
  | true, false, true => .tLdrhReg t.r6 t.r3 t.r0
  | true, true, false => .tLdrbReg t.r6 t.r3 t.r0
  | true, true, true => .tLdrshReg t.r6 t.r3 t.r0

/-- The 1011 halfwords (spec/31 R483-R485, R490). -/
def decode1011 (t : Bits16) : Instr :=
  let hole := Instr.tUnd1011 (nib t.b11 t.b10 t.b9 t.b8 ++ t.imm8)
  match t.b11, t.b10, t.b9, t.b8, t.b7 with
  | false, false, false, false, false => .tAddSp t.imm7
  | false, false, false, false, true => .tSubSp t.imm7
  | false, true, false, r, _ => .tPush r t.imm8
  | true, true, false, r, _ => .tPop r t.imm8
  | true, true, true, false, _ => .tBkpt t.imm8
  | _, _, _, _, _ => hole

/-- The 1101 halfwords (spec/31 R486, R488, R490). -/
def decode1101 (t : Bits16) : Instr :=
  match Cond.ofBits (nib t.b11 t.b10 t.b9 t.b8) with
  | none => .tSwi t.imm8
  | some .al => .tUndCond t.imm8
  | some c => .tBcond c t.imm8

/-- Decoding of the bits of a Thumb halfword (spec/31 R471). -/
def decodeBits16 (t : Bits16) : Instr :=
  match t.b15, t.b14, t.b13, t.b12 with
  | false, false, false, false =>
    match t.b11 with
    | false => .tLslImm t.imm5 t.r3 t.r0
    | true => .tLsrImm t.imm5 t.r3 t.r0
  | false, false, false, true =>
    match t.b11, t.b10, t.b9 with
    | false, _, _ => .tAsrImm t.imm5 t.r3 t.r0
    | true, false, false => .tAddReg t.r6 t.r3 t.r0
    | true, false, true => .tSubReg t.r6 t.r3 t.r0
    | true, true, false => .tAddImm3 t.r6 t.r3 t.r0
    | true, true, true => .tSubImm3 t.r6 t.r3 t.r0
  | false, false, true, false =>
    match t.b11 with
    | false => .tMovImm t.r8 t.imm8
    | true => .tCmpImm t.r8 t.imm8
  | false, false, true, true =>
    match t.b11 with
    | false => .tAddImm8 t.r8 t.imm8
    | true => .tSubImm8 t.r8 t.imm8
  | false, true, false, false =>
    match t.b11, t.b10 with
    | false, false => decodeT4 t
    | false, true => decodeT5 t
    | true, _ => .tLdrPc t.r8 t.imm8
  | false, true, false, true => decodeT7 t
  | false, true, true, false =>
    match t.b11 with
    | false => .tStrImm t.imm5 t.r3 t.r0
    | true => .tLdrImm t.imm5 t.r3 t.r0
  | false, true, true, true =>
    match t.b11 with
    | false => .tStrbImm t.imm5 t.r3 t.r0
    | true => .tLdrbImm t.imm5 t.r3 t.r0
  | true, false, false, false =>
    match t.b11 with
    | false => .tStrhImm t.imm5 t.r3 t.r0
    | true => .tLdrhImm t.imm5 t.r3 t.r0
  | true, false, false, true =>
    match t.b11 with
    | false => .tStrSp t.r8 t.imm8
    | true => .tLdrSp t.r8 t.imm8
  | true, false, true, false =>
    match t.b11 with
    | false => .tAddPc t.r8 t.imm8
    | true => .tAddSpRd t.r8 t.imm8
  | true, false, true, true => decode1011 t
  | true, true, false, false =>
    match t.b11 with
    | false => .tStmia t.r8 t.imm8
    | true => .tLdmia t.r8 t.imm8
  | true, true, false, true => decode1101 t
  | true, true, true, false =>
    match t.b11, t.b0 with
    | false, _ => .tB t.imm11
    | true, true => .tUndBlx t.imm10
    | true, false => .tBlxSuffix t.imm10
  | true, true, true, true =>
    match t.b11 with
    | false => .tBlPrefix t.imm11
    | true => .tBlSuffix t.imm11

/-- Decoding of a Thumb halfword. -/
def decodeThumb (h : Half) : Instr := decodeBits16 (unpack16 h)

/-- An instruction word of either state. -/
inductive Code where
  | arm (w : Word)
  | thumb (h : Half)
  deriving DecidableEq, Repr

/-- Decoding of an instruction word. -/
def decode : Code → Instr
  | .arm w => decodeArm w
  | .thumb h => decodeThumb h

/-- Why a list of bytes is no instruction word. -/
inductive DecodeError where
  /-- Fewer than the four bytes of an ARM word. -/
  | armTooShort
  /-- Fewer than the two bytes of a Thumb halfword. -/
  | thumbTooShort
  deriving DecidableEq, Repr

/-- Decoding of the bytes at the lowest addresses first, little-endian (spec/20 R204, B = 0), with the bytes left over. -/
def decodeBytes (thumb : Bool) (bytes : List Byte) : Except DecodeError (Instr × List Byte) :=
  match thumb with
  | false =>
    match bytes with
    | b0 :: b1 :: b2 :: b3 :: rest => .ok (decodeArm (b3 ++ b2 ++ b1 ++ b0), rest)
    | _ => .error .armTooShort
  | true =>
    match bytes with
    | b0 :: b1 :: rest => .ok (decodeThumb (b1 ++ b0), rest)
    | _ => .error .thumbTooShort

/-- The bytes of the low `n` bytes of `w`, lowest first. -/
def bytesOf : Nat → Nat → List Byte
  | 0, _ => []
  | n + 1, w => BitVec.ofNat 8 w :: bytesOf n (w / 256)

/-- The instruction the decoder reads from `nbits` bits `w` of a table row (32: ARM, 16: Thumb). -/
def decodeTableWord (nbits w : Nat) : Option Instr :=
  match nbits with
  | 32 => (decodeBytes false (bytesOf 4 w)).toOption.map Prod.fst
  | 16 => (decodeBytes true (bytesOf 2 w)).toOption.map Prod.fst
  | _ => none

/-- A data-processing word: opcode bits [24:21] and S. -/
def dpFields (c : Cond) (o3 o2 o1 o0 s : Bool) (rn rd : BitVec 4) (op : Op2) : Fields :=
  { fieldsOf c.bits with b24 := o3, b23 := o2, b22 := o1, b21 := o0, b20 := s, rn := rn, rd := rd }.setOp2 op

/-- A word of the miscellaneous space: bits [22:21] and [7:4]. -/
def miscFields (c : Cond) (b22 b21 b7 b6 b5 b4 : Bool) (rn rd rs rm : BitVec 4) : Fields :=
  { fieldsOf c.bits with b24 := true, b22 := b22, b21 := b21, b7 := b7, b6 := b6, b5 := b5, b4 := b4, rn := rn, rd := rd, rs := rs, rm := rm }

/-- A multiply or swap word: bits [24:20]. -/
def mulFields (c : Cond) (b24 b23 b22 b21 b20 : Bool) (rn rd rs rm : BitVec 4) : Fields :=
  { fieldsOf c.bits with b24 := b24, b23 := b23, b22 := b22, b21 := b21, b20 := b20, b7 := true, b4 := true, rn := rn, rd := rd, rs := rs, rm := rm }

/-- A halfword, signed or doubleword transfer: bits [6:5] and L. -/
def extraFields (c : Cond) (b6 b5 l : Bool) (ix : Index) (rd : Reg) (off : Off3) : Fields :=
  ({ fieldsOf c.bits with b20 := l, b7 := true, b6 := b6, b5 := b5, b4 := true, rd := rd }.setIndex ix).setOff3 off

/-- A word or byte transfer: B and L. -/
def singleFields (c : Cond) (byte l : Bool) (ix : Index) (rd : Reg) (off : Off2) : Fields :=
  ({ fieldsOf c.bits with b26 := true, b22 := byte, b20 := l, rd := rd }.setIndex ix).setOff2 off

/-- A load or store multiple: S and L. -/
def multipleFields (c : Cond) (sbit l : Bool) (ix : Index) : Fields :=
  { fieldsOf c.bits with b27 := true, b22 := sbit, b20 := l }.setIndex ix

/-- A word of a coprocessor instruction class, bits [27:25] = 110 or 111. -/
def cpFields (cond : BitVec 4) (b25 : Bool) : Fields :=
  { fieldsOf cond with b27 := true, b26 := true, b25 := b25 }

/-- The pieces of an ARM instruction's word; `none` for a Thumb instruction. -/
def encodeFields : Instr → Option Fields
  | .undPld u rn rs mid rm => some { fieldsOf 15#4 with b26 := true, b25 := true, b24 := true, b23 := u, b22 := true, b20 := true, rn := rn, rd := 15#4, rs := rs, b7 := mid.getLsbD 2, b6 := mid.getLsbD 1, b5 := mid.getLsbD 0, b4 := true, rm := rm }
  | .pld u rn off => some ({ fieldsOf 15#4 with b26 := true, b24 := true, b23 := u, b22 := true, b20 := true, rn := rn, rd := 15#4 }.setOff2 off)
  | .blxImm h imm => some ({ fieldsOf 15#4 with b27 := true, b25 := true, b24 := h }.setLow24 imm)
  | .undExt2 n l body => some ({ cpFields 15#4 false with b22 := n, b20 := l }.setLow20 body)
  | .ldc2 f => some ({ cpFields 15#4 false with b20 := true }.setCpMem f)
  | .stc2 f => some ((cpFields 15#4 false).setCpMem f)
  | .cdp2 f => some ((cpFields 15#4 true).setCpOp f)
  | .mcr2 f => some ((cpFields 15#4 true).setCpReg false f)
  | .mrc2 f => some ((cpFields 15#4 true).setCpReg true f)
  | .undUncond op rn rd rs lo4 rm => some
      { cond := 15#4, b27 := op.getLsbD 7, b26 := op.getLsbD 6, b25 := op.getLsbD 5, b24 := op.getLsbD 4, b23 := op.getLsbD 3, b22 := op.getLsbD 2, b21 := op.getLsbD 1, b20 := op.getLsbD 0, rn := rn, rd := rd, rs := rs,
        b7 := lo4.getLsbD 3, b6 := lo4.getLsbD 2, b5 := lo4.getLsbD 1, b4 := lo4.getLsbD 0, rm := rm }
  | .mrs c r sbo rd z1 z2 => some (miscFields c r false false false false false sbo rd z1 z2)
  | .msrReg c r mask sbo sbz rm => some (miscFields c r true false false false false mask sbo sbz rm)
  | .bx c a b d rm => some (miscFields c false true false false false true a b d rm)
  | .clz c a rd b rm => some (miscFields c true true false false false true a rd b rm)
  | .blxReg c a b d rm => some (miscFields c false true false false true true a b d rm)
  | .qadd c rn rd z rm => some (miscFields c false false false true false true rn rd z rm)
  | .qsub c rn rd z rm => some (miscFields c false true false true false true rn rd z rm)
  | .qdadd c rn rd z rm => some (miscFields c true false false true false true rn rd z rm)
  | .qdsub c rn rd z rm => some (miscFields c true true false true false true rn rd z rm)
  | .bkpt c hi lo => some (miscFields c false true false true true true (hi.extractLsb' 8 4) (hi.extractLsb' 4 4) (hi.extractLsb' 0 4) lo)
  | .smlaxy c rd rn rs y x rm => some (miscFields c false false true y x false rd rn rs rm)
  | .smlawy c rd rn rs y rm => some (miscFields c false true true y false false rd rn rs rm)
  | .smulwy c rd z rs y rm => some (miscFields c false true true y true false rd z rs rm)
  | .smlalxy c hi lo rs y x rm => some (miscFields c true false true y x false hi lo rs rm)
  | .smulxy c rd z rs y x rm => some (miscFields c true true true y x false rd z rs rm)
  | .undMiscA c op rn rd rs k rm => some (miscFields c (op.getLsbD 1) (op.getLsbD 0) false (k.getLsbD 2) (k.getLsbD 1) (k.getLsbD 0) rn rd rs rm)
  | .undMiscB c op rn rd rs k rm => some (miscFields c (op.getLsbD 1) (op.getLsbD 0) (k.getLsbD 2) (k.getLsbD 1) (k.getLsbD 0) false rn rd rs rm)
  | .mul c s rd z rs rm => some (mulFields c false false false false s rd z rs rm)
  | .mla c s rd rn rs rm => some (mulFields c false false false true s rd rn rs rm)
  | .umull c s hi lo rs rm => some (mulFields c false true false false s hi lo rs rm)
  | .umlal c s hi lo rs rm => some (mulFields c false true false true s hi lo rs rm)
  | .smull c s hi lo rs rm => some (mulFields c false true true false s hi lo rs rm)
  | .smlal c s hi lo rs rm => some (mulFields c false true true true s hi lo rs rm)
  | .swp c rn rd z rm => some (mulFields c true false false false false rn rd z rm)
  | .swpb c rn rd z rm => some (mulFields c true false true false false rn rd z rm)
  | .undMul c op rn rd rs rm => some (mulFields c (op.getLsbD 4) (op.getLsbD 3) (op.getLsbD 2) (op.getLsbD 1) (op.getLsbD 0) rn rd rs rm)
  | .strh c ix rd off => some (extraFields c false true false ix rd off)
  | .ldrh c ix rd off => some (extraFields c false true true ix rd off)
  | .ldrd c ix rd off => some (extraFields c true false false ix rd off)
  | .ldrsb c ix rd off => some (extraFields c true false true ix rd off)
  | .strd c ix rd off => some (extraFields c true true false ix rd off)
  | .ldrsh c ix rd off => some (extraFields c true true true ix rd off)
  | .undMsr c r body => some ({ fieldsOf c.bits with b25 := true, b24 := true, b22 := r }.setLow20 body)
  | .msrImm c r mask sbo rot imm => some { { fieldsOf c.bits with b25 := true, b24 := true, b22 := r, b21 := true, rn := mask, rd := sbo }.setLow8 imm with rs := rot }
  | .and c s rn rd op => some (dpFields c false false false false s rn rd op)
  | .eor c s rn rd op => some (dpFields c false false false true s rn rd op)
  | .sub c s rn rd op => some (dpFields c false false true false s rn rd op)
  | .rsb c s rn rd op => some (dpFields c false false true true s rn rd op)
  | .add c s rn rd op => some (dpFields c false true false false s rn rd op)
  | .adc c s rn rd op => some (dpFields c false true false true s rn rd op)
  | .sbc c s rn rd op => some (dpFields c false true true false s rn rd op)
  | .rsc c s rn rd op => some (dpFields c false true true true s rn rd op)
  | .tst c rn z op => some (dpFields c true false false false true rn z op)
  | .teq c rn z op => some (dpFields c true false false true true rn z op)
  | .cmp c rn z op => some (dpFields c true false true false true rn z op)
  | .cmn c rn z op => some (dpFields c true false true true true rn z op)
  | .orr c s rn rd op => some (dpFields c true true false false s rn rd op)
  | .mov c s z rd op => some (dpFields c true true false true s z rd op)
  | .bic c s rn rd op => some (dpFields c true true true false s rn rd op)
  | .mvn c s z rd op => some (dpFields c true true true true s z rd op)
  | .undMedia c op rn rd rs mid rm => some
      { fieldsOf c.bits with b26 := true, b25 := true, b24 := op.getLsbD 4, b23 := op.getLsbD 3, b22 := op.getLsbD 2, b21 := op.getLsbD 1, b20 := op.getLsbD 0, rn := rn, rd := rd, rs := rs,
                             b7 := mid.getLsbD 2, b6 := mid.getLsbD 1, b5 := mid.getLsbD 0, b4 := true, rm := rm }
  | .ldrt c u rn rd off => some (singleFields c false true ⟨false, u, true, rn⟩ rd off)
  | .ldrbt c u rn rd off => some (singleFields c true true ⟨false, u, true, rn⟩ rd off)
  | .strt c u rn rd off => some (singleFields c false false ⟨false, u, true, rn⟩ rd off)
  | .strbt c u rn rd off => some (singleFields c true false ⟨false, u, true, rn⟩ rd off)
  | .ldr c ix rd off => some (singleFields c false true ix rd off)
  | .ldrb c ix rd off => some (singleFields c true true ix rd off)
  | .str c ix rd off => some (singleFields c false false ix rd off)
  | .strb c ix rd off => some (singleFields c true false ix rd off)
  | .ldm1 c ix list => some ((multipleFields c false true ix).setLow16 list)
  | .ldm2 c ix list => some ((multipleFields c true true ix).setLow15 false list)
  | .ldm3 c ix list => some ((multipleFields c true true ix).setLow15 true list)
  | .stm1 c ix list => some ((multipleFields c false false ix).setLow16 list)
  | .stm2 c ix list => some ((multipleFields c true false ix).setLow16 list)
  | .b c imm => some ({ fieldsOf c.bits with b27 := true, b25 := true }.setLow24 imm)
  | .bl c imm => some ({ fieldsOf c.bits with b27 := true, b25 := true, b24 := true }.setLow24 imm)
  | .undCpExt c l body => some ({ cpFields c.bits false with b20 := l }.setLow20 body)
  | .mcrr c rn rd cp opc crm => some { cpFields c.bits false with b22 := true, rn := rn, rd := rd, rs := cp, b7 := opc.getLsbD 3, b6 := opc.getLsbD 2, b5 := opc.getLsbD 1, b4 := opc.getLsbD 0, rm := crm }
  | .mrrc c rn rd cp opc crm => some { cpFields c.bits false with b22 := true, b20 := true, rn := rn, rd := rd, rs := cp, b7 := opc.getLsbD 3, b6 := opc.getLsbD 2, b5 := opc.getLsbD 1, b4 := opc.getLsbD 0, rm := crm }
  | .ldc c f => some ({ cpFields c.bits false with b20 := true }.setCpMem f)
  | .stc c f => some ((cpFields c.bits false).setCpMem f)
  | .cdp c f => some ((cpFields c.bits true).setCpOp f)
  | .mcr c f => some ((cpFields c.bits true).setCpReg false f)
  | .mrc c f => some ((cpFields c.bits true).setCpReg true f)
  | .swi c imm => some ({ cpFields c.bits true with b24 := true }.setLow24 imm)
  | _ => none

/-- A halfword whose bits [15:8] are given and whose others are clear. -/
def top8 (a b c d e f g h : Bool) : Bits16 :=
  ⟨a, b, c, d, e, f, g, h, false, false, false, false, false, false, false, false⟩

/-- A format T4 halfword: the four operation bits. -/
def t4Bits (a b c d : Bool) (rm rd : LoReg) : Bits16 :=
  (({ top8 false true false false false false a b with b7 := c, b6 := d } : Bits16).setR3 rm).setR0 rd

/-- A format T7 or T8 halfword: the three operation bits. -/
def t7Bits (a b c : Bool) (rm rn rd : LoReg) : Bits16 :=
  (((top8 false true false true a b c false).setR6 rm).setR3 rn).setR0 rd

/-- A halfword with a 5-bit immediate and two registers: bits [15:11]. -/
def imm5Bits (a b c d e : Bool) (imm : BitVec 5) (r3 r0 : LoReg) : Bits16 :=
  (((top8 a b c d e false false false).setImm5 imm).setR3 r3).setR0 r0

/-- A halfword with a register in [10:8] and an 8-bit immediate: bits [15:11]. -/
def imm8Bits (a b c d e : Bool) (r : LoReg) (imm : BitVec 8) : Bits16 :=
  ((top8 a b c d e false false false).setR8 r).setImm8 imm

/-- The bits of a Thumb instruction's halfword; `none` for an ARM instruction. -/
def encodeBits16 : Instr → Option Bits16
  | .tAddReg rm rn rd => some ((((top8 false false false true true false false false).setR6 rm).setR3 rn).setR0 rd)
  | .tSubReg rm rn rd => some ((((top8 false false false true true false true false).setR6 rm).setR3 rn).setR0 rd)
  | .tAddImm3 i rn rd => some ((((top8 false false false true true true false false).setR6 i).setR3 rn).setR0 rd)
  | .tSubImm3 i rn rd => some ((((top8 false false false true true true true false).setR6 i).setR3 rn).setR0 rd)
  | .tLslImm i rm rd => some (imm5Bits false false false false false i rm rd)
  | .tLsrImm i rm rd => some (imm5Bits false false false false true i rm rd)
  | .tAsrImm i rm rd => some (imm5Bits false false false true false i rm rd)
  | .tMovImm rd i => some (imm8Bits false false true false false rd i)
  | .tCmpImm rn i => some (imm8Bits false false true false true rn i)
  | .tAddImm8 rd i => some (imm8Bits false false true true false rd i)
  | .tSubImm8 rd i => some (imm8Bits false false true true true rd i)
  | .tAnd rm rd => some (t4Bits false false false false rm rd)
  | .tEor rm rd => some (t4Bits false false false true rm rd)
  | .tLslReg rm rd => some (t4Bits false false true false rm rd)
  | .tLsrReg rm rd => some (t4Bits false false true true rm rd)
  | .tAsrReg rm rd => some (t4Bits false true false false rm rd)
  | .tAdc rm rd => some (t4Bits false true false true rm rd)
  | .tSbc rm rd => some (t4Bits false true true false rm rd)
  | .tRor rm rd => some (t4Bits false true true true rm rd)
  | .tTst rm rd => some (t4Bits true false false false rm rd)
  | .tNeg rm rd => some (t4Bits true false false true rm rd)
  | .tCmpReg rm rd => some (t4Bits true false true false rm rd)
  | .tCmn rm rd => some (t4Bits true false true true rm rd)
  | .tOrr rm rd => some (t4Bits true true false false rm rd)
  | .tMul rm rd => some (t4Bits true true false true rm rd)
  | .tBic rm rd => some (t4Bits true true true false rm rd)
  | .tMvn rm rd => some (t4Bits true true true true rm rd)
  | .tAddHi rm rd => some (((top8 false true false false false true false false).setHi3 rm).setHi0 rd)
  | .tCmpHi rm rd => some (((top8 false true false false false true false true).setHi3 rm).setHi0 rd)
  | .tMovHi rm rd => some (((top8 false true false false false true true false).setHi3 rm).setHi0 rd)
  | .tBx rm z => some (((top8 false true false false false true true true).setHi3 rm).setR0 z)
  | .tBlxReg rm z => some ((({ top8 false true false false false true true true with b7 := true } : Bits16).setHi3 rm).setR0 z)
  | .tLdrPc rd i => some (imm8Bits false true false false true rd i)
  | .tStrReg rm rn rd => some (t7Bits false false false rm rn rd)
  | .tStrhReg rm rn rd => some (t7Bits false false true rm rn rd)
  | .tStrbReg rm rn rd => some (t7Bits false true false rm rn rd)
  | .tLdrsbReg rm rn rd => some (t7Bits false true true rm rn rd)
  | .tLdrReg rm rn rd => some (t7Bits true false false rm rn rd)
  | .tLdrhReg rm rn rd => some (t7Bits true false true rm rn rd)
  | .tLdrbReg rm rn rd => some (t7Bits true true false rm rn rd)
  | .tLdrshReg rm rn rd => some (t7Bits true true true rm rn rd)
  | .tStrImm i rn rd => some (imm5Bits false true true false false i rn rd)
  | .tLdrImm i rn rd => some (imm5Bits false true true false true i rn rd)
  | .tStrbImm i rn rd => some (imm5Bits false true true true false i rn rd)
  | .tLdrbImm i rn rd => some (imm5Bits false true true true true i rn rd)
  | .tStrhImm i rn rd => some (imm5Bits true false false false false i rn rd)
  | .tLdrhImm i rn rd => some (imm5Bits true false false false true i rn rd)
  | .tStrSp rd i => some (imm8Bits true false false true false rd i)
  | .tLdrSp rd i => some (imm8Bits true false false true true rd i)
  | .tAddPc rd i => some (imm8Bits true false true false false rd i)
  | .tAddSpRd rd i => some (imm8Bits true false true false true rd i)
  | .tAddSp i => some ((top8 true false true true false false false false).setImm7 i)
  | .tSubSp i => some (({ top8 true false true true false false false false with b7 := true } : Bits16).setImm7 i)
  | .tPush r l => some ((top8 true false true true false true false r).setImm8 l)
  | .tPop r l => some ((top8 true false true true true true false r).setImm8 l)
  | .tBkpt i => some ((top8 true false true true true true true false).setImm8 i)
  | .tUnd1011 body => some ((top8 true false true true (body.getLsbD 11) (body.getLsbD 10) (body.getLsbD 9) (body.getLsbD 8)).setImm8 (body.extractLsb' 0 8))
  | .tStmia rn l => some (imm8Bits true true false false false rn l)
  | .tLdmia rn l => some (imm8Bits true true false false true rn l)
  | .tSwi i => some ((top8 true true false true true true true true).setImm8 i)
  | .tUndCond i => some ((top8 true true false true true true true false).setImm8 i)
  | .tBcond c i => some ((top8 true true false true (c.bits.getLsbD 3) (c.bits.getLsbD 2) (c.bits.getLsbD 1) (c.bits.getLsbD 0)).setImm8 i)
  | .tB i => some ((top8 true true true false false false false false).setImm11 i)
  | .tUndBlx i => some (({ top8 true true true false true false false false with b0 := true } : Bits16).setImm10 i)
  | .tBlxSuffix i => some ((top8 true true true false true false false false).setImm10 i)
  | .tBlPrefix i => some ((top8 true true true true false false false false).setImm11 i)
  | .tBlSuffix i => some ((top8 true true true true true false false false).setImm11 i)
  | _ => none

/-- The word of an instruction. -/
def encode (i : Instr) : Code :=
  match encodeFields i with
  | some f => .arm (pack f)
  | none =>
    match encodeBits16 i with
    | some t => .thumb (pack16 t)
    | none => .arm 0#32

end Sys2Proof
end

