-- ==== Sys2Proof/Machine/State.lean ====
section
/-!
DEFINITION. The state of the ARM1020E (spec/10 R30, spec/11, spec/12, spec/20 to 23, spec/61, spec/62), the reasons a
step can stop, and the state after reset (spec/70 R985). INVENTORY.md lists every field with its rule and reset value.
-/
namespace Sys2Proof.Machine

/-- An external agent made a move that the spec gives it no right to make. All are raised by the event handlers of
Machine/Run.lean only, never by an instruction; safe, since the machine stops. -/
inductive Fault where
  /-- PMTXACK with no PMTXREQ outstanding (spec/62 R955). Raised by `handlePmTxAck`; safe. -/
  | ackWithoutCommand
  /-- PMRXACK with no PMRXREQ outstanding: one receive event per reset (D44). Raised by `handlePmRxAck`; safe. -/
  | dataWithoutRequest
  /-- Power removed with no acknowledged DORMANT or SHUTDOWN command (D43). Raised by `handlePowerOff`; safe. -/
  | powerOffWithoutCommand
  deriving DecidableEq, Repr

/-- Why the model gives no next state: each names a case the spec calls UNPREDICTABLE with treatment `refuse`
(spec/93); safe, since nothing can be proved of what follows. -/
inductive Refusal where
  /-- An arm without a meaning. -/
  | notModelled (mnemonic : String)
  /-- A should-be-zero or should-be-one field of an instruction word is violated (spec/30 R440); safe. -/
  | shouldBeField
  /-- A register restriction of the instruction's rule is violated (spec/30 R440); safe. -/
  | operandRestriction
  /-- Execution or a branch runs off an end of the address space (U1, spec/10 R35); safe. -/
  | pcWrap
  /-- A misaligned value is written to the pc (U2, spec/10 R38); safe. -/
  | pcMisaligned
  /-- An illegal mode number is written to the CPSR (U3, spec/10 R44); safe. -/
  | illegalMode
  /-- The SPSR is written, or an exception return made, in User or System mode (U4, spec/10 R45); safe. -/
  | noSpsr
  /-- A `^` transfer of User registers in User or System mode (spec/44 R652, R655); safe. -/
  | userBankTransfer
  /-- STRH at an odd address with A = 0 (U5, spec/20 R206); safe. -/
  | misalignedHalfwordStore
  /-- A misaligned Thumb store with A = 0 (U6, spec/48); safe. -/
  | misalignedThumbStore
  /-- LDRD or STRD at an address that is not doubleword aligned (spec/20 R206); safe. -/
  | misalignedDoubleword
  /-- A load to the pc from a misaligned address with A = 0 (spec/43 R605); safe. -/
  | misalignedPcLoad
  /-- BKPT with a condition other than AL (spec/45 R676); safe. -/
  | conditionalBkpt
  /-- MSR sets the T bit of the CPSR (spec/45 R673 (b)); safe. -/
  | msrSetsT
  /-- A CP15 access the spec does not list (D3, spec/11 R82); safe. -/
  | cp15Unlisted
  /-- A CP15 write violates a should-be-zero or should-be-one field of the register (spec/11); safe. -/
  | cp15ShouldBe
  /-- PMTDR written with W = 0 (spec/11 R145); safe. -/
  | pmtdrBusy
  /-- A breakpoint or watchpoint control register written with a nonzero SBZ bit or a reserved field (spec/12 R181, R184); safe. -/
  | cp14ShouldBe
  /-- Two TLB entries match one address (spec/21 R252); safe. -/
  | tlbAmbiguous
  /-- A valid soft TLB entry is written with a mask the spec does not list, or with the size code of a section, which has no
  mask (spec/91 N13: "takes the mask codes of Table 5-12 only", "is `refuse`"; spec/11 R150, R152); safe. -/
  | tlbFormat
  /-- An instruction from the ITR causes an exception in debug state (spec/61 R911, spec/60 R873); safe. -/
  | debugException
  /-- HRESETN asserted without SFRESETN (D45, spec/70 R981). Raised by the event handler; safe. -/
  | hresetAlone
  deriving DecidableEq, Repr

/-- What `exec` and `step` answer. -/
abbrev Outcome (σ : Type) := Host.Outcome σ Fault Refusal

/-- The register banks of spec/10 R32; `usr` is shared by User and System mode. -/
inductive Bank where
  | usr | fiq | irq | svc | abt | und
  deriving DecidableEq, Repr

/-- The page sizes a TLB entry can have (spec/21 R252), and a PA RAM size code of a soft-loaded entry for which spec/11 R152
states none (log 51). -/
inductive PageSize where
  | mb1 | kb64 | kb16 | kb4 | kb1
  | unlisted (code : BitVec 4)
  deriving DecidableEq, Repr

/-- A TLB entry as the soft-TLB formats expose it (spec/21 R252, spec/11 R150-R152). `cmp` is the size of the CAM
word (which tag bits are compared), `size` that of the PA RAM word (which PA bits are used). -/
structure TlbEntry where
  lock : Bool
  preserved : Bool
  tag : BitVec 22
  cmp : PageSize
  pa : BitVec 22
  size : PageSize
  domain : BitVec 4
  dfi : Bool
  apSelect : BitVec 4
  c : Bool
  b : Bool
  ncb : Bool
  ncnb : Bool
  deriving DecidableEq, Repr

/-- One TLB: its 64 entries (`none` is invalid), its lockdown register and its soft-TLB holding registers. -/
structure Tlb where
  entries : Vector (Option TlbEntry) 64
  base : BitVec 6
  victim : BitVec 6
  preserve : Bool
  camHold : Word
  protHold : Word
  paHold : Word
  deriving DecidableEq, Repr

/-- A valid cache line (spec/22 R321). -/
structure CacheLine where
  tag : BitVec 23
  data : Vector Word 8
  dirty : Bool
  wb : Bool
  paTag : BitVec 27
  deriving DecidableEq, Repr

/-- One cache: 16 segments of 64 lines (`none` is invalid), the lockdown base and the victim counters (spec/22 R321, R330). -/
structure Cache where
  lines : Vector (Vector (Option CacheLine) 64) 16
  base : BitVec 6
  victim : Vector (BitVec 6) 16
  deriving DecidableEq, Repr

/-- The size of a bus transfer: 1, 2, 4 or 8 bytes (spec/23 R394). -/
inductive BusSize where
  | byte | half | word | dword
  deriving DecidableEq, Repr

/-- HBURST (spec/23 R395). -/
inductive Burst where
  | single | wrap4 | incr
  deriving DecidableEq, Repr

/-- An entry of the write buffer (spec/22 R350): a 32-bit address, up to 64 bits of data with their size, and six bits:
HPROT[3:0] of the store, its byte order, and whether it belongs to a sequential burst. Which six the spec does not name:
DESIGN CHOICE (log 11). -/
structure WriteEntry where
  pa : Word
  size : BusSize
  data : BitVec 64
  prot : BitVec 4
  big : Bool
  burst : Burst
  deriving DecidableEq, Repr

/-- A line waiting in the castout buffer (spec/22 R353): PA[31:5], its eight words, the doubleword that is written first
(spec/11 R111, R112), and how many entries of the write buffer are older than it. -/
structure Castout where
  paTag : BitVec 27
  data : Vector Word 8
  start : BitVec 2
  ahead : Nat
  deriving DecidableEq, Repr

/-- What a fetch brought: an instruction word (a Thumb halfword in the low bits), or the status of a Prefetch Abort. -/
inductive Fetched where
  | word (w : Word)
  | abort (status : BitVec 4)
  deriving DecidableEq, Repr

/-- What the prefetch unit predicts of an instruction (spec/22 R374): nothing, a branch that is not taken, or a branch that
is taken to an address and a state. -/
inductive Prediction where
  | unpredicted
  | notTaken
  | taken (target : Word) (thumb : Bool)
  deriving DecidableEq, Repr

/-- An instruction in the prefetch buffer (spec/22 R373): the address and state it was fetched for, whether a
breakpoint matched the fetch, what was fetched, and what is predicted of it. -/
structure Prefetched where
  addr : Word
  thumb : Bool
  breakpoint : Bool
  what : Fetched
  prediction : Prediction
  deriving DecidableEq, Repr

/-- The bus masters (spec/23 R390). -/
inductive BusMaster where
  | ibiu | dbiu
  deriving DecidableEq, Repr

/-- One bus transaction (spec/23 R400). -/
structure BusRecord where
  master : BusMaster
  write : Bool
  pa : Word
  size : BusSize
  data : BitVec 64
  hprot : BitVec 4
  locked : Bool
  burst : Burst
  deriving DecidableEq, Repr

/-- A write of another bus master that lands right after a bus transaction of this processor, which `after` others precede: between
two transactions of one instruction, if it makes as many (spec/20 R208, spec/92 Part 3). -/
structure Intrusion where
  after : Nat
  pa : Word
  value : Byte
  deriving DecidableEq, Repr

/-- What lies behind a range of physical addresses (parameter MEMORY_MAP, spec/20 R200); addresses in no region are RAM. -/
inductive RegionKind where
  /-- Reads and writes take effect. -/
  | ram
  /-- Writes have no effect. -/
  | rom
  /-- Reads give a free value, writes have no effect on memory. -/
  | device
  /-- The bus answers ERROR. -/
  | error
  deriving DecidableEq, Repr

/-- A region of the memory map. -/
structure Region where
  base : Nat
  size : Nat
  kind : RegionKind
  deriving DecidableEq, Repr

/-- CP15's registers (spec/11); c9, c10 and the holding registers are in the caches and TLBs. -/
structure Cp15 where
  ctl : Word
  ctlHigh : BitVec 10
  ttbr : Word
  dacr : Word
  dfsr : BitVec 8
  ifsr : BitVec 8
  dfar : Word
  ifar : Word
  pid : BitVec 7
  contextId : Word
  cr2 : BitVec 5
  pll : Word
  deriving DecidableEq, Repr

/-- The run state of spec/62 R953; debug state is DSCR[0]. -/
inductive RunState where
  | running | standby | poweredDown
  deriving DecidableEq, Repr

/-- The power manager mailbox (spec/11 R143-R145, spec/62 R953, R955): PMSR.W and PMSR.R, PMRDR, what was last sent,
whether PMTXREQ and PMRXREQ await their acknowledgement, whether an acknowledged command lets the host remove the power, the
command last acknowledged, and a low-power state whose entry waits for the write buffer to drain (spec/20 R222). -/
structure PowerMgr where
  w : Bool
  r : Bool
  rxEmul : Bool
  rxState : BitVec 4
  txEmul : Bool
  txState : BitVec 4
  txReq : Bool
  rxReq : Bool
  powerOff : Bool
  ackEmul : Bool
  ackState : BitVec 4
  pending : Option RunState
  deriving DecidableEq, Repr

/-- A watchpoint hit whose event is due at the end of the instruction (spec/61 R907): the data address, the
instruction's address, whether the instruction was Thumb, and the domain of the data address with the MMU on. -/
structure WatchHit where
  addr : Word
  pc : Word
  thumb : Bool
  domain : Option (BitVec 4)
  deriving DecidableEq, Repr

/-- CP14 and the debug unit (spec/12): `watch` is a watchpoint hit whose event is due, `catchAt` the caught vectors whose
first instruction has not been reached, `haltReq` a JTAG HALT not yet acted on, `itrWait` an instruction of the ITR that
cannot complete yet. -/
structure Debug where
  dscr : Word
  itr : Word
  itrDone : Bool
  rdtr : Word
  wdtr : Word
  ba : Vector Word 6
  bc : Vector (BitVec 5) 6
  wa : Vector Word 2
  wc : Vector (BitVec 11) 2
  watch : Option WatchHit
  catchAt : List Word
  haltReq : Bool
  itrWait : Bool
  deriving DecidableEq, Repr

/-- The sixteen states of the TAP controller (spec/61 R931). -/
inductive TapState where
  | reset | idle | selectDr | captureDr | shiftDr | exit1Dr | pauseDr | exit2Dr | updateDr
  | selectIr | captureIr | shiftIr | exit1Ir | pauseIr | exit2Ir | updateIr
  deriving DecidableEq, Repr

/-- The TAP controller (spec/12 R188-R192): its state, instruction register and shift stage, the selected scan chain,
the data register shift stage, TDO, and bit 0 of the DTR chain as EXTEST last captured it (spec/12 R176). -/
structure Tap where
  state : TapState
  ir : BitVec 4
  irShift : BitVec 4
  chain : BitVec 5
  drShift : BitVec 66
  tdo : Bool
  rxReady : Bool
  deriving DecidableEq, Repr

/-- Levels of the input pins; `true` is HIGH (spec/60 R852, spec/23 R392, R401, spec/70 R981, spec/92 Part 2). -/
structure Pins where
  nfiq : Bool
  nirq : Bool
  isync : Bool
  edbgrq : Bool
  hivecsinit : Bool
  bigendinit : Bool
  pmexists : Bool
  dbgen : Bool
  tapid : Word
  pconfigout : BitVec 2
  cpPresent : BitVec 14
  hgrantd : Bool
  hgranti : Bool
  cpbusye : Bool
  hresetn : Bool
  sfresetn : Bool
  ntrst : Bool
  deriving DecidableEq, Repr

/-- The moves of the outside world (spec/92 Part 3; notes/assumptions/4.md). -/
inductive Event where
  | nfiq (high : Bool)
  | nirq (high : Bool)
  | isync (high : Bool)
  | edbgrq (high : Bool)
  | hgrantd (high : Bool)
  | hgranti (high : Bool)
  | cpbusye (high : Bool)
  | pconfigout (v : BitVec 2)
  /-- HRESETN and SFRESETN go LOW together and HIGH again. -/
  | powerOnReset
  /-- SFRESETN alone goes LOW and HIGH again. -/
  | softReset
  /-- HRESETN alone goes LOW. -/
  | hresetAlone
  /-- NTRST goes LOW and HIGH again. -/
  | ntrst
  /-- HRESETN and SFRESETN move to these levels and stay there. -/
  | resetPins (hresetn sfresetn : Bool)
  /-- NTRST moves to this level and stays there. -/
  | ntrstPin (high : Bool)
  /-- One rising edge of TCK. -/
  | tck (tms tdi : Bool)
  /-- PMTXACK. -/
  | pmTxAck
  /-- PMRXACK with PMRX and PMRXEMUL. -/
  | pmRxAck (state : BitVec 4) (emul : Bool)
  /-- The host removes the power after DORMANT or SHUTDOWN. -/
  | powerOff
  /-- Another bus master writes a byte of memory. -/
  | otherMaster (pa : Word) (v : Byte)
  /-- Another bus master writes a byte of memory right after a later bus transaction of this processor. -/
  | otherMasterLater (i : Intrusion)
  /-- The arbiter grants the data side one transfer: the oldest entry of the write buffer, or the castout, drains. -/
  | drain
  /-- One more instruction is prefetched. -/
  | prefetch
  /-- Nothing moves outside during one step of the processor. -/
  | quiet
  deriving DecidableEq, Repr

/-- The machine. -/
structure State where
  regs : Vector Word 30
  pc : Word
  cpsr : Word
  spsr : Vector Word 5
  cp15 : Cp15
  itlb : Tlb
  dtlb : Tlb
  icache : Cache
  dcache : Cache
  wbuf : List WriteEntry
  castout : Option Castout
  hum : Option (BitVec 27)
  prefetch : List Prefetched
  mem : List Host.Cell
  memMap : List Region
  pm : PowerMgr
  dbg : Debug
  tap : Tap
  pins : Pins
  run : RunState
  bus : List BusRecord
  cpHistory : List Word
  freeCount : Nat
  intruders : List Intrusion
  inputs : List Event
  deriving DecidableEq, Repr

/-- A TLB after reset (D25, spec/11 R126, R150). -/
def Tlb.reset : Tlb where
  entries := Vector.replicate 64 none
  base := 0#6
  victim := 0#6
  preserve := false
  camHold := 0#32
  protHold := 0#32
  paHold := 0#32

/-- A cache after a power-on reset (spec/22 R322). -/
def Cache.reset : Cache where
  lines := Vector.replicate 16 (Vector.replicate 64 none)
  base := 0#6
  victim := Vector.replicate 16 0#6

/-- CP15 after reset with the pins HIVECSINIT and BIGENDINIT (spec/11 R88, spec/70 R985). -/
def Cp15.reset (hivecs bigend : Bool) (pll : Word) : Cp15 where
  ctl := 0x78#32 ||| (if hivecs then 0x2000#32 else 0#32) ||| (if bigend then 0x80#32 else 0#32)
  ctlHigh := 0#10
  ttbr := 0#32
  dacr := 0#32
  dfsr := 0#8
  ifsr := 0#8
  dfar := 0#32
  ifar := 0#32
  pid := 0#7
  contextId := 0#32
  cr2 := 0#5
  pll := pll

/-- The PLL register's reset value (spec/11 R141). -/
def pllReset : Word := 0x0001C00F#32

/-- The mailbox after reset: W = 1, R = 0; the previous state is requested when there is a power manager (spec/62 R955). -/
def PowerMgr.reset (pmexists : Bool) : PowerMgr where
  w := true
  r := false
  rxEmul := false
  rxState := 0#4
  txEmul := false
  txState := 0#4
  txReq := false
  rxReq := pmexists
  powerOff := false
  ackEmul := false
  ackState := 0#4
  pending := none

/-- The debug unit after power-up: WE = 1 and everything else clear (spec/12 R165, R168, R176). That the ITR's completion
bit starts at 1 is a DESIGN CHOICE (log 24). -/
def Debug.reset : Debug where
  dscr := 0x40#32
  itr := 0#32
  itrDone := true
  rdtr := 0#32
  wdtr := 0#32
  ba := Vector.replicate 6 0#32
  bc := Vector.replicate 6 0#5
  wa := Vector.replicate 2 0#32
  wc := Vector.replicate 2 0#11
  watch := none
  catchAt := []
  haltReq := false
  itrWait := false

/-- The TAP controller after NTRST: IDCODE, chain 3 (spec/61 R932). -/
def Tap.reset : Tap where
  state := .reset
  ir := 14#4
  irShift := 0#4
  chain := 3#5
  drShift := 0#66
  tdo := false
  rxReady := false

/-- The pins at power-up (notes/assumptions/3.md). -/
def Pins.reset : Pins where
  nfiq := true
  nirq := true
  isync := false
  edbgrq := false
  hivecsinit := false
  bigendinit := false
  pmexists := false
  dbgen := false
  tapid := 0x14A20F0F#32
  pconfigout := 0#2
  cpPresent := 0#14
  hgrantd := true
  hgranti := true
  cpbusye := false
  hresetn := true
  sfresetn := true
  ntrst := true

/-- The machine right after a power-on reset (spec/70 R980, R985; notes/assumptions 1 to 5). -/
def State.reset : State where
  regs := Vector.replicate 30 0#32
  pc := 0#32
  cpsr := 0xD3#32
  spsr := Vector.replicate 5 0#32
  cp15 := Cp15.reset false false pllReset
  itlb := Tlb.reset
  dtlb := Tlb.reset
  icache := Cache.reset
  dcache := Cache.reset
  wbuf := []
  castout := none
  hum := none
  prefetch := []
  mem := []
  memMap := []
  pm := PowerMgr.reset false
  dbg := Debug.reset
  tap := Tap.reset
  pins := Pins.reset
  run := .running
  bus := []
  cpHistory := []
  freeCount := 0
  intruders := []
  inputs := []

end Sys2Proof.Machine
end

