-- ==== Sys2Proof/Machine/Bus.lean ====
section
/-!
DEFINITION. Physical memory as bytes, byte order, the AHB transactions, the write buffer and the castout buffer
(spec/20 R200-R208, R222, R225; spec/22 R350-R353; spec/23 R390-R400).
-/
namespace Sys2Proof.Machine

namespace Memory

/-- What a byte of memory that nothing has written reads as. DESIGN CHOICE, unsafe (log 2). -/
def background : Byte := 0#8

/-- The byte at an address. -/
def read : List Host.Cell → Nat → Byte
  | [], _ => background
  | (a, v) :: rest, x => if a = x then v else read rest x

/-- Put a byte, keeping the canonical form. -/
def write : List Host.Cell → Nat → Byte → List Host.Cell
  | [], x, v => if v = background then [] else [(x, v)]
  | (a, w) :: rest, x, v =>
    if x < a then (if v = background then (a, w) :: rest else (x, v) :: (a, w) :: rest)
    else if x = a then (if v = background then rest else (x, v) :: rest)
    else (a, w) :: write rest x v

/-- The canonical form: addresses strictly rising and below 2^32, and no entry equal to the background. -/
def wf : List Host.Cell → Bool
  | [] => true
  | (a, v) :: rest => decide (a < 4294967296) && v != background && rest.all (fun c => decide (a < c.1)) && wf rest

end Memory

/-- The low bits of an address that a transfer of this size ignores (spec/20 R206). -/
def alignDown (size : BusSize) (a : Word) : Word :=
  match size with
  | .byte => a
  | .half => a &&& 0xFFFFFFFE#32
  | .word => a &&& 0xFFFFFFFC#32
  | .dword => a &&& 0xFFFFFFF8#32

/-- The little-endian byte address of a transfer (spec/20 R204): with B = 1 a byte is at XOR 3, a halfword at XOR 2. -/
def laneAddr (big : Bool) (size : BusSize) (a : Word) : Word :=
  match size, big with
  | .byte, true => a ^^^ 3#32
  | .half, true => alignDown .half a ^^^ 2#32
  | _, _ => alignDown size a

/-- The value of a transfer of one, two or four bytes at a physical address, zero extended (spec/20 R204). -/
def physRead (m : List Host.Cell) (big : Bool) (size : BusSize) (pa : Word) : Word :=
  let a := (laneAddr big size pa).toNat
  match size with
  | .byte => (Memory.read m a).zeroExtend 32
  | .half => (Memory.read m (a + 1) ++ Memory.read m a).zeroExtend 32
  | _ => Memory.read m (a + 3) ++ Memory.read m (a + 2) ++ Memory.read m (a + 1) ++ Memory.read m a

/-- Store the low one, two or four bytes of `v` at a physical address (spec/20 R204). -/
def physWrite (m : List Host.Cell) (big : Bool) (size : BusSize) (pa : Word) (v : Word) : List Host.Cell :=
  let a := (laneAddr big size pa).toNat
  match size with
  | .byte => Memory.write m a (v.extractLsb' 0 8)
  | .half => Memory.write (Memory.write m a (v.extractLsb' 0 8)) (a + 1) (v.extractLsb' 8 8)
  | _ => Memory.write (Memory.write (Memory.write (Memory.write m a (v.extractLsb' 0 8)) (a + 1) (v.extractLsb' 8 8))
      (a + 2) (v.extractLsb' 16 8)) (a + 3) (v.extractLsb' 24 8)

/-- The data of a transfer of one, two, four or eight bytes, zero extended; the lower word of a doubleword is that at the
lower address in both byte orders (spec/20 R204, R205). -/
def physReadWide (m : List Host.Cell) (big : Bool) (size : BusSize) (pa : Word) : BitVec 64 :=
  match size with
  | .dword => physRead m big .word (alignDown .dword pa + 4#32) ++ physRead m big .word (alignDown .dword pa)
  | _ => (physRead m big size pa).zeroExtend 64

/-- Store a transfer of one, two, four or eight bytes (spec/20 R204, R205). -/
def physWriteWide (m : List Host.Cell) (big : Bool) (size : BusSize) (pa : Word) (v : BitVec 64) : List Host.Cell :=
  match size with
  | .dword =>
    physWrite (physWrite m big .word (alignDown .dword pa) (v.extractLsb' 0 32)) big .word (alignDown .dword pa + 4#32)
      (v.extractLsb' 32 32)
  | _ => physWrite m big size pa (v.extractLsb' 0 32)

/-- The bits of a word that a transfer carries, zero extended (spec/20 R203). -/
def carried (size : BusSize) (v : Word) : Word :=
  match size with
  | .byte => (v.extractLsb' 0 8).zeroExtend 32
  | .half => (v.extractLsb' 0 16).zeroExtend 32
  | _ => v

/-- The bytes a transfer of this size at `pa` writes (spec/20 R204). -/
def storedBytes (big : Bool) (size : BusSize) (pa : Word) : List Nat :=
  let a := (laneAddr big size pa).toNat
  match size with
  | .byte => [a]
  | .half => [a, a + 1]
  | _ => [a, a + 1, a + 2, a + 3]

/-- A transfer's bits of a memory word, zero extended (spec/20 R204). -/
def pick (big : Bool) (size : BusSize) (w a : Word) : Word :=
  match size with
  | .byte => (w >>> (8 * ((laneAddr big .byte a) &&& 3#32).toNat)) &&& 0xFF#32
  | .half => (w >>> (8 * ((laneAddr big .half a) &&& 2#32).toNat)) &&& 0xFFFF#32
  | _ => w

/-- A memory word after a transfer's bits are replaced (spec/20 R204). -/
def merge (big : Bool) (size : BusSize) (w a v : Word) : Word :=
  match size with
  | .byte =>
    let n := 8 * ((laneAddr big .byte a) &&& 3#32).toNat
    (w &&& ~~~(0xFF#32 <<< n)) ||| ((v &&& 0xFF#32) <<< n)
  | .half =>
    let n := 8 * ((laneAddr big .half a) &&& 2#32).toNat
    (w &&& ~~~(0xFFFF#32 <<< n)) ||| ((v &&& 0xFFFF#32) <<< n)
  | _ => v

namespace State

/-- A bit of control register 1 (spec/11 R87). -/
def ctlBit (s : State) (n : Nat) : Bool := s.cp15.ctl.getLsbD n

/-- c1.M, MMU enable. -/
def mmuOn (s : State) : Bool := s.ctlBit 0

/-- c1.A, alignment fault enable. -/
def alignOn (s : State) : Bool := s.ctlBit 1

/-- c1.C, DCache enable. -/
def dcacheOn (s : State) : Bool := s.ctlBit 2

/-- c1.W, write buffer enable. -/
def wbufOn (s : State) : Bool := s.ctlBit 3

/-- c1.Z, branch prediction enable (spec/11 R94, spec/22 R374). -/
def predictOn (s : State) : Bool := s.ctlBit 11

/-- c1.B, big-endian. -/
def big (s : State) : Bool := s.ctlBit 7

/-- c1.S, system protection. -/
def sysProt (s : State) : Bool := s.ctlBit 8

/-- c1.R, ROM protection. -/
def romProt (s : State) : Bool := s.ctlBit 9

/-- c1.I, ICache enable. -/
def icacheOn (s : State) : Bool := s.ctlBit 12

/-- c1.V, high vectors. -/
def highVectors (s : State) : Bool := s.ctlBit 13

/-- c1.RR, round-robin replacement. -/
def roundRobin (s : State) : Bool := s.ctlBit 14

/-- c1.L4: loads to the pc leave T alone. -/
def l4 (s : State) : Bool := s.ctlBit 15

/-- c1.FI, fast interrupt. -/
def fastInt (s : State) : Bool := s.ctlBit 21

/-- The next free value (notes/assumptions/5.md). -/
def freeVal (s : State) : Word := Config.free s.freeCount

/-- The next free value is used up. -/
def useFree (s : State) : State := { s with freeCount := s.freeCount + 1 }

end State

/-- What lies at a physical address (parameter MEMORY_MAP). A transfer takes the kind of its first byte, also where it spans two
regions: DESIGN CHOICE (spec/00 R10 gives the map no granularity; log 12). -/
def kindAt (map : List Region) (pa : Nat) : RegionKind :=
  match map.find? (fun r => decide (r.base ≤ pa) && decide (pa < r.base + r.size)) with
  | some r => r.kind
  | none => .ram

/-- Another bus master writes a byte of RAM (spec/20 R235). -/
def otherMasterWrite (pa : Word) (v : Byte) (s : State) : State :=
  match kindAt s.memMap pa.toNat with
  | .ram => { s with mem := Memory.write s.mem pa.toNat v }
  | _ => s

/-- Other bus masters get the bus: the writes that are due land, in their order, and the others wait for one transaction less. -/
def intrude : List Intrusion → State → State
  | [], s => s
  | i :: rest, s =>
    if i.after = 0 then intrude rest (otherMasterWrite i.pa i.value s)
    else intrude rest { s with intruders := s.intruders ++ [{ i with after := i.after - 1 }] }

/-- One more bus transaction is made and recorded (spec/23 R400), and other masters may have the bus after it, unless it is the
read of a locked swap (spec/20 R208, R224). -/
def State.record (s : State) (r : BusRecord) : State :=
  if r.locked && !r.write then { s with bus := r :: s.bus }
  else intrude s.intruders { s with bus := r :: s.bus, intruders := [] }

/-- HPROT (spec/23 R396). -/
def hprot (data priv b c : Bool) : BitVec 4 :=
  BitVec.ofBool c ++ BitVec.ofBool b ++ BitVec.ofBool priv ++ BitVec.ofBool data

/-- What a device answers to a read of this size (log 12). -/
def deviceData (size : BusSize) (pa : Word) (n : Nat) : BitVec 64 :=
  match size with
  | .dword => Config.deviceRead (alignDown .dword pa + 4#32) n ++ Config.deviceRead (alignDown .dword pa) n
  | _ => (carried size (Config.deviceRead pa n)).zeroExtend 64

/-- A read on the AHB: the data, or `none` for an ERROR response (spec/23 R397, R400). The record of a read answered with ERROR has
data 0, here and in a linefill or a fetch: DESIGN CHOICE (spec/23 R400 gives it none; log 11). -/
def busRead (m : BusMaster) (size : BusSize) (pa : Word) (prot : BitVec 4) (locked : Bool) (s : State) :
    Option (BitVec 64) × State :=
  let r : BusRecord := { master := m, write := false, pa := pa, size := size, data := 0#64, hprot := prot, locked := locked, burst := .single }
  match kindAt s.memMap pa.toNat with
  | .error => (none, s.record r)
  | .device => (some (deviceData size pa s.freeCount), (s.record { r with data := deviceData size pa s.freeCount }).useFree)
  | _ => (some (physReadWide s.mem s.big size pa), s.record { r with data := physReadWide s.mem s.big size pa })

/-- A write on the AHB in a byte order: false for an ERROR response. -/
def busWrite (big : Bool) (size : BusSize) (pa : Word) (v : BitVec 64) (prot : BitVec 4) (locked : Bool) (burst : Burst)
    (s : State) : Bool × State :=
  let r : BusRecord := { master := .dbiu, write := true, pa := pa, size := size, data := v, hprot := prot, locked := locked, burst := burst }
  match kindAt s.memMap pa.toNat with
  | .error => (false, s.record r)
  | .ram => (true, State.record { s with mem := physWriteWide s.mem big size pa v } r)
  | _ => (true, s.record r)

/-- The words of the doubleword at `pa`, low first; an ERROR response is ignored and its data is free (spec/20 R225), but 0 in the
bus record: DESIGN CHOICE (log 11). -/
def busReadPair (m : BusMaster) (pa : Word) (prot : BitVec 4) (s : State) : Word × Word × State :=
  let r : BusRecord := { master := m, write := false, pa := pa, size := .dword, data := 0#64, hprot := prot, locked := false, burst := .wrap4 }
  match kindAt s.memMap pa.toNat with
  | .error => (Config.free s.freeCount, Config.free (s.freeCount + 1), (s.record r).useFree.useFree)
  | .device =>
    let lo := Config.deviceRead pa s.freeCount
    let hi := Config.deviceRead (pa + 4#32) (s.freeCount + 1)
    (lo, hi, (s.record { r with data := hi ++ lo }).useFree.useFree)
  | _ =>
    let lo := physRead s.mem false .word pa
    let hi := physRead s.mem false .word (pa + 4#32)
    (lo, hi, s.record { r with data := hi ++ lo })

/-- One beat of a linefill: doubleword `k` of the line at `line` (spec/23 R395). -/
def fillBeat (m : BusMaster) (line : Word) (prot : BitVec 4) (acc : Vector Word 8 × State) (k : BitVec 2) :
    Vector Word 8 × State :=
  let r := busReadPair m (line + (k.zeroExtend 32 <<< 3)) prot acc.2
  ((acc.1.setIfInBounds (2 * k.toNat) r.1).setIfInBounds (2 * k.toNat + 1) r.2.1, r.2.2)

/-- The eight words of the line of `pa`, the doubleword of `pa` first (spec/22 R340, spec/23 R395). -/
def readLine (m : BusMaster) (pa : Word) (prot : BitVec 4) (s : State) : Vector Word 8 × State :=
  let line := pa &&& 0xFFFFFFE0#32
  let k : BitVec 2 := pa.extractLsb' 3 2
  [k, k + 1#2, k + 2#2, k + 3#2].foldl (fillBeat m line prot) (Vector.replicate 8 0#32, s)

/-- One entry of the write buffer goes to the AHB, in the byte order and with the HPROT of its store (log 11); an ERROR
response is ignored (spec/20 R225). -/
def drainEntry (s : State) (e : WriteEntry) : State :=
  (busWrite e.big e.size e.pa e.data e.prot false e.burst s).2

/-- One doubleword of a castout line goes to memory. -/
def castoutBeat (line : Word) (data : Vector Word 8) (s : State) (k : BitVec 2) : State :=
  let pa := line + (k.zeroExtend 32 <<< 3)
  let lo := data.toList.getD (2 * k.toNat) 0#32
  let hi := data.toList.getD (2 * k.toNat + 1) 0#32
  let r : BusRecord := { master := .dbiu, write := true, pa := pa, size := .dword, data := hi ++ lo,
                         hprot := hprot true (s.freeVal.getLsbD 0) true true, locked := false, burst := .wrap4 }
  match kindAt s.memMap pa.toNat with
  | .ram =>
    (State.record { s with mem := physWrite (physWrite s.mem false .word pa lo) false .word (pa + 4#32) hi } r).useFree
  | _ => (s.record r).useFree

/-- The castout buffer drains, its first doubleword first, wrapping within the line (spec/22 R353, spec/11 R112). -/
def drainCastout (s : State) : State :=
  match s.castout with
  | none => s
  | some c =>
    [c.start, c.start + 1#2, c.start + 2#2, c.start + 3#2].foldl (castoutBeat (c.paTag ++ 0#5) c.data)
      { s with castout := none }

/-- The castout buffer drains, and before it the entries of the write buffer that are older (spec/20 R221, spec/22 R353). -/
def drainThroughCastout (s : State) : State :=
  match s.castout with
  | none => s
  | some c => drainCastout ((s.wbuf.take c.ahead).foldl drainEntry { s with wbuf := s.wbuf.drop c.ahead })

/-- The write buffer and the castout buffer drain completely, oldest first (spec/22 R352). -/
def drainAll (s : State) : State :=
  let s1 := drainThroughCastout s
  s1.wbuf.foldl drainEntry { s1 with wbuf := [] }

/-- The oldest of the write buffer's entries and the castout drains. -/
def drainOne (s : State) : State :=
  match s.wbuf, s.castout with
  | [], _ => drainCastout s
  | e :: rest, none => drainEntry { s with wbuf := rest } e
  | e :: rest, some c =>
    if c.ahead = 0 then drainCastout s
    else drainEntry { s with wbuf := rest, castout := some { c with ahead := c.ahead - 1 } } e

/-- The oldest entry of the write buffer drains, and before it a castout that is older. -/
def drainEntryOut (s : State) : State :=
  match s.castout with
  | some c => if c.ahead = 0 then drainOne (drainCastout s) else drainOne s
  | none => drainOne s

/-- The depth of the write buffer: eight entries, four with FI (spec/22 R350, R361). -/
def wbufDepth (s : State) : Nat := if s.fastInt then 4 else 8

/-- The oldest entries drain until there is room for one more (spec/22 R350). Entries beyond four that wait when FI is set stay until
then, or until they drain on their own: DESIGN CHOICE (spec/22 R361 does not say what becomes of them; log 32). -/
def makeRoom (s : State) : State :=
  (List.range (s.wbuf.length + 1 - wbufDepth s)).foldl (fun t _ => drainEntryOut t) s

/-- A store enters the write buffer (spec/22 R350). -/
def bufferWrite (e : WriteEntry) (s : State) : State :=
  let s' := makeRoom s
  { s' with wbuf := s'.wbuf ++ [e] }

/-- A line enters the castout buffer behind what the write buffer holds; an earlier line drains first (spec/22 R353). -/
def castLine (l : CacheLine) (start : BitVec 2) (s : State) : State :=
  let s1 := drainThroughCastout s
  { s1 with castout := some ⟨l.paTag, l.data, start, s1.wbuf.length⟩ }

/-- Nothing waits in the write buffer or the castout buffer. -/
def buffersEmpty (s : State) : Bool := s.wbuf.isEmpty && s.castout.isNone

/-- The buffers drain by themselves while the bus is granted (spec/22 R352; notes/assumptions/9.md). -/
def drainIfGranted (s : State) : State := if s.pins.hgrantd then drainAll s else s

/-- Every bus transaction between two states was made by a master that the arbiter grants the bus (spec/23 R392). -/
def granted (s t : State) : Bool :=
  (s.pins.hgranti && s.pins.hgrantd) ||
    (t.bus.take (t.bus.length - s.bus.length)).all fun r =>
      match r.master with
      | .ibiu => s.pins.hgranti
      | .dbiu => s.pins.hgrantd

end Sys2Proof.Machine
end

