-- ==== Sys2Proof/Machine/Mmu.lean ====
section
/-!
DEFINITION. The MMUs: process-ID relocation, TLB lookup, table walk, domain and permission checks (spec/11 R132,
R150-R153; spec/21 R250-R299).
-/
namespace Sys2Proof.Machine

/-- Which MMU: instruction or data side (spec/21 R251). -/
inductive Side where
  | instr | data
  deriving DecidableEq, Repr

/-- The bus master of a side (spec/23 R390). -/
def Side.master : Side → BusMaster
  | .instr => .ibiu
  | .data => .dbiu

/-- The TLB of a side. -/
def State.tlb (s : State) : Side → Tlb
  | .instr => s.itlb
  | .data => s.dtlb

/-- Put the TLB of a side. -/
def State.setTlb (s : State) (side : Side) (t : Tlb) : State :=
  match side with
  | .instr => { s with itlb := t }
  | .data => { s with dtlb := t }

/-- MVA(va) (spec/11 R132). -/
def relocate (pid : BitVec 7) (va : Word) : Word :=
  if va.extractLsb' 25 7 = 0#7 then pid ++ va.extractLsb' 0 25 else va

/-- How many low address bits lie inside a page of this size (spec/21 R252). -/
def PageSize.bits : PageSize → Nat
  | .mb1 => 20 | .kb64 => 16 | .kb16 => 14 | .kb4 => 12 | .kb1 => 10 | .unlisted _ => 10

/-- An entry matches a modified virtual address (spec/21 R252). -/
def TlbEntry.hits (e : TlbEntry) (mva : Word) : Bool :=
  (mva >>> e.cmp.bits) == ((e.tag ++ 0#10 : Word) >>> e.cmp.bits)

/-- The physical address an entry gives (spec/11 R152, spec/21 R253). For a size code that is not listed its page is a free value:
DESIGN CHOICE (log 51). -/
def TlbEntry.physical (e : TlbEntry) (mva : Word) : Word :=
  match e.size with
  | .unlisted code => Config.unlistedPage code e.pa (mva.extractLsb' 10 22) ++ mva.extractLsb' 0 10
  | size =>
    let k := size.bits
    (((e.pa ++ 0#10 : Word) >>> k) <<< k) ||| (mva &&& ((1#32 <<< k) - 1#32))

/-- Does a fault of an entry have the status code of a section (spec/21 R285)? A free value for a size code that is not listed
(log 51). -/
def TlbEntry.isSection (e : TlbEntry) : Bool :=
  match e.size with
  | .mb1 => true
  | .unlisted code => Config.unlistedSection code
  | _ => false

/-- The entries that match. -/
def Tlb.matching (t : Tlb) (mva : Word) : List TlbEntry :=
  t.entries.toList.filterMap (fun o => o.filter (fun e => e.hits mva))

/-- The victim counter after a fill (spec/11 R127). -/
def nextVictim (base victim : BitVec 6) : BitVec 6 := if victim = 63#6 then base else victim + 1#6

/-- A walked entry is loaded at the victim, takes the P bit, and the counter advances (spec/21 R255). -/
def Tlb.fill (t : Tlb) (e : TlbEntry) : Tlb :=
  { t with
    entries := t.entries.set t.victim.toNat (some { e with preserved := t.preserve }) t.victim.isLt
    victim := nextVictim t.base t.victim }

/-- What a walk found: an entry, or a fault with its status and domain. -/
inductive Walked where
  | entry (e : TlbEntry)
  | fault (status : BitVec 4) (domain : Option (BitVec 4))
  deriving DecidableEq, Repr

/-- The two bits of the DACR for a domain (spec/11 R105). -/
def domainBits (dacr : Word) (d : BitVec 4) : BitVec 2 := (dacr >>> (2 * d.toNat)).extractLsb' 0 2

/-- An entry as a walk forms it: the domain check is cached in DFI and AP select (spec/11 R151, spec/21 R254). -/
def walkedEntry (dacr mva pa : Word) (size : PageSize) (d : BitVec 4) (ap : BitVec 2) (c b : Bool) : TlbEntry where
  lock := false
  preserved := false
  tag := mva.extractLsb' 10 22
  cmp := size
  pa := pa.extractLsb' 10 22
  size := size
  domain := d
  dfi := !(domainBits dacr d).getLsbD 0
  apSelect := if domainBits dacr d = 1#2 then 1#4 <<< ap.toNat else 0#4
  c := c
  b := b
  ncb := !c && b
  ncnb := !c && !b

/-- One descriptor read, 32 bits (spec/23 R394); a data-side walk empties the write buffer first (spec/20 R214). HPROT[3:1]
are not stated (N27). -/
def walkRead (side : Side) (pa : Word) (s : State) : Option Word × State :=
  let s := match side with
    | .data => drainAll s
    | .instr => s
  let prot : BitVec 4 := s.freeVal.extractLsb' 0 3 ++ BitVec.ofBool (side == .data)
  match busRead side.master .word pa prot false s.useFree with
  | (some d, s1) => (some (d.extractLsb' 0 32), s1)
  | (none, s1) => (none, s1)

/-- The subpage's two AP bits of a page descriptor (spec/21 R265-R267). -/
def subpageAp (d : Word) (n : BitVec 2) : BitVec 2 := (d >>> (4 + 2 * n.toNat)).extractLsb' 0 2

/-- All four AP fields of a page descriptor are the same (spec/21 R266, R267). -/
def sameAps (d : Word) : Bool :=
  subpageAp d 0#2 == subpageAp d 1#2 && subpageAp d 0#2 == subpageAp d 2#2 && subpageAp d 0#2 == subpageAp d 3#2

/-- The entry, or the fault, of a level 2 descriptor; `fine` allows tiny pages (spec/21 R263-R268). -/
def pageEntry (dacr mva d : Word) (dom : BitVec 4) (fine : Bool) : Walked :=
  let c := d.getLsbD 3
  let b := d.getLsbD 2
  match d.getLsbD 1, d.getLsbD 0 with
  | false, false => .fault 0x7#4 (some dom)
  | false, true =>
    let n : BitVec 2 := mva.extractLsb' 14 2
    let pa : Word := d.extractLsb' 16 16 ++ mva.extractLsb' 0 16
    .entry (walkedEntry dacr mva pa (if sameAps d then .kb64 else .kb16) dom (subpageAp d n) c b)
  | true, false =>
    let n : BitVec 2 := mva.extractLsb' 10 2
    let pa : Word := d.extractLsb' 12 20 ++ mva.extractLsb' 0 12
    .entry (walkedEntry dacr mva pa (if sameAps d then .kb4 else .kb1) dom (subpageAp d n) c b)
  | true, true =>
    if fine then
      .entry (walkedEntry dacr mva (d.extractLsb' 10 22 ++ mva.extractLsb' 0 10) .kb1 dom (d.extractLsb' 4 2) c b)
    else .fault 0x7#4 (some dom)

/-- The table walk (spec/21 R260-R269). -/
def tableWalk (side : Side) (mva : Word) (s : State) : Walked × State :=
  let l1 : Word := s.cp15.ttbr.extractLsb' 14 18 ++ mva.extractLsb' 20 12 ++ 0#2
  match walkRead side l1 s with
  | (none, s1) => (.fault 0xC#4 none, s1)
  | (some d, s1) =>
    let dom : BitVec 4 := d.extractLsb' 5 4
    match d.getLsbD 1, d.getLsbD 0 with
    | false, false => (.fault 0x5#4 none, s1)
    | true, false =>
      let pa : Word := d.extractLsb' 20 12 ++ mva.extractLsb' 0 20
      (.entry (walkedEntry s.cp15.dacr mva pa .mb1 dom (d.extractLsb' 10 2) (d.getLsbD 3) (d.getLsbD 2)), s1)
    | false, true =>
      let l2 : Word := d.extractLsb' 10 22 ++ mva.extractLsb' 12 8 ++ 0#2
      match walkRead side l2 s1 with
      | (none, s2) => (.fault 0xE#4 (some dom), s2)
      | (some d2, s2) => (pageEntry s.cp15.dacr mva d2 dom false, s2)
    | true, true =>
      let l2 : Word := d.extractLsb' 12 20 ++ mva.extractLsb' 10 10 ++ 0#2
      match walkRead side l2 s1 with
      | (none, s2) => (.fault 0xE#4 (some dom), s2)
      | (some d2, s2) => (pageEntry s.cp15.dacr mva d2 dom true, s2)

/-- `Permitted` (spec/21 R280), for an AP value. -/
def apPermits (ap : BitVec 2) (sys rom priv write : Bool) : Bool :=
  match ap.toNat with
  | 0 =>
    match sys, rom with
    | false, false => false
    | true, false => priv && !write
    | false, true => !write
    | true, true => false
  | 1 => priv
  | 2 => priv || !write
  | _ => true

/-- An AP select code is none or one-hot (spec/11 R151). -/
def apSelectOk (a : BitVec 4) : Bool :=
  a == 0#4 || a == 1#4 || a == 2#4 || a == 4#4 || a == 8#4

/-- The AP value of an AP select code (spec/11 R151): one-hot, `none` for no check. -/
def apOfSelect (a : BitVec 4) : Option (BitVec 2) :=
  if a.getLsbD 0 then some 0#2 else if a.getLsbD 1 then some 1#2 else if a.getLsbD 2 then some 2#2
  else if a.getLsbD 3 then some 3#2 else none

/-- Does an entry permit an access (spec/21 R280)? With an AP select code the spec does not list it is a free value
(spec/11 R151; log 47). -/
def entryPermits (s : State) (e : TlbEntry) (write priv : Bool) : Bool :=
  if apSelectOk e.apSelect then
    match apOfSelect e.apSelect with
    | none => true
    | some ap => apPermits ap s.sysProt s.romProt priv write
  else s.freeVal.getLsbD 0

/-- What translation answers. -/
inductive Xlate where
  | ok (pa : Word) (c b : Bool)
  | fault (status : BitVec 4) (domain : Option (BitVec 4))
  | ambiguous
  deriving DecidableEq, Repr

/-- The checks on an entry at an access (spec/21 R253, R285). -/
def checkEntry (s : State) (e : TlbEntry) (mva : Word) (write priv : Bool) : Xlate :=
  if e.dfi then .fault (if e.isSection then 0x9#4 else 0xB#4) (some e.domain)
  else if entryPermits s e write priv then .ok (e.physical mva) e.c e.b
  else .fault (if e.isSection then 0xD#4 else 0xF#4) (some e.domain)

/-- The free value of an AP select code the spec does not list is used up. -/
def usePermission (e : TlbEntry) (s : State) : State := if apSelectOk e.apSelect then s else s.useFree

/-- `Translate` with M = 1 (spec/21 R253). -/
def translate (side : Side) (mva : Word) (write priv : Bool) (s : State) : Xlate × State :=
  match (s.tlb side).matching mva with
  | [e] => (checkEntry s e mva write priv, usePermission e s)
  | _ :: _ :: _ => (.ambiguous, s)
  | [] =>
    if s.cp15.cr2.getLsbD 4 then (.fault 0x0#4 none, s)
    else
      match tableWalk side mva s with
      | (.fault st d, s1) => (.fault st d, s1)
      | (.entry e, s1) =>
        (checkEntry s1 e mva write priv, s1.setTlb side ((s1.tlb side).fill e))

/-- Invalidate all entries that are not preserved (spec/21 R257). -/
def Tlb.invalidateAll (t : Tlb) : Tlb :=
  { t with entries := t.entries.map (fun o => o.filter (fun e => e.preserved)) }

/-- Invalidate the entry that matches (spec/21 R258). Where two entries match, all that match are invalidated: DESIGN CHOICE
(log 35). -/
def Tlb.invalidateOne (t : Tlb) (mva : Word) : Tlb :=
  { t with entries := t.entries.map (fun o => o.filter (fun e => !e.hits mva)) }

/-- A DACR write invalidates the entries with index at or above base (spec/21 R259). -/
def Tlb.invalidateUnlocked (t : Tlb) : Tlb :=
  { t with entries := t.entries.mapIdx (fun i o => if i < t.base.toNat then o else none) }

/-- The page size of a CAM mask (spec/11 R150); other masks are not listed (N13). -/
def maskSize (m : BitVec 4) : Option PageSize :=
  match m.toNat with
  | 7 => some .kb64 | 3 => some .kb16 | 1 => some .kb4 | 0 => some .kb1 | _ => none

/-- The page size of a PA RAM size code (spec/11 R152); a section has no CAM mask (N13), and other codes are not listed (log
51). -/
def codeSize (m : BitVec 4) : Option PageSize :=
  match m.toNat with
  | 7 => some .kb64 | 3 => some .kb16 | 1 => some .kb4 | 0 => some .kb1 | 15 => none | _ => some (.unlisted m)

/-- The entry of the holding registers (spec/11 R150-R153): `some none` for V = 0, an invalid entry; `none` where the mask of
a valid entry is not listed or its size is a section's (N13). -/
def Tlb.heldEntry (t : Tlb) : Option (Option TlbEntry) :=
  if t.camHold.getLsbD 27 then
    match maskSize (t.camHold.extractLsb' 22 4), codeSize (t.paHold.extractLsb' 0 4) with
    | some cmp, some size =>
      some (some { lock := t.camHold.getLsbD 26, preserved := t.preserve, tag := t.camHold.extractLsb' 0 22, cmp := cmp,
                   pa := t.paHold.extractLsb' 4 22, size := size, domain := t.protHold.extractLsb' 9 4,
                   dfi := t.protHold.getLsbD 8, apSelect := t.protHold.extractLsb' 4 4, c := t.protHold.getLsbD 3,
                   b := t.protHold.getLsbD 2, ncb := t.protHold.getLsbD 1, ncnb := t.protHold.getLsbD 0 })
    | _, _ => none
  else some none

end Sys2Proof.Machine
end

