-- ==== Sys2Proof/Machine/Cache.lean ====
section
/-!
DEFINITION. The caches, region types, and the four access primitives MemRead, MemWrite, the swap and Fetch
(spec/20 R203-R226; spec/22 R320-R381).
-/
namespace Sys2Proof.Machine

/-- Why a data access aborts: the virtual address, the status and the domain if it is valid (spec/21 R298). -/
structure AbortInfo where
  va : Word
  status : BitVec 4
  domain : Option (BitVec 4)
  deriving DecidableEq, Repr

/-- What an operation on memory answers. -/
inductive Res (α : Type) where
  | ok (a : α) (s : State)
  | abort (i : AbortInfo) (s : State)
  | refuse (r : Refusal)
  deriving DecidableEq, Repr

/-- Go on after an operation that did not abort. -/
def Res.bind {α β : Type} (x : Res α) (k : α → State → Res β) : Res β :=
  match x with
  | .ok a s => k a s
  | .abort i s => .abort i s
  | .refuse r => .refuse r

/-- The region types of Table 6-2 (spec/22 R325). -/
inductive RegionType where
  | ncnb | ncb | wt | wb
  deriving DecidableEq, Repr

/-- A cachable region type. -/
def RegionType.cachable : RegionType → Bool
  | .wt => true | .wb => true | .ncnb => false | .ncb => false

/-- The region type of C and B bits (spec/22 R325). -/
def regionOf (c b : Bool) : RegionType :=
  match c, b with
  | false, false => .ncnb | false, true => .ncb | true, false => .wt | true, true => .wb

namespace State

/-- Debug state: DSCR[0] (spec/61 R905). -/
def halted (s : State) : Bool := s.dbg.dscr.getLsbD 0

/-- `DebugEnabled` (spec/61 R901). -/
def debugEnabled (s : State) : Bool := s.pins.dbgen && s.dbg.dscr.getLsbD 31

/-- Halt mode: DSCR.H (spec/61 R900). -/
def haltMode (s : State) : Bool := s.dbg.dscr.getLsbD 30

/-- CPSR.T. -/
def thumb (s : State) : Bool := s.cpsr.getLsbD 5

/-- The mode bits. -/
def mode (s : State) : BitVec 5 := s.cpsr.extractLsb' 0 5

/-- `InAPrivilegedMode()`: every mode but User (spec/10 R44). -/
def priv (s : State) : Bool := s.mode != 0x10#5

end State

/-- The segment of an address. -/
def segOf (a : Word) : BitVec 4 := a.extractLsb' 5 4

/-- The tag of an address. -/
def tagOf (a : Word) : BitVec 23 := a.extractLsb' 9 23

/-- The word of an address within its line. -/
def wordOf (a : Word) : BitVec 3 := a.extractLsb' 2 3

/-- A segment of a cache. -/
def Cache.seg (c : Cache) (g : BitVec 4) : Vector (Option CacheLine) 64 := c.lines[g.toNat]'g.isLt

/-- A line of a cache. -/
def Cache.line (c : Cache) (g : BitVec 4) (i : BitVec 6) : Option CacheLine := (c.seg g)[i.toNat]'i.isLt

/-- Put a line. -/
def Cache.setLine (c : Cache) (g : BitVec 4) (i : BitVec 6) (l : Option CacheLine) : Cache :=
  { c with lines := c.lines.set g.toNat ((c.seg g).set i.toNat l i.isLt) g.isLt }

/-- The first index at or after `i` whose line is valid with this tag. -/
def findTag (tag : BitVec 23) : List (Option CacheLine) → Nat → Option (Nat × CacheLine)
  | [], _ => none
  | o :: rest, i =>
    match o with
    | some l => if l.tag = tag then some (i, l) else findTag tag rest (i + 1)
    | none => findTag tag rest (i + 1)

/-- Lookup: the index and the line that hits (spec/22 R321). -/
def Cache.lookup (c : Cache) (mva : Word) : Option (BitVec 6 × CacheLine) :=
  match findTag (tagOf mva) (c.seg (segOf mva)).toList 0 with
  | some (i, l) => some (BitVec.ofNat 6 i, l)
  | none => none

/-- The next victim of a segment: round-robin, or a free value in base to 63 (spec/22 R330). -/
def nextCacheVictim (rr : Bool) (base victim : BitVec 6) (f : Word) : BitVec 6 :=
  if rr then nextVictim base victim else base + BitVec.ofNat 6 (f.toNat % (64 - base.toNat))

/-- A line is allocated at the victim of its segment and the counter moves. -/
def Cache.allocate (c : Cache) (rr : Bool) (f : Word) (mva : Word) (l : CacheLine) : Cache :=
  let g := segOf mva
  let v := c.victim[g.toNat]'g.isLt
  { c.setLine g v (some l) with victim := c.victim.set g.toNat (nextCacheVictim rr c.base v f) g.isLt }

/-- The line an allocation for this address replaces. -/
def Cache.occupant (c : Cache) (mva : Word) : Option CacheLine :=
  c.line (segOf mva) (c.victim[(segOf mva).toNat]'(segOf mva).isLt)

/-- A line is written back iff it is dirty and from a write-back region (spec/22 R343). -/
def CacheLine.writtenBack (l : CacheLine) : Bool := l.dirty && l.wb

/-- An evicted or cleaned line goes to the castout buffer, doubleword `start` first, if it must be written back. -/
def castIfDirty (o : Option CacheLine) (start : BitVec 2) (s : State) : State :=
  match o with
  | some l => if l.writtenBack then castLine l start s else s
  | none => s

/-- A DCache linefill (spec/22 R340, R343): the write buffer drains, the line is read, the victim is cast out. An evicted
line's castout begins at doubleword 0: DESIGN CHOICE (spec/22 R353 and spec/23 R395 do not say; log 33). -/
def dataFill (mva pa : Word) (wb priv : Bool) (s : State) : CacheLine × State :=
  let r := readLine .dbiu pa (hprot true priv wb true) (drainAll s)
  let l : CacheLine := { tag := tagOf mva, data := r.1, dirty := false, wb := wb, paTag := pa.extractLsb' 5 27 }
  let s1 := castIfDirty (r.2.dcache.occupant mva) 0#2 r.2
  (l, { s1.useFree with
        dcache := s1.dcache.allocate s1.roundRobin s1.freeVal mva l
        hum := if s1.fastInt then none else some (pa.extractLsb' 5 27) })

/-- An ICache linefill (spec/22 R323): the write buffer is not drained (spec/20 R213). -/
def instrFill (mva pa : Word) (priv b : Bool) (s : State) : CacheLine × State :=
  let r := readLine .ibiu pa (hprot false priv b true) s
  let l : CacheLine := { tag := tagOf mva, data := r.1, dirty := false, wb := false, paTag := pa.extractLsb' 5 27 }
  (l, { r.2.useFree with icache := r.2.icache.allocate r.2.roundRobin r.2.freeVal mva l })

/-- A word of a line. -/
def CacheLine.word (l : CacheLine) (a : Word) : Word := l.data[(wordOf a).toNat]'(wordOf a).isLt

/-- The data of a transfer that lies in a line (spec/20 R204). -/
def CacheLine.read (l : CacheLine) (big : Bool) (size : BusSize) (a : Word) : BitVec 64 :=
  match size with
  | .dword => l.word (alignDown .dword a + 4#32) ++ l.word (alignDown .dword a)
  | _ => (pick big size (l.word a) a).zeroExtend 64

/-- A line after a store of one, two or four bytes. -/
def CacheLine.storeWord (l : CacheLine) (big : Bool) (size : BusSize) (a v : Word) : CacheLine :=
  { l with data := l.data.set (wordOf a).toNat (merge big size (l.word a) a v) (wordOf a).isLt }

/-- A line after a store of one transfer. -/
def CacheLine.store (l : CacheLine) (big : Bool) (size : BusSize) (a : Word) (v : BitVec 64) (dirty : Bool) : CacheLine :=
  let stored := match size with
    | .dword => (l.storeWord big .word (alignDown .dword a) (v.extractLsb' 0 32)).storeWord big .word
        (alignDown .dword a + 4#32) (v.extractLsb' 32 32)
    | _ => l.storeWord big size a (v.extractLsb' 0 32)
  { stored with dirty := l.dirty || dirty }

/-- Where a data access goes: its physical and modified virtual address, its region and attributes. -/
structure Located where
  pa : Word
  mva : Word
  region : RegionType
  c : Bool
  b : Bool
  deriving DecidableEq, Repr

/-- The attributes a data access has (spec/22 R325, R326; spec/61 R912): DC and DB in debug state and with the MMU off. -/
def dataRegion (s : State) (c b : Bool) : RegionType :=
  match s.dcacheOn with
  | false => .ncnb
  | true =>
    if s.halted || !s.mmuOn then regionOf (s.cp15.cr2.getLsbD 1) (s.cp15.cr2.getLsbD 0) else regionOf c b

/-- Steps 3 to 5 of MemRead and MemWrite: address translation and region type (spec/20 R210). The address a fault records keeps its
low two bits where the misaligned word that is accessed is at `va & ~3`: DESIGN CHOICE (spec/20 R206, spec/21 R298; log 53). -/
def locate (va : Word) (write priv : Bool) (s : State) : Res Located :=
  let mva := relocate s.cp15.pid va
  match s.mmuOn with
  | false =>
    let r := dataRegion s false false
    .ok ⟨mva, mva, r, r.cachable, r == .ncb || r == .wb⟩ s
  | true =>
    match translate .data mva write priv s with
    | (.ok pa c b, s1) =>
      let r := dataRegion s1 c b
      .ok ⟨pa, mva, r, r.cachable, r == .ncb || r == .wb⟩ s1
    | (.fault st d, s1) => .abort ⟨va, st, d⟩ s1
    | (.ambiguous, _) => .refuse .tlbAmbiguous

/-- Is an access of this size at this address misaligned? -/
def misaligned (size : BusSize) (va : Word) : Bool := va != alignDown size va

/-- Does an access fault with A = 1? A doubleword needs word alignment only (spec/20 R206). -/
def faultsAlignment (size : BusSize) (va : Word) : Bool :=
  match size with
  | .dword => misaligned .word va
  | _ => misaligned size va

/-- The domain of the entry that translates a data address. -/
def dtlbDomain (s : State) (va : Word) : Option (BitVec 4) :=
  match s.dtlb.matching (relocate s.cp15.pid va) with
  | e :: _ => some e.domain
  | [] => none

/-- An external abort on the access itself (spec/21 R296): the domain is a free value with the MMU off; the address keeps its low two
bits: DESIGN CHOICE (spec/21 R298; log 53). -/
def externalAbort (va : Word) (s : State) : AbortInfo := ⟨va, 0xA#4, if s.mmuOn then dtlbDomain s va else none⟩

/-- Step 6 of MemRead: the data of a located access (spec/20 R210). With `ext` false an ERROR response is not reported
(spec/20 R226) and the data is free. A misaligned halfword load, and in Thumb state a word load, makes its access at the address
aligned down to its size though its value is free: DESIGN CHOICE (spec/20 R206 and spec/93 U5, U6 name no address; log 30). -/
def readAt (loc : Located) (va : Word) (size : BusSize) (priv ext locked : Bool) (s : State) : Res (BitVec 64) :=
  match loc.region.cachable with
  | true =>
    match s.dcache.lookup loc.mva with
    | some (_, l) => .ok (l.read s.big size loc.mva) s
    | none =>
      let r := dataFill loc.mva loc.pa (loc.region == .wb) priv s
      .ok (r.1.read s.big size loc.mva) r.2
  | false =>
    match busRead .dbiu size (alignDown size loc.pa) (hprot true priv loc.b loc.c) locked (drainAll s) with
    | (some v, s1) => .ok v s1
    | (none, s1) =>
      if ext then .abort (externalAbort va s1) s1 else .ok (s1.useFree.freeVal ++ s1.freeVal) s1.useFree.useFree

/-- A watchpoint's comparison of the size (spec/61 R907). -/
def watchSize (wc : BitVec 11) (size : BusSize) : Bool :=
  match size with
  | .byte => wc.getLsbD 5 | .half => wc.getLsbD 6 | _ => wc.getLsbD 7

/-- A watchpoint comparator matches an access (spec/61 R907). -/
def watchMatches (wa : Word) (wc : BitVec 11) (va : Word) (size : BusSize) (load priv : Bool) : Bool :=
  wc.getLsbD 0 && va.extractLsb' 2 30 == wa.extractLsb' 2 30
    && (wc.getLsbD 10 || va.getLsbD 1 == wa.getLsbD 1) && (wc.getLsbD 9 || va.getLsbD 0 == wa.getLsbD 0)
    && watchSize wc size && (if load then wc.getLsbD 4 else wc.getLsbD 3) && (if priv then wc.getLsbD 2 else wc.getLsbD 1)

/-- Some watchpoint matches the access. The accesses of an instruction from the ITR, in debug state, are not compared: DESIGN CHOICE
(spec/61 R907 and R911 do not say; log 21). -/
def watched (s : State) (va : Word) (size : BusSize) (load priv : Bool) : Bool :=
  s.debugEnabled && !s.halted &&
    (watchMatches s.dbg.wa[0] s.dbg.wc[0] va size load priv || watchMatches s.dbg.wa[1] s.dbg.wc[1] va size load priv)

/-- Note the first watchpoint hit of an instruction, with the domain of the access; its event is due when the instruction is
complete (spec/61 R907, spec/11 R108). With the MMU off it notes no domain, so that its event writes a free value there: DESIGN
CHOICE (spec/21 R296 says this of an external abort only; log 21). The address compared and noted keeps its low two bits: DESIGN
CHOICE (log 53). -/
def noteWatch (va : Word) (size : BusSize) (load priv : Bool) (s : State) : State :=
  if watched s va size load priv && s.dbg.watch.isNone then
    { s with dbg := { s.dbg with watch := some ⟨va, s.pc, s.thumb, if s.mmuOn then dtlbDomain s va else none⟩ } }
  else s

/-- Each word of a doubleword is compared as a word access at its own address (spec/61 R907). -/
def noteAccess (va : Word) (size : BusSize) (load priv : Bool) (s : State) : State :=
  match size with
  | .dword => noteWatch (va + 4#32) .word load priv (noteWatch va .word load priv s)
  | _ => noteWatch va size load priv s

/-- How an access is made: its privilege, the privilege a watchpoint sees, whether an ERROR response is reported, and
whether it is the read or the write of a swap. -/
structure Access where
  priv : Bool
  seenPriv : Bool
  ext : Bool
  locked : Bool
  deriving DecidableEq, Repr

/-- An ordinary access. -/
def Access.ordinary (priv : Bool) : Access := ⟨priv, priv, true, false⟩

/-- `MemRead` (spec/20 R210) of one, two, four or eight bytes, the misaligned word unrotated. -/
def memReadWide (va : Word) (size : BusSize) (a : Access) (s : State) : Res (BitVec 64) :=
  if s.alignOn && faultsAlignment size va then .abort ⟨va, 0x1#4, none⟩ s
  else
    (locate va false a.priv s).bind fun loc s1 =>
    (readAt loc va size a.priv a.ext a.locked s1).bind fun v s2 =>
    .ok v (noteAccess va size true a.seenPriv s2)

/-- `MemRead` of at most four bytes. -/
def memReadX (va : Word) (size : BusSize) (a : Access) (s : State) : Res Word :=
  (memReadWide va size a s).bind fun v s1 => .ok (v.extractLsb' 0 32) s1

/-- `MemRead` (spec/20 R210). -/
def memRead (va : Word) (size : BusSize) (priv : Bool) (s : State) : Res Word := memReadX va size (.ordinary priv) s

/-- The DCache after a store: a hit is updated when the DCache is on (spec/22 R341, R346). -/
def storeInCache (loc : Located) (size : BusSize) (v : BitVec 64) (dirty : Bool) (s : State) : State :=
  match s.dcacheOn with
  | false => s
  | true =>
    match s.dcache.lookup loc.mva with
    | some (i, l) => { s with dcache := s.dcache.setLine (segOf loc.mva) i (some (l.store s.big size loc.mva v dirty)) }
    | none => s

/-- A store straight to the AHB: the write buffer drains first (spec/20 R211). Where an ERROR response is reported a line
that hits is left unchanged: DESIGN CHOICE (spec/22 R346 does not say; log 48). -/
def writeUnbuffered (loc : Located) (va : Word) (size : BusSize) (v : BitVec 64) (priv ext locked : Bool) (s : State) :
    Res Unit :=
  match busWrite s.big size (alignDown size loc.pa) v (hprot true priv loc.b loc.c) locked .single (drainAll s) with
  | (true, s1) => .ok () (storeInCache loc size v false s1)
  | (false, s1) => if ext then .abort (externalAbort va s1) s1 else .ok () (storeInCache loc size v false s1)

/-- The write buffer's entry of a store: HPROT[1] is the mode of the store (spec/91 N27: DESIGN CHOICE, log 11). -/
def entryOf (loc : Located) (size : BusSize) (v : BitVec 64) (priv big : Bool) (burst : Burst) : WriteEntry :=
  ⟨alignDown size loc.pa, size, v, hprot true priv loc.b loc.c, big, burst⟩

/-- With W = 0 the region of a store is NCNB (spec/22 R351, R325). -/
def Located.forced (loc : Located) : Located := { loc with region := .ncnb, c := false, b := false }

/-- The store of a located access by region (spec/20 R211, spec/22 R341, R351). The write of a swap is locked and unbuffered
in a noncachable region only (spec/20 R224). A store through a WB mapping that hits a line whose write-back bit is clear, the
programming error of spec/22 R341, goes to the line alone, marks it dirty and keeps that bit clear, so that it is never written
back: DESIGN CHOICE (D32 states noncachable hits only; log 54). -/
def writeAt (loc : Located) (va : Word) (size : BusSize) (v : BitVec 64) (priv ext locked : Bool) (burst : Burst)
    (s : State) : Res Unit :=
  if locked && !loc.region.cachable then
    writeUnbuffered (if s.wbufOn then loc else loc.forced) va size v priv ext true s
  else
    match s.wbufOn, loc.region with
    | false, _ => writeUnbuffered loc.forced va size v priv ext false s
    | true, .ncnb => writeUnbuffered loc va size v priv ext false s
    | true, .ncb => .ok () (bufferWrite (entryOf loc size v priv s.big burst) (storeInCache loc size v false s))
    | true, .wt => .ok () (bufferWrite (entryOf loc size v priv s.big burst) (storeInCache loc size v false s))
    | true, .wb =>
      match s.dcache.lookup loc.mva with
      | some _ => .ok () (storeInCache loc size v true s)
      | none => .ok () (bufferWrite (entryOf loc size v priv s.big burst) s)

/-- `MemWrite` (spec/20 R211) of one, two, four or eight bytes. -/
def memWriteWide (va : Word) (size : BusSize) (v : BitVec 64) (a : Access) (burst : Burst) (s : State) : Res Unit :=
  if s.alignOn && faultsAlignment size va then .abort ⟨va, 0x1#4, none⟩ s
  else
    (locate va true a.priv s).bind fun loc s1 =>
    (writeAt loc va size v a.priv a.ext a.locked burst s1).bind fun _ s2 =>
    .ok () (noteAccess va size false a.seenPriv s2)

/-- `MemWrite` of at most four bytes: the low bytes of `v`. -/
def memWriteX (va : Word) (size : BusSize) (v : Word) (a : Access) (s : State) : Res Unit :=
  memWriteWide va size ((carried size v).zeroExtend 64) a .single s

/-- `MemWrite` (spec/20 R211). -/
def memWrite (va : Word) (size : BusSize) (v : Word) (priv : Bool) (s : State) : Res Unit :=
  memWriteX va size v (.ordinary priv) s

/-- The read and the write of a swap; to a noncachable region they are locked (spec/20 R224). -/
def memSwap (va : Word) (size : BusSize) (v : Word) (priv : Bool) (s : State) : Res Word :=
  (memReadX va size ⟨priv, priv, true, true⟩ s).bind fun old s1 =>
  (memWriteX va size v ⟨priv, priv, true, true⟩ s1).bind fun _ s2 =>
  .ok old s2

/-- How a multiple makes its accesses: their privilege, the privilege a watchpoint sees, whether an external abort is
reported on every access (LDC, STC), and whether doubleword-aligned pairs of words are one 64-bit access. -/
structure Multiple where
  priv : Bool
  seenPriv : Bool
  every : Bool
  pairs : Bool
  deriving DecidableEq, Repr

/-- LDM, STM, LDRD and STRD (spec/44 R659). -/
def Multiple.ordinary (priv : Bool) : Multiple := ⟨priv, priv, false, true⟩

/-- One access of a multiple. An external abort is reported on the first access and on the first beyond each 1KB boundary
(spec/20 R226). -/
def Multiple.access (m : Multiple) (first : Bool) (va : Word) : Access :=
  ⟨m.priv, m.seenPriv, first || m.every || va.extractLsb' 2 8 == 0#8, false⟩

/-- Does a pair of words begin at this address (spec/20 R226; spec/95 E-5-9 to E-5-11)? -/
def Multiple.pairAt (m : Multiple) (va : Word) : Bool := m.pairs && !va.getLsbD 2

/-- Read `n` consecutive words, a doubleword-aligned pair in one access: the words read, and how the run ended. A misaligned run
names each word by its address with the low two bits of the first: DESIGN CHOICE for what a fault records (spec/21 R298; log 53). -/
def readRun (m : Multiple) : Nat → Bool → Word → State → List Word × Res Unit
  | 0, _, _, s => ([], .ok () s)
  | 1, first, va, s =>
    match memReadWide va .word (m.access first va) s with
    | .ok v s1 => ([v.extractLsb' 0 32], .ok () s1)
    | .abort i s1 => ([], .abort i s1)
    | .refuse r => ([], .refuse r)
  | n + 2, first, va, s =>
    if m.pairAt va then
      match memReadWide va .dword (m.access first va) s with
      | .ok v s1 =>
        let rest := readRun m n false (va + 8#32) s1
        (v.extractLsb' 0 32 :: v.extractLsb' 32 32 :: rest.1, rest.2)
      | .abort i s1 => ([], .abort i s1)
      | .refuse r => ([], .refuse r)
    else
      match memReadWide va .word (m.access first va) s with
      | .ok v s1 =>
        let rest := readRun m (n + 1) false (va + 4#32) s1
        (v.extractLsb' 0 32 :: rest.1, rest.2)
      | .abort i s1 => ([], .abort i s1)
      | .refuse r => ([], .refuse r)

/-- The words of a run that did not abort. -/
def wordsOf (x : List Word × Res Unit) : Res (List Word) := x.2.bind fun _ s => .ok x.1 s

/-- Read `n` consecutive words (LDM, LDRD; spec/44 R650). -/
def memReadMany (m : Multiple) (n : Nat) (va : Word) (s : State) : Res (List Word) := wordsOf (readRun m n true va s)

/-- The burst of one access of `k` words of a buffered multiple with `rest` words to follow: sequential with another access of
the multiple in the same 1KB (spec/22 R347, C27), those of an STC too: DESIGN CHOICE (spec/23 R393 names STM; log 11). -/
def runBurst (first : Bool) (va : Word) (k rest : Nat) : Burst :=
  if (!first && va.extractLsb' 2 8 != 0#8) || (rest != 0 && (va + BitVec.ofNat 32 (4 * k)).extractLsb' 2 8 != 0#8) then .incr
  else .single

/-- Write consecutive words, a doubleword-aligned pair in one access (spec/44 R654), each named as `readRun` names it (log 53). -/
def writeRun (m : Multiple) : List Word → Bool → Word → State → Res Unit
  | [], _, _, s => .ok () s
  | [v], first, va, s =>
    memWriteWide va .word (v.zeroExtend 64) (m.access first va) (runBurst first va 1 0) s
  | v :: w :: rest, first, va, s =>
    if m.pairAt va then
      (memWriteWide va .dword (w ++ v) (m.access first va) (runBurst first va 2 rest.length) s).bind fun _ s1 =>
      writeRun m rest false (va + 8#32) s1
    else
      (memWriteWide va .word (v.zeroExtend 64) (m.access first va) (runBurst first va 1 (rest.length + 1)) s).bind
        fun _ s1 => writeRun m (w :: rest) false (va + 4#32) s1

/-- Write consecutive words (STM, STRD; spec/44 R654). -/
def memWriteMany (m : Multiple) (vs : List Word) (va : Word) (s : State) : Res Unit := writeRun m vs true va s

/-- The bus answers ERROR to some beat of the linefill of an address. -/
def lineErrors (s : State) (pa : Word) : Bool :=
  ([0, 1, 2, 3] : List (BitVec 2)).any fun k =>
    kindAt s.memMap ((pa &&& 0xFFFFFFE0#32) + (k.zeroExtend 32 <<< 3)).toNat == .error

/-- PLD (spec/22 R342, spec/43 R630): a linefill in a cachable region that misses; no abort, and no line is allocated if the
bus answers ERROR. An entry that a walk loaded stays in the DTLB when its domain or permission check fails: DEDUCED (spec/21 R255;
log 49). No watchpoint compares the access: DESIGN CHOICE (spec/61 R907 does not say; log 21). -/
def preload (va : Word) (priv : Bool) (s : State) : Res Unit :=
  match locate va false priv s with
  | .ok loc s1 =>
    match loc.region.cachable with
    | false => .ok () s1
    | true =>
      match s1.dcache.lookup loc.mva with
      | some _ => .ok () s1
      | none =>
        if lineErrors s1 loc.pa then
          .ok () (readLine .dbiu loc.pa (hprot true priv (loc.region == .wb) true) (drainAll s1)).2
        else .ok () (dataFill loc.mva loc.pa (loc.region == .wb) priv s1).2
  | .abort _ s1 => .ok () s1
  | .refuse r => .refuse r

/-- Is an instruction access cachable (spec/22 R323, spec/61 R912)? -/
def instrCachable (s : State) (c : Bool) : Bool :=
  s.icacheOn && (if s.halted then s.cp15.cr2.getLsbD 3 else (!s.mmuOn || c))

/-- The B attribute of an instruction access, which HPROT[2] shows: IB in debug state with the ICache on (spec/61 R912, spec/11
R147), else the descriptor's B, with the ICache off too, and 0 with the MMU off: DESIGN CHOICE (spec/23 R396 refers to spec/22
R325, which is about data; spec/22 R323 and spec/21 R270 give an instruction region no B; log 11). -/
def instrBufferable (s : State) (b : Bool) : Bool :=
  if s.halted && s.icacheOn then s.cp15.cr2.getLsbD 2 else b

/-- What a fetch answers: an instruction or a marked fault, or no answer. -/
inductive FetchRes where
  | got (f : Fetched) (s : State)
  | refuse (r : Refusal)
  deriving DecidableEq, Repr

/-- The instruction bits of a word: the word, or a halfword of it (spec/20 R204). -/
def instrBits (big thumb : Bool) (w a : Word) : Word := if thumb then pick big .half w a else w

/-- A noncachable instruction read (spec/20 R213, spec/23 R394): a halfword in Thumb state, a word in ARM state, or the aligned
doubleword around it; the TRM does not say which state gives which size: DESIGN CHOICE (log 46). A doubleword that spans two
regions takes the kind of the instruction's own address: DESIGN CHOICE (spec/00 R10; log 46). The record of an ERROR response has
data 0: DESIGN CHOICE (log 11). -/
def fetchRead (thumb : Bool) (pa : Word) (prot : BitVec 4) (s : State) : Option Word × State :=
  let wide := Config.wideFetch pa
  let size := if thumb then BusSize.half else BusSize.word
  let r : BusRecord := { master := .ibiu, write := false, pa := if wide then alignDown .dword pa else pa,
                         size := if wide then .dword else size, data := 0#64, hprot := prot, locked := false, burst := .single }
  match kindAt s.memMap pa.toNat with
  | .error => (none, s.record r)
  | .device =>
    let near := Config.deviceRead (alignDown .word pa) s.freeCount
    let far := Config.deviceRead (alignDown .word pa ^^^ 4#32) s.freeCount
    (some (instrBits s.big thumb near pa),
     (s.record { r with data := if wide then (if pa.getLsbD 2 then near ++ far else far ++ near)
                                else (instrBits s.big thumb near pa).zeroExtend 64 }).useFree)
  | _ =>
    (some (physRead s.mem s.big size pa),
     s.record { r with data := if wide then physReadWide s.mem s.big .dword pa
                               else (physRead s.mem s.big size pa).zeroExtend 64 })

/-- `Fetch` after translation (spec/20 R213). HPROT[3] is 0 on a noncachable fetch whatever the descriptor's C, the region's type
being NC with the ICache off (spec/22 R323), while HPROT[2] stays the descriptor's B: DESIGN CHOICE (log 11). -/
def fetchAt (mva pa : Word) (c b thumb priv : Bool) (s : State) : FetchRes :=
  match instrCachable s c with
  | true =>
    match s.icache.lookup mva with
    | some (_, l) => .got (.word (instrBits s.big thumb (l.word mva) mva)) s
    | none =>
      let r := instrFill mva pa priv (instrBufferable s b) s
      .got (.word (instrBits s.big thumb (r.1.word mva) mva)) r.2
  | false =>
    match fetchRead thumb pa (hprot false priv (instrBufferable s b) false) s with
    | (some v, s1) => .got (.word v) s1
    | (none, s1) => .got (.abort 0xA#4) s1

/-- `Fetch` (spec/20 R213). -/
def fetch (va : Word) (thumb priv : Bool) (s : State) : FetchRes :=
  let mva := relocate s.cp15.pid va
  match s.mmuOn with
  | false => fetchAt mva mva s.icacheOn false thumb priv s
  | true =>
    match translate .instr mva false priv s with
    | (.ok pa c b, s1) => fetchAt mva pa c b thumb priv s1
    | (.fault st _, s1) => .got (.abort st) s1
    | (.ambiguous, _) => .refuse .tlbAmbiguous

/-- A fetch behind a branch that is predicted taken and not yet resolved: only what hits in the ITLB and in the ICache is
fetched; there is no table walk, no bus access and no allocation (spec/22 R376, D33). Where an ITLB entry hits and its domain or
permission check fails, nothing is fetched before the branch is resolved: DESIGN CHOICE (log 10). -/
def speculativeFetch (va : Word) (thumb priv : Bool) (s : State) : Option Fetched :=
  let mva := relocate s.cp15.pid va
  let hit := fun (c : Bool) =>
    if instrCachable s c then
      match s.icache.lookup mva with
      | some (_, l) => some (Fetched.word (instrBits s.big thumb (l.word mva) mva))
      | none => none
    else none
  match s.mmuOn with
  | false => hit s.icacheOn
  | true =>
    match s.itlb.matching mva with
    | [e] =>
      match checkEntry s e mva false priv with
      | .ok _ c _ => hit c
      | .fault _ _ => none
      | .ambiguous => none
    | _ => none

/-- Prefetch ICache line (spec/22 R381): a linefill on a miss in a cachable region. A translation that faults raises no abort
and fetches no line (D34); an entry that a walk loaded before its domain or permission check failed stays in the TLB (D26):
DEDUCED (log 49). -/
def prefetchLine (va : Word) (s : State) : Res Unit :=
  let mva := relocate s.cp15.pid va
  let go := fun (pa : Word) (c b : Bool) (s : State) =>
    match instrCachable s c with
    | false => s
    | true =>
      match s.icache.lookup mva with
      | some _ => s
      | none => (instrFill mva pa s.priv (instrBufferable s b) s).2
  match s.mmuOn with
  | false => .ok () (go mva s.icacheOn false s)
  | true =>
    match translate .instr mva false s.priv s with
    | (.ok pa c b, s1) => .ok () (go pa c b s1)
    | (.fault _ _, s1) => .ok () s1
    | (.ambiguous, _) => .refuse .tlbAmbiguous

/-- Every line of a cache becomes invalid (spec/22 R380). -/
def Cache.invalidateAll (c : Cache) : Cache :=
  { c with lines := Vector.replicate 16 (Vector.replicate 64 none) }

/-- The line that hits becomes invalid (spec/22 R380); no segment holds a tag twice (spec/22 R321). -/
def Cache.invalidateOne (c : Cache) (mva : Word) : Cache :=
  { c with
    lines := c.lines.set (segOf mva).toNat ((c.seg (segOf mva)).map fun o => o.filter fun l => l.tag != tagOf mva)
      (segOf mva).isLt }

/-- Clean a DCache line: queue its write-back, doubleword `start` first, and clear dirty; then invalidate it if asked
(spec/22 R344, R345; spec/11 R111, R112). -/
def cleanLine (g : BitVec 4) (i : BitVec 6) (start : BitVec 2) (invalidate : Bool) (s : State) : State :=
  match s.dcache.line g i with
  | none => s
  | some l =>
    let s1 := castIfDirty (some l) start s
    { s1 with dcache := s1.dcache.setLine g i (if invalidate then none else some { l with dirty := false }) }

/-- Clean the DCache line of a virtual address, the doubleword of the address first (spec/22 R344, spec/11 R111). Unlike the forms by
index it drains nothing before: DESIGN CHOICE (log 52). -/
def cleanByVa (va : Word) (invalidate : Bool) (s : State) : State :=
  let mva := relocate s.cp15.pid va
  match s.dcache.lookup mva with
  | some (i, _) => cleanLine (segOf mva) i (mva.extractLsb' 3 2) invalidate s
  | none => s

/-- A write of a cache lockdown register: base and every victim (spec/11 R122). -/
def Cache.lockdown (c : Cache) (base : BitVec 6) : Cache :=
  { c with base := base, victim := Vector.replicate 16 base }

end Sys2Proof.Machine
end

