-- ==== Sys2Proof/Machine/Flags.lean ====
section
/-!
DEFINITION. Every flag computation of the spec: conditions (spec/30 R422), carry, borrow and overflow (spec/40 R501),
N and Z, signed saturation (spec/40 R530-R533, spec/00 R13).
-/
namespace Sys2Proof.Machine

namespace State

/-- CPSR.N (spec/10 R40). -/
def flagN (s : State) : Bool := s.cpsr.getLsbD 31

/-- CPSR.Z. -/
def flagZ (s : State) : Bool := s.cpsr.getLsbD 30

/-- CPSR.C. -/
def flagC (s : State) : Bool := s.cpsr.getLsbD 29

/-- CPSR.V. -/
def flagV (s : State) : Bool := s.cpsr.getLsbD 28

/-- CPSR.Q, sticky (spec/10 R42). -/
def flagQ (s : State) : Bool := s.cpsr.getLsbD 27

/-- N, Z, C and V are written; the rest of the CPSR keeps its value. -/
def setNZCV (s : State) (n z c v : Bool) : State :=
  { s with cpsr := BitVec.ofBool n ++ BitVec.ofBool z ++ BitVec.ofBool c ++ BitVec.ofBool v ++ s.cpsr.extractLsb' 0 28 }

/-- Q is set if `sat`; nothing but MSR and an exception return clears it (spec/10 R42). -/
def setQ (s : State) (sat : Bool) : State :=
  { s with cpsr := if sat then s.cpsr ||| 0x08000000#32 else s.cpsr }

end State

/-- `ConditionPassed(cond)` (spec/30 R422). -/
def condPassed (c : Cond) (n z cy v : Bool) : Bool :=
  match c with
  | .eq => z
  | .ne => !z
  | .cs => cy
  | .cc => !cy
  | .mi => n
  | .pl => !n
  | .vs => v
  | .vc => !v
  | .hi => cy && !z
  | .ls => !cy || z
  | .ge => n == v
  | .lt => n != v
  | .gt => !z && n == v
  | .le => z || n != v
  | .al => true

/-- The condition of an instruction passes in a state. -/
def State.passes (s : State) (c : Cond) : Bool := condPassed c s.flagN s.flagZ s.flagC s.flagV

/-- The result of a data-processing operation with the C and V it gives. -/
structure Alu where
  result : Word
  c : Bool
  v : Bool
  deriving DecidableEq, Repr

/-- Is a mathematical integer outside the signed 32-bit range (spec/40 R501, spec/00 R13)? -/
def outside32 (x : Int) : Bool := decide (x < -2147483648) || decide (x > 2147483647)

/-- a + b + carry: `CarryFrom` and `OverflowFrom` (spec/40 R501). -/
def addAlu (a b : Word) (carry : Bool) : Alu where
  result := a + b + BitVec.ofNat 32 carry.toNat
  c := decide (a.toNat + b.toNat + carry.toNat > 4294967295)
  v := outside32 (a.toInt + b.toInt + carry.toNat)

/-- a - b - borrow: C is NOT `BorrowFrom`, V is `OverflowFrom` (spec/40 R501). -/
def subAlu (a b : Word) (borrow : Bool) : Alu where
  result := a - b - BitVec.ofNat 32 borrow.toNat
  c := !decide (a.toNat < b.toNat + borrow.toNat)
  v := outside32 (a.toInt - b.toInt - borrow.toNat)

/-- `SignedSat32` (spec/40 R530). -/
def sat32 (x : Int) : Int := if x > 2147483647 then 2147483647 else if x < -2147483648 then -2147483648 else x

/-- A saturated result and whether clamping changed it. -/
structure Saturated where
  value : Word
  sat : Bool
  deriving DecidableEq, Repr

/-- `SignedSat32` and `SignedDoesSat32` of an integer. -/
def saturate (x : Int) : Saturated := ⟨BitVec.ofInt 32 (sat32 x), outside32 x⟩

/-- The NZCV a data-processing result writes: N and Z of the result (spec/40 R500). -/
def State.setAlu (s : State) (a : Alu) : State := s.setNZCV (a.result.getLsbD 31) (a.result == 0#32) a.c a.v

/-- N and Z of a 32-bit result; C and V keep their values (spec/41 R551, spec/47). -/
def State.setNZ (s : State) (r : Word) : State := s.setNZCV (r.getLsbD 31) (r == 0#32) s.flagC s.flagV

/-- N and Z of a 64-bit product; C and V keep their values (spec/41 R551). -/
def State.setNZ64 (s : State) (p : BitVec 64) : State := s.setNZCV (p.getLsbD 63) (p == 0#64) s.flagC s.flagV

end Sys2Proof.Machine
end

