-- ==== Sys2Proof/Machine/Ops.lean ====
section
/-!
DEFINITION. The named operations over registers: banks, reading and writing registers and status registers, writing the
pc, taking an exception and returning from one, entering debug state (spec/10, spec/60, spec/61).
-/
namespace Sys2Proof.Machine

/-- The bank a mode selects (spec/10 R32); System shares User's. -/
def bankOf (mode : BitVec 5) : Bank :=
  match mode.toNat with
  | 0x11 => .fiq
  | 0x12 => .irq
  | 0x13 => .svc
  | 0x17 => .abt
  | 0x1B => .und
  | _ => .usr

/-- The seven modes (spec/10 R44). -/
def legalMode (mode : BitVec 5) : Bool :=
  match mode.toNat with
  | 0x10 => true | 0x11 => true | 0x12 => true | 0x13 => true | 0x17 => true | 0x1B => true | 0x1F => true
  | _ => false

/-- Where a bank's r13 stands among the thirty registers; its r14 follows. -/
def bankBase : Bank → Fin 29
  | .usr => 18 | .svc => 20 | .abt => 22 | .und => 24 | .irq => 26 | .fiq => 28

/-- The register a name selects in a bank (spec/10 R32); r15 is not one of the thirty and is given index 0. -/
def regIndex (b : Bank) (r : Reg) : Fin 30 :=
  match r.toNat with
  | 13 => (bankBase b).castSucc
  | 14 => (bankBase b).succ
  | 15 => 0
  | 8 => if b = .fiq then 13 else 8
  | 9 => if b = .fiq then 14 else 9
  | 10 => if b = .fiq then 15 else 10
  | 11 => if b = .fiq then 16 else 11
  | 12 => if b = .fiq then 17 else 12
  | 0 => 0 | 1 => 1 | 2 => 2 | 3 => 3 | 4 => 4 | 5 => 5 | 6 => 6 | _ => 7

/-- The SPSR a bank has (spec/10 R45): fiq, irq, svc, abt, und. -/
def spsrIndex : Bank → Option (Fin 5)
  | .fiq => some 0 | .irq => some 1 | .svc => some 2 | .abt => some 3 | .und => some 4 | .usr => none

namespace State

/-- The bank of the current mode. -/
def bank (s : State) : Bank := bankOf s.mode

/-- Is the instruction that runs a Thumb instruction? CPSR.T says so, and DSCR.T of an instruction from the ITR (spec/61
R911); that r15 reads by DSCR.T there is a DESIGN CHOICE (spec/10 R36; log 24). -/
def codeThumb (s : State) : Bool := if s.halted then s.dbg.dscr.getLsbD 28 else s.thumb

/-- What r15 reads beyond the address of the instruction: 8, or 4 for a Thumb instruction (spec/10 R36). -/
def pcOffset (s : State) : Word := if s.codeThumb then 4#32 else 8#32

/-- A register of a bank; r15 reads the address of the instruction plus 8, or plus 4 in Thumb state (spec/10 R36). -/
def regIn (s : State) (b : Bank) (r : Reg) : Word :=
  if r = regPc then s.pc + s.pcOffset else s.regs[regIndex b r]

/-- A register of the current mode. -/
def reg (s : State) (r : Reg) : Word := s.regIn s.bank r

/-- Write a register of a bank. The pc is written by `branchTo` only: naming r15 here has no effect. -/
def setRegIn (s : State) (b : Bank) (r : Reg) (v : Word) : State :=
  if r = regPc then s else { s with regs := s.regs.set (regIndex b r) v }

/-- Write a register of the current mode. -/
def setReg (s : State) (r : Reg) (v : Word) : State := s.setRegIn s.bank r v

/-- `CurrentModeHasSPSR()` (spec/10 R45). -/
def hasSpsr (s : State) : Bool := (spsrIndex s.bank).isSome

/-- The SPSR of the current mode; a free value in User and System mode (spec/10 R45, U4). -/
def readSpsr (s : State) : Word :=
  match spsrIndex s.bank with
  | some i => s.spsr[i]
  | none => s.freeVal

/-- Write the SPSR of a bank, if it has one. -/
def setSpsrIn (s : State) (b : Bank) (v : Word) : State :=
  match spsrIndex b with
  | some i => { s with spsr := s.spsr.set i v }
  | none => s

/-- Go to an address: the prefetch buffer is flushed (spec/10 R37, spec/22 R375). -/
def branchTo (s : State) (target : Word) : State := { s with pc := target, prefetch := [] }

/-- Write CPSR.T. -/
def setThumb (s : State) (t : Bool) : State :=
  { s with cpsr := if t then s.cpsr ||| 0x20#32 else s.cpsr &&& 0xFFFFFFDF#32 }

/-- An address aligned to the state that CPSR.T names: the pc never holds a misaligned one (spec/20 R207, spec/10 R34). -/
def alignPc (s : State) (a : Word) : Word := a &&& (if s.thumb then 0xFFFFFFFE#32 else 0xFFFFFFFC#32)

/-- The size of an instruction. -/
def instrSize (s : State) : Word := if s.thumb then 2#32 else 4#32

end State

/-- The seven exceptions (spec/60 R840). -/
inductive Exc where
  | reset | undefined | swi | prefetchAbort | dataAbort | irq | fiq
  deriving DecidableEq, Repr

/-- The vector offset (spec/60 R840). -/
def Exc.offset : Exc → Word
  | .reset => 0x00#32 | .undefined => 0x04#32 | .swi => 0x08#32 | .prefetchAbort => 0x0C#32
  | .dataAbort => 0x10#32 | .irq => 0x18#32 | .fiq => 0x1C#32

/-- The mode entered (spec/60 R840). -/
def Exc.mode : Exc → BitVec 5
  | .reset => 0x13#5 | .undefined => 0x1B#5 | .swi => 0x13#5 | .prefetchAbort => 0x17#5
  | .dataAbort => 0x17#5 | .irq => 0x12#5 | .fiq => 0x11#5

/-- The DSCR bit that catches the vector (spec/60 R840). -/
def Exc.catchBit : Exc → Nat
  | .reset => 16 | .undefined => 17 | .swi => 18 | .prefetchAbort => 19 | .dataAbort => 20 | .irq => 22 | .fiq => 23

/-- Does the exception set F (spec/60 R840)? -/
def Exc.masksFiq : Exc → Bool
  | .reset => true | .fiq => true
  | .undefined => false | .swi => false | .prefetchAbort => false | .dataAbort => false | .irq => false

/-- `VectorBase()` (spec/60 R861). -/
def vectorBase (s : State) : Word := if s.highVectors then 0xFFFF0000#32 else 0#32

/-- The CPSR after entry: the mode, T = 0, I = 1, F = 1 for Reset and FIQ; the rest is unchanged (spec/60 R860). -/
def entryCpsr (e : Exc) (old : Word) : Word :=
  old.extractLsb' 8 24 ++ 1#1 ++ (BitVec.ofBool (e.masksFiq || old.getLsbD 6)) ++ 0#1 ++ e.mode

/-- One more vector whose first instruction is caught (spec/61 R908). -/
def addCatch (target : Word) (l : List Word) : List Word := if l.contains target then l else target :: l

/-- `TakeException(kind, link)` (spec/60 R860): r14 and the SPSR of the mode entered, the CPSR, the prefetch buffer and
the pc; a vector whose catch bit is set is remembered for the vector catch (spec/61 R908). -/
def takeException (e : Exc) (link : Word) (s : State) : State :=
  let target := vectorBase s + e.offset
  let entered := ({ s with cpsr := entryCpsr e s.cpsr }.setRegIn (bankOf e.mode) regLr link).setSpsrIn (bankOf e.mode) s.cpsr
  { entered with
    pc := target
    prefetch := []
    dbg := { s.dbg with
      catchAt := if s.debugEnabled && s.dbg.dscr.getLsbD e.catchBit then addCatch target s.dbg.catchAt else s.dbg.catchAt } }

/-- The instruction is complete: go to the next one. In debug state the pc is not incremented (spec/61 R905, R911); past
the last address there is no next instruction (spec/10 R35, U1). -/
def advance (s : State) : Outcome State :=
  if s.halted then .next s
  else if s.pc = (if s.thumb then 0xFFFFFFFE#32 else 0xFFFFFFFC#32) then .refused .pcWrap
  else .next { s with pc := s.pc + s.instrSize }

/-- An instruction with a condition: a failed condition has no effect (spec/30 R422, R424). -/
def whenCond (c : Cond) (s : State) (k : Outcome State) : Outcome State := if s.passes c then k else advance s

/-- A check that the spec makes UNPREDICTABLE to fail. -/
def require (ok : Bool) (r : Refusal) (k : Outcome State) : Outcome State := if ok then k else .refused r

/-- Undefined Instruction (spec/60 R862); from the ITR it is UNPREDICTABLE (spec/61 R911). -/
def undefinedInstr (s : State) : Outcome State :=
  if s.halted then .refused .debugException else .next (takeException .undefined (s.pc + s.instrSize) s)

/-- Software Interrupt (spec/60 R864). -/
def softwareInterrupt (s : State) : Outcome State :=
  if s.halted then .refused .debugException else .next (takeException .swi (s.pc + s.instrSize) s)

/-- The method of debug entry, DSCR[4:2] (spec/12 R171). -/
def setMoe (d : Debug) (moe : BitVec 3) : Debug :=
  { d with dscr := d.dscr.extractLsb' 5 27 ++ moe ++ d.dscr.extractLsb' 0 2 }

/-- The DFSR, the data FAR and the instruction FAR of a Data Abort or watchpoint (spec/21 R298); an invalid domain is a
free value (spec/11 R108). -/
def recordDataFault (status : BitVec 4) (domain : Option (BitVec 4)) (va ifar : Word) (s : State) : State :=
  match domain with
  | some d => { s with cp15 := { s.cp15 with dfsr := d ++ status, dfar := va, ifar := ifar } }
  | none =>
    { s.useFree with cp15 := { s.cp15 with dfsr := s.freeVal.extractLsb' 0 4 ++ status, dfar := va, ifar := ifar } }

/-- Data Abort (spec/60 R868). In debug state no exception is taken: DSCR[5] is set and MOE is 110 (spec/61 R910). A watchpoint hit
noted on an earlier access of the same LDM, STM, LDC, STC or SWP is dropped, and the abort alone is taken: DESIGN CHOICE (spec/21
R285, R297 and spec/61 R907, R916 rank the causes of one access only; log 21). -/
def dataAbort (i : AbortInfo) (s : State) : Outcome State :=
  let s1 := recordDataFault i.status i.domain i.va (s.pc + s.pcOffset) s
  let s2 : State := { s1 with dbg := { s1.dbg with watch := none } }
  if s2.halted then
    .next { s2 with dbg := setMoe { s2.dbg with dscr := s2.dbg.dscr ||| 0x20#32 } 0b110#3 }
  else .next (takeException .dataAbort (s2.pc + 8#32) s2)

/-- Prefetch Abort with a status; IFSR[7:4] and the instruction FAR are free values (spec/60 R867, spec/91 N11). -/
def prefetchAbort (status : BitVec 4) (s : State) : State :=
  takeException .prefetchAbort (s.pc + 4#32)
    { s.useFree.useFree with
      cp15 := { s.cp15 with
        ifsr := s.freeVal.extractLsb' 0 4 ++ status
        ifar := s.useFree.freeVal } }

/-- Entry to debug state (spec/61 R905): MOE, DSCR[0] = 1, DSCR[1] = 0; the prefetch buffer is dropped. -/
def enterDebug (moe : BitVec 3) (s : State) : State :=
  { s with
    dbg := { s.dbg with dscr := s.dbg.dscr.extractLsb' 5 27 ++ moe ++ 0b01#2, watch := none, haltReq := false }
    prefetch := [] }

/-- The vector at the pc is no longer to be caught: its first instruction runs, or its event is raised (spec/61 R908). -/
def caughtHere (s : State) : State := { s with dbg := { s.dbg with catchAt := s.dbg.catchAt.filter (· != s.pc) } }

/-- The debug event of a breakpoint, a BKPT or a vector catch: debug state, or in monitor mode a Prefetch Abort (spec/61
R902, R905, R906, R908, R909). The IFSR is written by the Prefetch Abort only (spec/21 R299, D30). -/
def debugEvent (moe : BitVec 3) (s : State) : State :=
  if s.haltMode then enterDebug moe (caughtHere s)
  else prefetchAbort 0x2#4 { caughtHere s with dbg := setMoe (caughtHere s).dbg moe }

/-- `BreakpointInstruction()` (spec/61 R909). -/
def breakpointInstr (s : State) : Outcome State :=
  if s.halted then .refused .debugException
  else if s.debugEnabled then .next (debugEvent 0b011#3 s)
  else .next (prefetchAbort 0x2#4 s)

/-- Go on with what a memory operation gave, or take its Data Abort. -/
def Res.finish {α : Type} (x : Res α) (k : α → State → Outcome State) : Outcome State :=
  match x with
  | .ok a s => k a s
  | .abort i s => dataAbort i s
  | .refuse r => .refused r

/-- BX and BLX(2): T is bit 0 (spec/10 R37, R38). -/
def exchangeTo (v : Word) (s : State) : Outcome State :=
  if v.extractLsb' 0 2 = 0b10#2 then .refused .pcMisaligned
  else .next ((s.setThumb (v.getLsbD 0)).branchTo (v &&& 0xFFFFFFFE#32))

/-- A value loaded into the pc (spec/43 R605, spec/48 R811): T is bit 0 unless L4 is set. With L4 set CPSR.T picks the mask, for
an instruction from the ITR too, whatever DSCR.T is: DESIGN CHOICE (log 24). -/
def loadPc (v : Word) (s : State) : Outcome State :=
  if s.l4 then .next (s.branchTo (s.alignPc v))
  else exchangeTo v s

/-- A data-processing result written to the pc without S (spec/40 R500). -/
def aluWritePc (v : Word) (s : State) : Outcome State :=
  if v.extractLsb' 0 2 = 0#2 then .next (s.branchTo v) else .refused .pcMisaligned

/-- Exception return (spec/60 R875): the CPSR is restored and the pc is aligned to the restored T. -/
def exceptionReturn (v : Word) (s : State) : Outcome State :=
  match spsrIndex s.bank with
  | none => .refused .noSpsr
  | some i =>
    let saved := s.spsr[i]
    if legalMode (saved.extractLsb' 0 5) then
      .next ({ s with cpsr := saved }.branchTo (v &&& (if saved.getLsbD 5 then 0xFFFFFFFE#32 else 0xFFFFFFFC#32)))
    else .refused .illegalMode

/-- The target of a relative branch: arithmetic that leaves the address space is UNPREDICTABLE (spec/42 R580, U1). -/
def relative (base : Word) (offset : Int) : Option Word :=
  let t := (base.toNat : Int) + offset
  if t < 0 then none else if t > 4294967295 then none else some (BitVec.ofInt 32 t)

/-- The bytes of a status register a field mask selects (spec/45 R673). -/
def fieldMask (mask : BitVec 4) : Word :=
  (if mask.getLsbD 3 then 0xFF#8 else 0#8) ++ (if mask.getLsbD 2 then 0xFF#8 else 0#8)
    ++ (if mask.getLsbD 1 then 0xFF#8 else 0#8) ++ (if mask.getLsbD 0 then 0xFF#8 else 0#8)

/-- Replace the masked bits. -/
def maskedWrite (old v mask : Word) : Word := (old &&& ~~~mask) ||| (v &&& mask)

/-- `MSRWrite` to the CPSR (spec/45 R673); reserved bits are ignored (corner case (a)). An operand bit 5 of 0 is accepted whatever
T is, and T is kept, as the rule's pseudocode has it: DESIGN CHOICE for an instruction from the ITR with T = 1 (log 24). -/
def msrCpsr (mask : BitVec 4) (v : Word) (s : State) : Outcome State :=
  if s.priv || s.halted then
    if ((v &&& fieldMask mask).getLsbD 5) then .refused .msrSetsT
    else
      let new := maskedWrite s.cpsr v (fieldMask mask &&& 0xF80000DF#32)
      if legalMode (new.extractLsb' 0 5) then advance { s with cpsr := new } else .refused .illegalMode
  else advance { s with cpsr := maskedWrite s.cpsr v (fieldMask mask &&& 0xF8000000#32) }

/-- `MSRWrite` to the SPSR of the current mode (spec/45 R673). -/
def msrSpsr (mask : BitVec 4) (v : Word) (s : State) : Outcome State :=
  match spsrIndex s.bank with
  | none => .refused .noSpsr
  | some i => advance { s with spsr := s.spsr.set i (maskedWrite s.spsr[i] v (fieldMask mask &&& 0xF80000FF#32)) }

/-- `MSRWrite(R, field_mask, operand)` (spec/45 R673). -/
def msrWrite (r : Bool) (mask : BitVec 4) (v : Word) (s : State) : Outcome State :=
  if r then msrSpsr mask v s else msrCpsr mask v s

end Sys2Proof.Machine
end

