-- ==== Sys2Proof/Machine/Operands.lean ====
section
/-!
DEFINITION. The operand forms: the shifter operand (spec/30 R426-R428), addressing modes 2 to 5 (spec/43 R600, R601;
spec/44 R650; spec/46 R701), and the register restrictions of the instructions' rules (spec/30 R440).
-/
namespace Sys2Proof.Machine

/-- A shifter operand and its carry-out. -/
structure Shifted where
  value : Word
  carry : Bool
  deriving DecidableEq, Repr

/-- LSL by n > 0 (spec/30 R428). -/
def lslBy (m : Word) (n : Nat) : Shifted :=
  if n < 32 then ⟨m <<< n, m.getLsbD (32 - n)⟩ else if n = 32 then ⟨0#32, m.getLsbD 0⟩ else ⟨0#32, false⟩

/-- LSR by n > 0 (spec/30 R428). -/
def lsrBy (m : Word) (n : Nat) : Shifted :=
  if n < 32 then ⟨m >>> n, m.getLsbD (n - 1)⟩ else if n = 32 then ⟨0#32, m.getLsbD 31⟩ else ⟨0#32, false⟩

/-- ASR by n > 0 (spec/30 R428). -/
def asrBy (m : Word) (n : Nat) : Shifted :=
  if n < 32 then ⟨m.sshiftRight n, m.getLsbD (n - 1)⟩
  else ⟨if m.getLsbD 31 then 0xFFFFFFFF#32 else 0#32, m.getLsbD 31⟩

/-- ROR by n > 0 (spec/30 R428). -/
def rorBy (m : Word) (n : Nat) : Shifted :=
  if n % 32 = 0 then ⟨m, m.getLsbD 31⟩ else ⟨m.rotateRight (n % 32), m.getLsbD (n % 32 - 1)⟩

/-- A shift by n > 0. -/
def shiftBy (sh : Shift) (m : Word) (n : Nat) : Shifted :=
  match sh with
  | .lsl => lslBy m n
  | .lsr => lsrBy m n
  | .asr => asrBy m n
  | .ror => rorBy m n

/-- A shift by the bottom byte of a register: by 0, the value with the C flag (spec/30 R428). -/
def shiftByReg (sh : Shift) (m : Word) (amount : BitVec 8) (c : Bool) : Shifted :=
  if amount = 0#8 then ⟨m, c⟩ else shiftBy sh m amount.toNat

/-- A shift by an immediate: 0 stands for LSL #0, LSR #32, ASR #32 and RRX (spec/30 R427). -/
def shiftByImm (sh : Shift) (m : Word) (amount : BitVec 5) (c : Bool) : Shifted :=
  if amount = 0#5 then
    match sh with
    | .lsl => ⟨m, c⟩
    | .lsr => lsrBy m 32
    | .asr => asrBy m 32
    | .ror => ⟨BitVec.ofBool c ++ m.extractLsb' 1 31, m.getLsbD 0⟩
  else shiftBy sh m amount.toNat

/-- An immediate rotated right (spec/30 R426). -/
def rotatedImm (rot : BitVec 4) (imm8 : BitVec 8) (c : Bool) : Shifted :=
  let v := (imm8.zeroExtend 32 : Word).rotateRight (2 * rot.toNat)
  ⟨v, if rot = 0#4 then c else v.getLsbD 31⟩

/-- `ShifterOperand(i)` (spec/30 R426-R428). -/
def shifterOperand (op : Op2) (s : State) : Shifted :=
  match op with
  | .imm rot imm8 => rotatedImm rot imm8 s.flagC
  | .shiftImm amount sh rm => shiftByImm sh (s.reg rm) amount s.flagC
  | .shiftReg rs sh rm => shiftByReg sh (s.reg rm) ((s.reg rs).extractLsb' 0 8) s.flagC

/-- r15 may not be named in a register-shifted form (spec/30 R428). -/
def op2Allowed (op : Op2) (rn rd : Reg) : Bool :=
  match op with
  | .imm _ _ => true
  | .shiftImm _ _ _ => true
  | .shiftReg rs _ rm => rs != regPc && rm != regPc && rn != regPc && rd != regPc

/-- Base plus or minus an offset (spec/43 R600). -/
def plusMinus (up : Bool) (base offset : Word) : Word := if up then base + offset else base - offset

/-- Does the addressing mode write the base register? -/
def writesBack (ix : Index) : Bool := !ix.p || ix.w

/-- The offset of addressing mode 2 (spec/30 R432, R433). -/
def offset2 (off : Off2) (s : State) : Word :=
  match off with
  | .imm o => o.zeroExtend 32
  | .reg amount sh rm => (shiftByImm sh (s.reg rm) amount s.flagC).value

/-- The offset of addressing mode 3 (spec/43 R601). -/
def offset3 (off : Off3) (s : State) : Word :=
  match off with
  | .imm o => o.zeroExtend 32
  | .reg _ rm => s.reg rm

/-- The base with the offset applied: what pre-indexing accesses and what write-back writes (spec/43 R600). -/
def indexTarget (ix : Index) (offset : Word) (s : State) : Word := plusMinus ix.u (s.reg ix.rn) offset

/-- The address accessed: the base for post-indexing (spec/43 R600, R601). -/
def indexAddress (ix : Index) (offset : Word) (s : State) : Word :=
  if ix.p then indexTarget ix offset s else s.reg ix.rn

/-- The base register after the access (spec/43 R600). -/
def writeBase (ix : Index) (target : Word) (s : State) : State :=
  if writesBack ix then s.setReg ix.rn target else s

/-- Restrictions on the offset register and the base of addressing mode 2 (spec/43 R600). -/
def mode2Allowed (ix : Index) (off : Off2) : Bool :=
  (!writesBack ix || ix.rn != regPc) &&
    match off with
    | .imm _ => true
    | .reg _ _ rm => rm != regPc && (!writesBack ix || ix.rn != rm)

/-- Restrictions of addressing mode 3 (spec/43 R601). -/
def mode3Allowed (ix : Index) (off : Off3) : Bool :=
  ix.notT && (!writesBack ix || ix.rn != regPc) &&
    match off with
    | .imm _ => true
    | .reg _ rm => rm != regPc && (!writesBack ix || ix.rn != rm)

/-- A load may not write back to its own destination (spec/43 R600). -/
def loadAllowed (ix : Index) (rd : Reg) : Bool := !writesBack ix || ix.rn != rd

/-- Restrictions of LDRD and STRD: an even pair below r14 (spec/43 R624). -/
def pairAllowed (rd : Reg) : Bool := rd != regLr

/-- The second register of a pair. -/
def pairHigh (rd : Reg) : Reg := rd + 1#4

/-- LDRD: neither base nor offset register is in the pair, where the spec bars it (spec/43 R624). -/
def ldrdAllowed (ix : Index) (rd : Reg) (off : Off3) : Bool :=
  (!writesBack ix || (ix.rn != rd && ix.rn != pairHigh rd)) &&
    match off with
    | .imm _ => true
    | .reg _ rm => rm != rd && rm != pairHigh rd

/-- The index of a post-indexed form with User privilege (spec/43 R600). -/
def postIndex (u : Bool) (rn : Reg) : Index := ⟨false, u, true, rn⟩

/-- What a store of a register writes: r15 is A + STORE_PC_OFFSET (spec/43 R606, D8). -/
def storeValueIn (s : State) (b : Bank) (r : Reg) : Word :=
  if r = regPc then s.pc + (if Config.storePcIs12 then 12#32 else 8#32) else s.regIn b r

/-- What a store of a register of the current mode writes. -/
def storeValue (s : State) (r : Reg) : Word := storeValueIn s s.bank r

/-- The registers of a list, in ascending order (spec/44 R650). -/
def listRegs (list : BitVec 16) : List Reg :=
  ([0, 1, 2, 3, 4, 5, 6, 7, 8, 9, 10, 11, 12, 13, 14, 15] : List (BitVec 4)).filter (fun r => list.getLsbD r.toNat)

/-- Four times the number of registers of a list. -/
def listBytes (list : BitVec 16) : Word := BitVec.ofNat 32 (4 * (listRegs list).length)

/-- `start_address` of addressing mode 4 (spec/44 R650). -/
def multipleStart (ix : Index) (list : BitVec 16) (base : Word) : Word :=
  match ix.p, ix.u with
  | false, true => base
  | true, true => base + 4#32
  | false, false => base - listBytes list + 4#32
  | true, false => base - listBytes list

/-- The written-back base of addressing mode 4 (spec/44 R650). -/
def multipleBase (ix : Index) (list : BitVec 16) (base : Word) : Word := plusMinus ix.u base (listBytes list)

/-- Restrictions of addressing mode 4 (spec/44 R650). -/
def multipleAllowed (ix : Index) (list : BitVec 16) : Bool := list != 0#16 && ix.rn != regPc

/-- The base is in the list. -/
def baseInList (ix : Index) (list : BitVec 16) : Bool := list.getLsbD ix.rn.toNat

/-- The offset of addressing mode 5 (spec/46 R701). -/
def offset5 (f : CpMem) : Word := f.offset.zeroExtend 32 <<< 2

/-- The start address of addressing mode 5 (spec/46 R701). -/
def cpStart (f : CpMem) (s : State) : Word :=
  if f.p then plusMinus f.u (s.reg f.rn) (offset5 f) else s.reg f.rn

/-- The base register after an LDC or STC (spec/46 R701). -/
def cpWriteBase (f : CpMem) (v : Word) (s : State) : State := if f.w then s.setReg f.rn v else s

/-- The written-back base of addressing mode 5. -/
def cpBase (f : CpMem) (s : State) : Word := plusMinus f.u (s.reg f.rn) (offset5 f)

/-- Write-back to r15 is barred (spec/46 R701). -/
def cpMemAllowed (f : CpMem) : Bool := !f.w || f.rn != regPc

end Sys2Proof.Machine
end

