-- ==== Sys2Proof/Machine/Cp15.lean ====
section
/-!
DEFINITION. CP15: which accesses there are and what each reads or does (spec/11_state_cp15.md R82-R153; spec/46 R721).
-/
namespace Sys2Proof.Machine

/-- What an MRC from CP15 can name (spec/11 R82). -/
inductive Cp15Read where
  | deviceId | cacheType | control | ttbr | dacr | dfsr | ifsr | dfar | ifar | dcacheLock | icacheLock | dtlbLock | itlbLock
  | processId | contextId | pll | pmsr | pmrdr | control2
  deriving DecidableEq, Repr

/-- What an MCR to CP15 can name (spec/11 R82, R116). -/
inductive Cp15Write where
  | control | ttbr | dacr | dfsr | ifsr | dfar | ifar
  | invalidateCaches | invalidateICache | invalidateILine | prefetchILine | invalidateDCache | invalidateDLine
  | cleanDLine | cleanInvalidateDLine | cleanDIndex | cleanInvalidateDIndex | drainWriteBuffer | waitForInterrupt
  | invalidateTlbs | invalidateITlb | invalidateIEntry | invalidateDTlb | invalidateDEntry
  | dcacheLock | icacheLock | dtlbLock | itlbLock | processId | contextId | pll | pmtdr | control2
  | camHold (side : Side) | protHold (side : Side) | paHold (side : Side) | writeEntry (side : Side)
  deriving DecidableEq, Repr

/-- The read of CRn, CRm, opcode_2 (spec/11 R82, R86). -/
def cp15ReadOf (crn crm : BitVec 4) (op2 : BitVec 3) : Option Cp15Read :=
  match crn.toNat, crm.toNat, op2.toNat with
  | 0, 0, 1 => some .cacheType
  | 0, 0, _ => some .deviceId
  | 1, 0, 0 => some .control
  | 2, 0, 0 => some .ttbr
  | 3, 0, 0 => some .dacr
  | 5, 0, 0 => some .dfsr
  | 5, 0, 1 => some .ifsr
  | 6, 0, 0 => some .dfar
  | 6, 0, 1 => some .ifar
  | 9, 0, 0 => some .dcacheLock
  | 9, 0, 1 => some .icacheLock
  | 10, 0, 0 => some .dtlbLock
  | 10, 0, 1 => some .itlbLock
  | 13, 0, 0 => some .processId
  | 13, 0, 1 => some .contextId
  | 15, 12, 0 => some .pll
  | 15, 14, 0 => some .pmsr
  | 15, 14, 1 => some .pmrdr
  | 15, 11, 0 => some .control2
  | _, _, _ => none

/-- The write of CRn, CRm, opcode_2 (spec/11 R82, R116). -/
def cp15WriteOf (crn crm : BitVec 4) (op2 : BitVec 3) : Option Cp15Write :=
  match crn.toNat, crm.toNat, op2.toNat with
  | 1, 0, 0 => some .control
  | 2, 0, 0 => some .ttbr
  | 3, 0, 0 => some .dacr
  | 5, 0, 0 => some .dfsr
  | 5, 0, 1 => some .ifsr
  | 6, 0, 0 => some .dfar
  | 6, 0, 1 => some .ifar
  | 7, 7, 0 => some .invalidateCaches
  | 7, 5, 0 => some .invalidateICache
  | 7, 5, 1 => some .invalidateILine
  | 7, 13, 1 => some .prefetchILine
  | 7, 6, 0 => some .invalidateDCache
  | 7, 6, 1 => some .invalidateDLine
  | 7, 10, 1 => some .cleanDLine
  | 7, 14, 1 => some .cleanInvalidateDLine
  | 7, 10, 2 => some .cleanDIndex
  | 7, 14, 2 => some .cleanInvalidateDIndex
  | 7, 10, 4 => some .drainWriteBuffer
  | 7, 0, 4 => some .waitForInterrupt
  | 8, 7, 0 => some .invalidateTlbs
  | 8, 5, 0 => some .invalidateITlb
  | 8, 5, 1 => some .invalidateIEntry
  | 8, 6, 0 => some .invalidateDTlb
  | 8, 6, 1 => some .invalidateDEntry
  | 9, 0, 0 => some .dcacheLock
  | 9, 0, 1 => some .icacheLock
  | 10, 0, 0 => some .dtlbLock
  | 10, 0, 1 => some .itlbLock
  | 13, 0, 0 => some .processId
  | 13, 0, 1 => some .contextId
  | 15, 12, 0 => some .pll
  | 15, 14, 1 => some .pmtdr
  | 15, 11, 0 => some .control2
  | 15, 8, 1 => some (.camHold .instr)
  | 15, 8, 4 => some (.protHold .instr)
  | 15, 8, 6 => some (.paHold .instr)
  | 15, 0, 3 => some (.writeEntry .instr)
  | 15, 10, 1 => some (.camHold .data)
  | 15, 10, 4 => some (.protHold .data)
  | 15, 10, 6 => some (.paHold .data)
  | 15, 0, 5 => some (.writeEntry .data)
  | _, _, _ => none

/-- The TLB lockdown register of a TLB (spec/11 R126). -/
def Tlb.lockWord (t : Tlb) : Word := t.base ++ t.victim ++ 0#19 ++ BitVec.ofBool t.preserve

/-- PMSR (spec/11 R143); without a power manager it never changes (D42). -/
def pmsrWord (s : State) : Word :=
  if s.pins.pmexists then 0x1000000#28 ++ 0#2 ++ BitVec.ofBool s.pm.w ++ BitVec.ofBool s.pm.r else 0x10000002#32

/-- `CP15Read` (spec/11 R84-R147): the value and the state after it. UNP bits are free values. Bits [23:20] of the device ID are 0,
as in the word that spec/00 R3 prints, and not the variant 1 that it lists: DESIGN CHOICE (log 7). -/
def cp15Read (r : Cp15Read) (s : State) : Word × State :=
  match r with
  | .deviceId => (0x4105A20#28 ++ Config.revision, s)
  | .cacheType => (0x0D1B21B2#32, s)
  | .control =>
    let high : BitVec 10 := s.freeVal.extractLsb' 22 10
    (high ++ s.cp15.ctl.extractLsb' 0 22, { s.useFree with cp15 := { s.cp15 with ctlHigh := high } })
  | .ttbr => (s.cp15.ttbr.extractLsb' 14 18 ++ s.freeVal.extractLsb' 0 14, s.useFree)
  | .dacr => (s.cp15.dacr, s)
  | .dfsr => (s.cp15.dfsr.zeroExtend 32, s)
  | .ifsr => (s.cp15.ifsr.zeroExtend 32, s)
  | .dfar => (s.cp15.dfar, s)
  | .ifar => (s.cp15.ifar, s)
  | .dcacheLock => (s.dcache.base ++ 0#26, s)
  | .icacheLock => (s.icache.base ++ 0#26, s)
  | .dtlbLock => (s.dtlb.lockWord, s)
  | .itlbLock => (s.itlb.lockWord, s)
  | .processId => (s.cp15.pid ++ 0#25, s)
  | .contextId => (s.cp15.contextId, s)
  | .pll => ((s.cp15.pll &&& 0x007FCFFF#32) ||| (s.pins.pconfigout.zeroExtend 32 <<< 23), s)
  | .pmsr => (pmsrWord s, s)
  | .pmrdr =>
    if s.pins.pmexists && s.pm.r then
      (BitVec.ofBool s.pm.rxEmul ++ 0#23 ++ s.pm.rxState ++ 0#4, { s with pm := { s.pm with r := false } })
    else (s.freeVal, s.useFree)
  | .control2 => (s.cp15.cr2.zeroExtend 32, s)

/-- The bits of a written value that should be zero are zero. -/
def sbz (v mask : Word) : Bool := (v &&& mask) == 0#32

/-- A CP15 write that needs a should-be-zero field. -/
def writeIf (ok : Bool) (s : State) : Res Unit := if ok then .ok () s else .refuse .cp15ShouldBe

/-- May control register 1 be written with this value (spec/11 R87, R102)? -/
def controlAllowed (s : State) (v : Word) : Bool :=
  (v.extractLsb' 22 10 == 0#10 || v.extractLsb' 22 10 == s.cp15.ctlHigh) && sbz v 0x001F0400#32
    && v.extractLsb' 4 3 == 0b111#3

/-- Is a request pending that ends STANDBY (spec/60 R890)? -/
def wakeRequest (s : State) : Bool :=
  !s.pins.nfiq || !s.pins.nirq || (s.pins.edbgrq && s.haltMode && s.debugEnabled)

/-- `WaitForInterrupt` (spec/60 R890, D41): the write buffer drains; a pending request ends STANDBY at once. -/
def waitForInterrupt (s : State) : State :=
  let s1 := drainAll s
  if wakeRequest s then s1 else { s1 with run := .standby }

/-- A write of PMTDR (spec/11 R145, spec/62 R951, R955). Without a power manager a write of any value is accepted and discarded, one
with nonzero should-be-zero bits too: DESIGN CHOICE (spec/62 R951 accepts a write and names no value, spec/93 refuses such bits and
names no PMEXISTS; log 42). -/
def pmTransmit (v : Word) (s : State) : Res Unit :=
  if !s.pins.pmexists then .ok () s
  else if sbz v 0x7FFFFF0F#32 then
    if s.pm.w then
      .ok () { s with pm := { s.pm with w := false, txReq := true, txEmul := v.getLsbD 31, txState := v.extractLsb' 4 4 } }
    else .refuse .pmtdrBusy
  else .refuse .cp15ShouldBe

/-- The holding registers are written to the TLB entry of Rd[31:26] (spec/11 R153). -/
def Tlb.writeHeld (t : Tlb) (v : Word) : Option Tlb :=
  let i : BitVec 6 := v.extractLsb' 26 6
  match t.heldEntry with
  | some e => some { t with entries := t.entries.set i.toNat e i.isLt }
  | none => none

/-- The TLB lockdown register of a TLB is written (spec/11 R126). -/
def Tlb.lock (t : Tlb) (v : Word) : Tlb :=
  { t with base := v.extractLsb' 26 6, victim := v.extractLsb' 20 6, preserve := v.getLsbD 0 }

/-- The index format of a DCache clean (spec/11 R112). -/
def indexAllowed (v : Word) : Bool := sbz v 0x03FFFE07#32

/-- `CP15Write` (spec/11 R87-R153; spec/22 R344, R345, R380, R381; spec/21 R257-R259). A clean by index is a blocking request and
drains the buffers first; a clean by VA is none and drains nothing: DESIGN CHOICE (spec/22 R344 calls "the operation" blocking, and
its quotation, R352 and spec/23 R399 name the index form only; log 52). -/
def cp15Write (w : Cp15Write) (v : Word) (s : State) : Res Unit :=
  match w with
  | .control => writeIf (controlAllowed s v) { s with cp15 := { s.cp15 with ctl := v &&& 0x003FFFFF#32 } }
  | .ttbr => writeIf (sbz v 0x00003FFF#32) { s with cp15 := { s.cp15 with ttbr := v } }
  | .dacr =>
    .ok () { s with cp15 := { s.cp15 with dacr := v }, itlb := s.itlb.invalidateUnlocked, dtlb := s.dtlb.invalidateUnlocked }
  | .dfsr => writeIf (sbz v 0xFFFFFF00#32) { s with cp15 := { s.cp15 with dfsr := v.extractLsb' 0 8 } }
  | .ifsr => writeIf (sbz v 0xFFFFFFF0#32) { s with cp15 := { s.cp15 with ifsr := v.extractLsb' 0 8 } }
  | .dfar => .ok () { s with cp15 := { s.cp15 with dfar := v } }
  | .ifar => .ok () { s with cp15 := { s.cp15 with ifar := v } }
  | .invalidateCaches =>
    writeIf (v == 0#32) { s with icache := s.icache.invalidateAll, dcache := s.dcache.invalidateAll }
  | .invalidateICache => writeIf (v == 0#32) { s with icache := s.icache.invalidateAll }
  | .invalidateILine => .ok () { s with icache := s.icache.invalidateOne (relocate s.cp15.pid v) }
  | .prefetchILine => prefetchLine v s
  | .invalidateDCache => writeIf (v == 0#32) { s with dcache := s.dcache.invalidateAll }
  | .invalidateDLine => .ok () { s with dcache := s.dcache.invalidateOne (relocate s.cp15.pid v) }
  | .cleanDLine => .ok () (cleanByVa v false s)
  | .cleanInvalidateDLine => .ok () (cleanByVa v true s)
  | .cleanDIndex => writeIf (indexAllowed v) (cleanLine (v.extractLsb' 5 4) (v.extractLsb' 26 6) (v.extractLsb' 3 2) false (drainAll s))
  | .cleanInvalidateDIndex =>
    writeIf (indexAllowed v) (cleanLine (v.extractLsb' 5 4) (v.extractLsb' 26 6) (v.extractLsb' 3 2) true (drainAll s))
  | .drainWriteBuffer => writeIf (v == 0#32) (drainAll s)
  | .waitForInterrupt => writeIf (v == 0#32) (waitForInterrupt s)
  | .invalidateTlbs => writeIf (v == 0#32) { s with itlb := s.itlb.invalidateAll, dtlb := s.dtlb.invalidateAll }
  | .invalidateITlb => writeIf (v == 0#32) { s with itlb := s.itlb.invalidateAll }
  | .invalidateIEntry => .ok () { s with itlb := s.itlb.invalidateOne (relocate s.cp15.pid v) }
  | .invalidateDTlb => writeIf (v == 0#32) { s with dtlb := s.dtlb.invalidateAll }
  | .invalidateDEntry => .ok () { s with dtlb := s.dtlb.invalidateOne (relocate s.cp15.pid v) }
  | .dcacheLock => writeIf (sbz v 0x03FFFFFF#32) { s with dcache := s.dcache.lockdown (v.extractLsb' 26 6) }
  | .icacheLock => writeIf (sbz v 0x03FFFFFF#32) { s with icache := s.icache.lockdown (v.extractLsb' 26 6) }
  | .dtlbLock => writeIf (sbz v 0x000FFFFE#32) { s with dtlb := s.dtlb.lock v }
  | .itlbLock => writeIf (sbz v 0x000FFFFE#32) { s with itlb := s.itlb.lock v }
  | .processId => writeIf (sbz v 0x01FFFFFF#32) { s with cp15 := { s.cp15 with pid := v.extractLsb' 25 7 } }
  | .contextId => .ok () { s with cp15 := { s.cp15 with contextId := v } }
  | .pll => writeIf (sbz v 0xFE003000#32) { s with cp15 := { s.cp15 with pll := v &&& 0x007FCFFF#32 } }
  | .pmtdr => pmTransmit v s
  | .control2 => writeIf (sbz v 0xFFFFFFE0#32) { s with cp15 := { s.cp15 with cr2 := v.extractLsb' 0 5 } }
  | .camHold side => writeIf (sbz v 0xF0000000#32) (s.setTlb side { s.tlb side with camHold := v })
  | .protHold side => writeIf (sbz v 0xFFFFE000#32) (s.setTlb side { s.tlb side with protHold := v })
  | .paHold side => writeIf (sbz v 0xFC000000#32) (s.setTlb side { s.tlb side with paHold := v })
  | .writeEntry side =>
    match (s.tlb side).writeHeld v with
    | some t => .ok () (s.setTlb side t)
    | none => .refuse .tlbFormat

/-- The registers whose access is Undefined (spec/11 R81). -/
def cp15Absent (crn : BitVec 4) : Bool := crn == 4#4 || crn == 11#4 || crn == 12#4 || crn == 14#4

end Sys2Proof.Machine
end

