-- ==== Sys2Proof/Machine/Coprocessor.lean ====
section
/-!
DEFINITION. CP14 (spec/12, spec/46 R722) and the coprocessor instructions (spec/46_coprocessor.md); external
coprocessors are an oracle over their history (spec/23 R404; notes/assumptions/8.md).
-/
namespace Sys2Proof.Machine

/-- The registers of CP14 that an MCR or MRC can name (spec/12 R161). -/
inductive Cp14Reg where
  | didr | dscr | dtr
  | ba (i : Fin 6)
  | bc (i : Fin 6)
  | wa (i : Fin 2)
  | wc (i : Fin 2)
  deriving DecidableEq, Repr

/-- The register of opcode_2 and CRm (spec/12 R160, R161); `none` is reserved, or c4. -/
def cp14RegOf (op2 : BitVec 3) (crm : BitVec 4) : Option Cp14Reg :=
  match op2.toNat, crm.toNat with
  | 0, 0 => some .didr
  | 0, 1 => some .dscr
  | 0, 5 => some .dtr
  | 4, m => if h : m < 6 then some (.ba ⟨m, h⟩) else none
  | 5, m => if h : m < 6 then some (.bc ⟨m, h⟩) else none
  | 6, m => if h : m < 2 then some (.wa ⟨m, h⟩) else none
  | 7, m => if h : m < 2 then some (.wc ⟨m, h⟩) else none
  | _, _ => none

/-- User mode may name c0, c1 and c5 (spec/12 R161). -/
def Cp14Reg.user : Cp14Reg → Bool
  | .didr => true | .dscr => true | .dtr => true
  | .ba _ => false | .bc _ => false | .wa _ => false | .wc _ => false

/-- The debug ID register (spec/12 R162). -/
def didrWord : Word := 0x41006201#32

/-- The register an MCR or MRC to CP14 names, if it may (spec/46 R722). -/
def cp14Named (f : CpReg) (s : State) : Option Cp14Reg :=
  if f.op1 == 0#3 && f.crn == 0#4 then (cp14RegOf f.op2 f.crm).filter (fun r => s.priv || r.user) else none

/-- The core has read the rDTR: RF := 0 (spec/12 R175). -/
def readDtr (s : State) : State := { s with dbg := { s.dbg with dscr := s.dbg.dscr &&& 0xFFFFFF7F#32 } }

/-- The core writes the wDTR: WE := 0 (spec/12 R175). -/
def writeDtr (v : Word) (s : State) : State :=
  { s with dbg := { s.dbg with wdtr := v, dscr := s.dbg.dscr &&& 0xFFFFFFBF#32 } }

/-- `CP14Read` (spec/12 R166, R175): reserved bits of the DSCR are free values. The should-be-zero bits of a breakpoint or
watchpoint control register read as zero, which spec/12 R181 and R184 do not say: DESIGN CHOICE (log 14). -/
def cp14Read (r : Cp14Reg) (s : State) : Word × State :=
  match r with
  | .didr => (didrWord, s)
  | .dscr => (maskedWrite s.freeVal s.dbg.dscr 0xF0DF00DC#32, s.useFree)
  | .dtr => (s.dbg.rdtr, readDtr s)
  | .ba i => (s.dbg.ba[i], s)
  | .bc i => (s.dbg.bc[i].zeroExtend 32, s)
  | .wa i => (s.dbg.wa[i], s)
  | .wc i => (s.dbg.wc[i].zeroExtend 32, s)

/-- An MCR to the DSCR writes GE, and clears the sticky abort bit with a 0 (spec/12 R166, R169). -/
def dscrWrite (old v : Word) : Word :=
  (old &&& (if v.getLsbD 5 then 0x7FFFFFFF#32 else 0x7FFFFFDF#32)) ||| (v &&& 0x80000000#32)

/-- A breakpoint control value the spec lists (spec/12 R181). -/
def bcAllowed (v : Word) : Bool := sbz v 0xFFFFFFE0#32 && !sbz v 0x18#32 && !sbz v 0x06#32

/-- A watchpoint control value the spec lists (spec/12 R184). -/
def wcAllowed (v : Word) : Bool :=
  sbz v 0xFFFFF900#32 && !sbz v 0xE0#32 && !sbz v 0x18#32 && !sbz v 0x06#32

/-- Software is locked out of the breakpoint and watchpoint registers in halt mode (spec/12 R185). -/
def lockedOut (s : State) : Bool := s.haltMode && !s.halted

/-- `CP14Write` (spec/12 R166, R175, R180-R185): an MCR to the read-only DIDR is Undefined. -/
def cp14Write (r : Cp14Reg) (v : Word) (s : State) : Outcome State :=
  match r with
  | .didr => undefinedInstr s
  | .dscr => advance { s with dbg := { s.dbg with dscr := dscrWrite s.dbg.dscr v } }
  | .dtr => advance (writeDtr v s)
  | .ba i => if lockedOut s then advance s else advance { s with dbg := { s.dbg with ba := s.dbg.ba.set i v } }
  | .wa i => if lockedOut s then advance s else advance { s with dbg := { s.dbg with wa := s.dbg.wa.set i v } }
  | .bc i =>
    if lockedOut s then advance s
    else require (bcAllowed v) .cp14ShouldBe <|
      advance { s with dbg := { s.dbg with bc := s.dbg.bc.set i (v.extractLsb' 0 5) } }
  | .wc i =>
    if lockedOut s then advance s
    else require (wcAllowed v) .cp14ShouldBe <|
      advance { s with dbg := { s.dbg with wc := s.dbg.wc.set i (v.extractLsb' 0 11) } }

/-- What MCR sends: for r15 a free value (spec/46 R705). -/
def mcrValue (rd : Reg) (s : State) : Word × State :=
  if rd = regPc then (s.freeVal, s.useFree) else (s.reg rd, s)

/-- What MRC writes: Rd, or the flags for r15 (spec/46 R706, R707). -/
def mrcResult (rd : Reg) (v : Word) (s : State) : Outcome State :=
  if rd = regPc then advance (s.setNZCV (v.getLsbD 31) (v.getLsbD 30) (v.getLsbD 29) (v.getLsbD 28))
  else advance (s.setReg rd v)

/-- An MCR to CP15 (spec/46 R721). -/
def mcr15 (f : CpReg) (s : State) : Outcome State :=
  if !s.priv || cp15Absent f.crn then undefinedInstr s
  else
    match if f.op1 = 0#3 then cp15WriteOf f.crn f.crm f.op2 else none with
    | none => .refused .cp15Unlisted
    | some w => (cp15Write w (mcrValue f.rd s).1 (mcrValue f.rd s).2).finish fun _ s1 => advance s1

/-- An MRC from CP15 (spec/46 R721). -/
def mrc15 (f : CpReg) (s : State) : Outcome State :=
  if !s.priv || cp15Absent f.crn then undefinedInstr s
  else
    match if f.op1 = 0#3 then cp15ReadOf f.crn f.crm f.op2 else none with
    | none => .refused .cp15Unlisted
    | some r => mrcResult f.rd (cp15Read r s).1 (cp15Read r s).2

/-- An MCR to CP14 (spec/46 R722). -/
def mcr14 (f : CpReg) (s : State) : Outcome State :=
  match cp14Named f s with
  | none => undefinedInstr s
  | some r => cp14Write r (mcrValue f.rd s).1 (mcrValue f.rd s).2

/-- An MRC from CP14 (spec/46 R722). -/
def mrc14 (f : CpReg) (s : State) : Outcome State :=
  match cp14Named f s with
  | none => undefinedInstr s
  | some r => mrcResult f.rd (cp14Read r s).1 (cp14Read r s).2

/-- How LDC and STC make their accesses: with the privilege of the mode, every external abort reported; `pairs` is CPLSDBL
(spec/46 R704, spec/23 R408). -/
def cpMultiple (pairs : Bool) (s : State) : Multiple := ⟨s.priv, s.priv, true, pairs⟩

/-- LDC to CP14: one word to the wDTR (spec/46 R722). -/
def ldc14 (f : CpMem) (s : State) : Outcome State :=
  if f.crd = 5#4 then
    require (cpMemAllowed f) .operandRestriction <|
    (memReadMany (cpMultiple false s) 1 (cpStart f s) s).finish fun vs s1 =>
      advance (cpWriteBase f (cpBase f s) (writeDtr (vs.getD 0 0#32) s1))
  else undefinedInstr s

/-- STC from CP14: the rDTR to one word (spec/46 R722). -/
def stc14 (f : CpMem) (s : State) : Outcome State :=
  if f.crd = 5#4 then
    require (cpMemAllowed f) .operandRestriction <|
    (memWriteMany (cpMultiple false s) [s.dbg.rdtr] (cpStart f s) s).finish fun _ s1 =>
      advance (cpWriteBase f (cpBase f s) (readDtr s1))
  else undefinedInstr s

/-- Bits [27:0] of an instruction's word (spec/23 R404). -/
def codeBits (i : Instr) : BitVec 28 :=
  match encode i with
  | .arm w => w.extractLsb' 0 28
  | .thumb _ => 0#28

/-- A coprocessor is told these words; the newest is first in its history. -/
def cpTell (l : List Word) (s : State) : State := { s with cpHistory := l.reverse ++ s.cpHistory }

/-- What a coprocessor's history records of an offered instruction: its bits, and its number with CPSUPER, the
cond = 1111 flag, CPBIGEND and whether it was accepted (spec/23 R405). -/
def cpOffer (n : BitVec 4) (bits : BitVec 28) (uncond priv big accepted : Bool) : List Word :=
  [bits.zeroExtend 32,
   (n ++ BitVec.ofBool big ++ BitVec.ofBool uncond ++ BitVec.ofBool priv ++ BitVec.ofBool accepted).zeroExtend 32]

/-- Is coprocessor n attached (spec/46 R702)? -/
def cpPresent (n : BitVec 4) (s : State) : Bool := s.pins.cpPresent.getLsbD n.toNat

/-- An instruction of an external coprocessor (spec/46 R700, R702; spec/23 R404, R410): absent or unwilling, Undefined;
busy, the processor waits with nothing changed; accepted, `k` runs after the coprocessor has been told. -/
def external (n : BitVec 4) (i : Instr) (uncond : Bool) (s : State) (k : State → Outcome State) : Outcome State :=
  if cpPresent n s then
    if s.pins.cpbusye then .next s
    else
      let accepted := Config.cpAccepts n (codeBits i) uncond s.priv s.big s.cpHistory
      let s1 := cpTell (cpOffer n (codeBits i) uncond s.priv s.big accepted) s
      if accepted then k s1 else undefinedInstr s1
  else undefinedInstr s

/-- The free words a coprocessor receives for the words an aborted LDC did not read (spec/23 R418; log 41). -/
def freeWords (n : Nat) (s : State) : List Word := (List.range n).map fun k => Config.free (s.freeCount + k)

/-- Several free values are used up. -/
def useMany (n : Nat) (s : State) : State := { s with freeCount := s.freeCount + n }

/-- The words of each doubleword-aligned pair of a run from an address are exchanged. -/
def swapPairs : List Word → Word → List Word
  | [], _ => []
  | [v], _ => [v]
  | v :: w :: rest, va =>
    if va.getLsbD 2 then v :: swapPairs (w :: rest) (va + 4#32) else w :: v :: swapPairs rest (va + 8#32)

/-- The order of the words of an LDC or STC on the coprocessor's bus: CPLSSWP exchanges the words of a 64-bit transfer
(spec/23 R408); with CPLSDBL LOW, and on a word that is no half of an aligned pair, it has no effect: DESIGN CHOICE (log 8). -/
def cpOrder (cp : BitVec 4) (bits : BitVec 28) (hist : List Word) (va : Word) (l : List Word) : List Word :=
  if Config.cpDouble cp bits hist && Config.cpSwaps cp bits hist then swapPairs l va else l

/-- The coprocessor's length of an LDC or STC (spec/23 R408). -/
def cpWords (f : CpMem) (bits : BitVec 28) (s : State) : Nat := (Config.cpLength f.cp bits s.cpHistory).val + 1

/-- How an external coprocessor's LDC or STC makes its accesses. -/
def externalMultiple (f : CpMem) (bits : BitVec 28) (s : State) : Multiple :=
  cpMultiple (Config.cpDouble f.cp bits s.cpHistory) s

/-- LDC to an external coprocessor (spec/46 R704); an aborted one gives it the words read and free words for the rest
(spec/23 R418). -/
def ldcExternal (f : CpMem) (bits : BitVec 28) (s : State) : Outcome State :=
  require (cpMemAllowed f) .operandRestriction <|
  let order := cpOrder f.cp bits s.cpHistory (cpStart f s)
  match readRun (externalMultiple f bits s) (cpWords f bits s) true (cpStart f s) s with
  | (ws, .ok _ s1) => advance (cpWriteBase f (cpBase f s) (cpTell (order ws) s1))
  | (ws, .abort i s1) =>
    let lost := cpWords f bits s - ws.length
    dataAbort i (cpTell (order ws ++ freeWords lost s1) (useMany lost s1))
  | (_, .refuse r) => .refused r

/-- The first `n` words a coprocessor supplies for an instruction. -/
def supplied (cp : BitVec 4) (bits : BitVec 28) (s : State) (n : Nat) : List Word :=
  (List.range n).map (Config.cpSupplies cp bits s.cpHistory)

/-- STC from an external coprocessor (spec/46 R708). -/
def stcExternal (f : CpMem) (bits : BitVec 28) (s : State) : Outcome State :=
  require (cpMemAllowed f) .operandRestriction <|
  let words := cpOrder f.cp bits s.cpHistory (cpStart f s) (supplied f.cp bits s (cpWords f bits s))
  (memWriteMany (externalMultiple f bits s) words (cpStart f s) s).finish fun _ s1 =>
    advance (cpWriteBase f (cpBase f s) s1)

/-- MCR to an external coprocessor (spec/46 R705). -/
def mcrExternal (f : CpReg) (s : State) : Outcome State :=
  advance (cpTell [(mcrValue f.rd s).1] (mcrValue f.rd s).2)

/-- MRC from an external coprocessor (spec/46 R706). -/
def mrcExternal (f : CpReg) (bits : BitVec 28) (s : State) : Outcome State :=
  mrcResult f.rd (Config.cpSupplies f.cp bits s.cpHistory 0) s

/-- CP14 and CP15, which have no cond = 1111 forms, no CDP, MCRR or MRRC (spec/46 R711, R721, R722). -/
def internalCp (n : BitVec 4) : Bool := n == 14#4 || n == 15#4

/-- The external coprocessor an instruction belongs to (spec/46 R700). -/
def externalCp (i : Instr) : Option (BitVec 4) :=
  let number : Option (BitVec 4) := match i with
    | .cdp _ f => some f.cp
    | .cdp2 f => some f.cp
    | .ldc _ f => some f.cp
    | .ldc2 f => some f.cp
    | .stc _ f => some f.cp
    | .stc2 f => some f.cp
    | .mcr _ f => some f.cp
    | .mcr2 f => some f.cp
    | .mrc _ f => some f.cp
    | .mrc2 f => some f.cp
    | .mcrr _ _ _ cp _ _ => some cp
    | .mrrc _ _ _ cp _ _ => some cp
    | _ => none
  number.filter fun n => !internalCp n

/-- Does a coprocessor hold this instruction with CPBUSYE, whether its condition passes or not (spec/23 R410, R412)? -/
def busyWaits (i : Instr) (s : State) : Bool :=
  match externalCp i with
  | some n => cpPresent n s && s.pins.cpbusye
  | none => false

/-- CDP (spec/46 R703). -/
def execCdp (c : Cond) (f : CpOp) (s : State) : Outcome State :=
  whenCond c s <|
    if internalCp f.cp then undefinedInstr s else external f.cp (.cdp c f) false s advance

/-- LDC (spec/46 R704). -/
def execLdc (c : Cond) (f : CpMem) (s : State) : Outcome State :=
  whenCond c s <|
    if f.cp = 15#4 then undefinedInstr s
    else if f.cp = 14#4 then ldc14 f s
    else external f.cp (.ldc c f) false s (ldcExternal f (codeBits (.ldc c f)))

/-- STC (spec/46 R708). -/
def execStc (c : Cond) (f : CpMem) (s : State) : Outcome State :=
  whenCond c s <|
    if f.cp = 15#4 then undefinedInstr s
    else if f.cp = 14#4 then stc14 f s
    else external f.cp (.stc c f) false s (stcExternal f (codeBits (.stc c f)))

/-- MCR (spec/46 R705). -/
def execMcr (c : Cond) (f : CpReg) (s : State) : Outcome State :=
  whenCond c s <|
    if f.cp = 15#4 then mcr15 f s
    else if f.cp = 14#4 then mcr14 f s
    else external f.cp (.mcr c f) false s (mcrExternal f)

/-- MRC (spec/46 R706). -/
def execMrc (c : Cond) (f : CpReg) (s : State) : Outcome State :=
  whenCond c s <|
    if f.cp = 15#4 then mrc15 f s
    else if f.cp = 14#4 then mrc14 f s
    else external f.cp (.mrc c f) false s (mrcExternal f (codeBits (.mrc c f)))

/-- MCRR (spec/46 R709). -/
def execMcrr (c : Cond) (rn rd : Reg) (cp opc crm : BitVec 4) (s : State) : Outcome State :=
  whenCond c s <|
    if internalCp cp then undefinedInstr s
    else external cp (.mcrr c rn rd cp opc crm) false s fun s1 =>
      require (rn != regPc && rd != regPc) .operandRestriction <|
      advance (cpTell [s1.reg rd, s1.reg rn] s1)

/-- MRRC (spec/46 R710). -/
def execMrrc (c : Cond) (rn rd : Reg) (cp opc crm : BitVec 4) (s : State) : Outcome State :=
  whenCond c s <|
    if internalCp cp then undefinedInstr s
    else external cp (.mrrc c rn rd cp opc crm) false s fun s1 =>
      require (rn != regPc && rd != regPc && rn != rd) .operandRestriction <|
      let bits := codeBits (.mrrc c rn rd cp opc crm)
      advance ((s1.setReg rd (Config.cpSupplies cp bits s1.cpHistory 0)).setReg rn
        (Config.cpSupplies cp bits s1.cpHistory 1))

/-- CDP2 (spec/46 R711). -/
def execCdp2 (f : CpOp) (s : State) : Outcome State :=
  if internalCp f.cp then undefinedInstr s else external f.cp (.cdp2 f) true s advance

/-- LDC2 (spec/46 R711). -/
def execLdc2 (f : CpMem) (s : State) : Outcome State :=
  if internalCp f.cp then undefinedInstr s
  else external f.cp (.ldc2 f) true s (ldcExternal f (codeBits (.ldc2 f)))

/-- STC2 (spec/46 R711). -/
def execStc2 (f : CpMem) (s : State) : Outcome State :=
  if internalCp f.cp then undefinedInstr s
  else external f.cp (.stc2 f) true s (stcExternal f (codeBits (.stc2 f)))

/-- MCR2 (spec/46 R711). -/
def execMcr2 (f : CpReg) (s : State) : Outcome State :=
  if internalCp f.cp then undefinedInstr s else external f.cp (.mcr2 f) true s (mcrExternal f)

/-- MRC2 (spec/46 R711). -/
def execMrc2 (f : CpReg) (s : State) : Outcome State :=
  if internalCp f.cp then undefinedInstr s
  else external f.cp (.mrc2 f) true s (mrcExternal f (codeBits (.mrc2 f)))

end Sys2Proof.Machine
end

