-- ==== Sys2Proof/Machine/DataProcessing.lean ====
section
/-!
DEFINITION. ARM data processing, CLZ and saturating arithmetic (spec/40_data_processing.md).
-/
namespace Sys2Proof.Machine

/-- An operation of the ALU: first operand, shifter operand with its carry-out, C and V before; what it gives. -/
abbrev AluFn := Word → Shifted → Bool → Bool → Alu

/-- A logical operation: C is the shifter's carry-out and V is unchanged (spec/40 R500). -/
def logicalAlu (f : Word → Word → Word) : AluFn := fun n m _ v => ⟨f n m.value, m.carry, v⟩

/-- `result` and the flags of a data-processing instruction (spec/40 R500). -/
def aluResult (f : AluFn) (n : Word) (op : Op2) (s : State) : Alu := f n (shifterOperand op s) s.flagC s.flagV

/-- The result is written to Rd, or to the pc (spec/40 R500). -/
def writeResult (setFlags : Bool) (rd : Reg) (a : Alu) (s : State) : Outcome State :=
  if rd = regPc then (if setFlags then exceptionReturn a.result s else aluWritePc a.result s)
  else advance ((if setFlags then s.setAlu a else s).setReg rd a.result)

/-- The template of the ten operations with Rn and Rd (spec/40 R500). -/
def dataOp (c : Cond) (setFlags : Bool) (rn rd : Reg) (op : Op2) (f : AluFn) (s : State) : Outcome State :=
  whenCond c s <|
    require (op2Allowed op rn rd) .operandRestriction <|
    writeResult setFlags rd (aluResult f (s.reg rn) op s) s

/-- The template of MOV and MVN, whose Rn field should be zero. -/
def moveOp (c : Cond) (setFlags : Bool) (sbz : BitVec 4) (rd : Reg) (op : Op2) (f : Word → Word) (s : State) :
    Outcome State :=
  whenCond c s <|
    require (sbz == 0#4) .shouldBeField <|
    require (op2Allowed op 0#4 rd) .operandRestriction <|
    writeResult setFlags rd (aluResult (logicalAlu fun _ m => f m) 0#32 op s) s

/-- The template of the comparisons, whose Rd field should be zero: the flags only (spec/40 R500). -/
def compareOp (c : Cond) (rn : Reg) (sbz : BitVec 4) (op : Op2) (f : AluFn) (s : State) : Outcome State :=
  whenCond c s <|
    require (sbz == 0#4) .shouldBeField <|
    require (op2Allowed op rn 0#4) .operandRestriction <|
    advance (s.setAlu (aluResult f (s.reg rn) op s))

/-- AND (spec/40 R502). -/
def execAnd (c : Cond) (sf : Bool) (rn rd : Reg) (op : Op2) (s : State) : Outcome State :=
  dataOp c sf rn rd op (logicalAlu fun n m => n &&& m) s

/-- EOR (spec/40 R503). -/
def execEor (c : Cond) (sf : Bool) (rn rd : Reg) (op : Op2) (s : State) : Outcome State :=
  dataOp c sf rn rd op (logicalAlu fun n m => n ^^^ m) s

/-- SUB (spec/40 R504). -/
def execSub (c : Cond) (sf : Bool) (rn rd : Reg) (op : Op2) (s : State) : Outcome State :=
  dataOp c sf rn rd op (fun n m _ _ => subAlu n m.value false) s

/-- RSB (spec/40 R505). -/
def execRsb (c : Cond) (sf : Bool) (rn rd : Reg) (op : Op2) (s : State) : Outcome State :=
  dataOp c sf rn rd op (fun n m _ _ => subAlu m.value n false) s

/-- ADD (spec/40 R506). -/
def execAdd (c : Cond) (sf : Bool) (rn rd : Reg) (op : Op2) (s : State) : Outcome State :=
  dataOp c sf rn rd op (fun n m _ _ => addAlu n m.value false) s

/-- ADC (spec/40 R507). -/
def execAdc (c : Cond) (sf : Bool) (rn rd : Reg) (op : Op2) (s : State) : Outcome State :=
  dataOp c sf rn rd op (fun n m cy _ => addAlu n m.value cy) s

/-- SBC (spec/40 R508). -/
def execSbc (c : Cond) (sf : Bool) (rn rd : Reg) (op : Op2) (s : State) : Outcome State :=
  dataOp c sf rn rd op (fun n m cy _ => subAlu n m.value (!cy)) s

/-- RSC (spec/40 R509). -/
def execRsc (c : Cond) (sf : Bool) (rn rd : Reg) (op : Op2) (s : State) : Outcome State :=
  dataOp c sf rn rd op (fun n m cy _ => subAlu m.value n (!cy)) s

/-- TST (spec/40 R510). -/
def execTst (c : Cond) (rn : Reg) (sbz : BitVec 4) (op : Op2) (s : State) : Outcome State :=
  compareOp c rn sbz op (logicalAlu fun n m => n &&& m) s

/-- TEQ (spec/40 R511). -/
def execTeq (c : Cond) (rn : Reg) (sbz : BitVec 4) (op : Op2) (s : State) : Outcome State :=
  compareOp c rn sbz op (logicalAlu fun n m => n ^^^ m) s

/-- CMP (spec/40 R512). -/
def execCmp (c : Cond) (rn : Reg) (sbz : BitVec 4) (op : Op2) (s : State) : Outcome State :=
  compareOp c rn sbz op (fun n m _ _ => subAlu n m.value false) s

/-- CMN (spec/40 R513). -/
def execCmn (c : Cond) (rn : Reg) (sbz : BitVec 4) (op : Op2) (s : State) : Outcome State :=
  compareOp c rn sbz op (fun n m _ _ => addAlu n m.value false) s

/-- ORR (spec/40 R514). -/
def execOrr (c : Cond) (sf : Bool) (rn rd : Reg) (op : Op2) (s : State) : Outcome State :=
  dataOp c sf rn rd op (logicalAlu fun n m => n ||| m) s

/-- MOV (spec/40 R515). -/
def execMov (c : Cond) (sf : Bool) (sbz : BitVec 4) (rd : Reg) (op : Op2) (s : State) : Outcome State :=
  moveOp c sf sbz rd op (fun m => m) s

/-- BIC (spec/40 R516). -/
def execBic (c : Cond) (sf : Bool) (rn rd : Reg) (op : Op2) (s : State) : Outcome State :=
  dataOp c sf rn rd op (logicalAlu fun n m => n &&& ~~~m) s

/-- MVN (spec/40 R517). -/
def execMvn (c : Cond) (sf : Bool) (sbz : BitVec 4) (rd : Reg) (op : Op2) (s : State) : Outcome State :=
  moveOp c sf sbz rd op (fun m => ~~~m) s

/-- The number of leading zeros of the low `n` bits. -/
def leadingZeros (v : Word) : Nat → Nat
  | 0 => 0
  | n + 1 => if v.getLsbD n then 0 else leadingZeros v n + 1

/-- CLZ (spec/40 R520). -/
def execClz (c : Cond) (sbo1 : BitVec 4) (rd : Reg) (sbo2 : BitVec 4) (rm : Reg) (s : State) : Outcome State :=
  whenCond c s <|
    require (sbo1 == 15#4 && sbo2 == 15#4) .shouldBeField <|
    require (rd != regPc && rm != regPc) .operandRestriction <|
    advance (s.setReg rd (BitVec.ofNat 32 (leadingZeros (s.reg rm) 32)))

/-- The template of the saturating operations: Rd and Q only (spec/40 R530-R533). -/
def saturatingOp (c : Cond) (rn rd : Reg) (sbz : BitVec 4) (rm : Reg) (f : Int → Int → Saturated) (s : State) :
    Outcome State :=
  whenCond c s <|
    require (sbz == 0#4) .shouldBeField <|
    require (rn != regPc && rd != regPc && rm != regPc) .operandRestriction <|
    let r := f (s.reg rm).toInt (s.reg rn).toInt
    advance ((s.setQ r.sat).setReg rd r.value)

/-- The doubled, saturated operand of QDADD and QDSUB, with the second operation (spec/40 R532, R533). -/
def doubledThen (f : Int → Int → Int) (m n : Int) : Saturated :=
  let r := saturate (f m (sat32 (2 * n)))
  ⟨r.value, r.sat || outside32 (2 * n)⟩

/-- QADD (spec/40 R530). -/
def execQadd (c : Cond) (rn rd : Reg) (sbz : BitVec 4) (rm : Reg) (s : State) : Outcome State :=
  saturatingOp c rn rd sbz rm (fun m n => saturate (m + n)) s

/-- QSUB (spec/40 R531). -/
def execQsub (c : Cond) (rn rd : Reg) (sbz : BitVec 4) (rm : Reg) (s : State) : Outcome State :=
  saturatingOp c rn rd sbz rm (fun m n => saturate (m - n)) s

/-- QDADD (spec/40 R532). -/
def execQdadd (c : Cond) (rn rd : Reg) (sbz : BitVec 4) (rm : Reg) (s : State) : Outcome State :=
  saturatingOp c rn rd sbz rm (doubledThen fun m d => m + d) s

/-- QDSUB (spec/40 R533). -/
def execQdsub (c : Cond) (rn rd : Reg) (sbz : BitVec 4) (rm : Reg) (s : State) : Outcome State :=
  saturatingOp c rn rd sbz rm (doubledThen fun m d => m - d) s

end Sys2Proof.Machine
end

