-- ==== Sys2Proof/Machine/Multiply.lean ====
section
/-!
DEFINITION. ARM multiplies (spec/41_multiply.md).
-/
namespace Sys2Proof.Machine

/-- r15 is no operand of a multiply (spec/41 R570). -/
def noPc (l : List Reg) : Bool := l.all (fun r => r != regPc)

/-- A signed halfword of a register: bottom, or top (spec/41 R550). -/
def halfOf (v : Word) (top : Bool) : Int :=
  if top then (v.extractLsb' 16 16).toInt else (v.extractLsb' 0 16).toInt

/-- A 32-bit product goes to Rd, with N and Z if S (spec/41 R551). -/
def writeProduct (sf : Bool) (rd : Reg) (p : Word) (s : State) : Outcome State :=
  advance ((if sf then s.setNZ p else s).setReg rd p)

/-- A 64-bit product goes to RdHi:RdLo, with N and Z if S (spec/41 R551). -/
def writeLong (sf : Bool) (rdHi rdLo : Reg) (p : BitVec 64) (s : State) : Outcome State :=
  advance (((if sf then s.setNZ64 p else s).setReg rdLo (p.extractLsb' 0 32)).setReg rdHi (p.extractLsb' 32 32))

/-- MUL (spec/41 R552). -/
def execMul (c : Cond) (sf : Bool) (rd : Reg) (sbz : BitVec 4) (rs rm : Reg) (s : State) : Outcome State :=
  whenCond c s <|
    require (sbz == 0#4) .shouldBeField <|
    require (noPc [rd, rs, rm] && rd != rm) .operandRestriction <|
    writeProduct sf rd (s.reg rm * s.reg rs) s

/-- MLA (spec/41 R553). -/
def execMla (c : Cond) (sf : Bool) (rd rn rs rm : Reg) (s : State) : Outcome State :=
  whenCond c s <|
    require (noPc [rd, rn, rs, rm] && rd != rm) .operandRestriction <|
    writeProduct sf rd (s.reg rm * s.reg rs + s.reg rn) s

/-- The template of the four long multiplies (spec/41 R554-R557, R570). -/
def longOp (c : Cond) (sf : Bool) (rdHi rdLo rs rm : Reg) (f : Word → Word → BitVec 64) (s : State) : Outcome State :=
  whenCond c s <|
    require (noPc [rdHi, rdLo, rs, rm] && rdHi != rdLo && rdHi != rm && rdLo != rm) .operandRestriction <|
    writeLong sf rdHi rdLo (f (s.reg rm) (s.reg rs)) s

/-- The accumulator RdHi:RdLo. -/
def accumulator (rdHi rdLo : Reg) (s : State) : BitVec 64 := s.reg rdHi ++ s.reg rdLo

/-- The unsigned 64-bit product. -/
def unsignedProduct (a b : Word) : BitVec 64 := BitVec.ofNat 64 (a.toNat * b.toNat)

/-- The signed 64-bit product. -/
def signedProduct (a b : Word) : BitVec 64 := BitVec.ofInt 64 (a.toInt * b.toInt)

/-- UMULL (spec/41 R554). -/
def execUmull (c : Cond) (sf : Bool) (rdHi rdLo rs rm : Reg) (s : State) : Outcome State :=
  longOp c sf rdHi rdLo rs rm unsignedProduct s

/-- UMLAL (spec/41 R555). -/
def execUmlal (c : Cond) (sf : Bool) (rdHi rdLo rs rm : Reg) (s : State) : Outcome State :=
  longOp c sf rdHi rdLo rs rm (fun a b => unsignedProduct a b + accumulator rdHi rdLo s) s

/-- SMULL (spec/41 R556). -/
def execSmull (c : Cond) (sf : Bool) (rdHi rdLo rs rm : Reg) (s : State) : Outcome State :=
  longOp c sf rdHi rdLo rs rm signedProduct s

/-- SMLAL (spec/41 R557). -/
def execSmlal (c : Cond) (sf : Bool) (rdHi rdLo rs rm : Reg) (s : State) : Outcome State :=
  longOp c sf rdHi rdLo rs rm (fun a b => signedProduct a b + accumulator rdHi rdLo s) s

/-- SMUL<x><y> (spec/41 R560). -/
def execSmulxy (c : Cond) (rd : Reg) (sbz : BitVec 4) (rs : Reg) (y x : Bool) (rm : Reg) (s : State) : Outcome State :=
  whenCond c s <|
    require (sbz == 0#4) .shouldBeField <|
    require (noPc [rd, rs, rm]) .operandRestriction <|
    advance (s.setReg rd (BitVec.ofInt 32 (halfOf (s.reg rm) x * halfOf (s.reg rs) y)))

/-- A wrapped 32-bit sum with Q set on signed overflow (spec/41 R561, R565). -/
def accumulateQ (rd : Reg) (product : Int) (rn : Reg) (s : State) : Outcome State :=
  let sum := product + (s.reg rn).toInt
  advance ((s.setQ (outside32 sum)).setReg rd (BitVec.ofInt 32 sum))

/-- SMLA<x><y> (spec/41 R561). -/
def execSmlaxy (c : Cond) (rd rn rs : Reg) (y x : Bool) (rm : Reg) (s : State) : Outcome State :=
  whenCond c s <|
    require (noPc [rd, rn, rs, rm]) .operandRestriction <|
    accumulateQ rd (halfOf (s.reg rm) x * halfOf (s.reg rs) y) rn s

/-- SMLAL<x><y> (spec/41 R562). -/
def execSmlalxy (c : Cond) (rdHi rdLo rs : Reg) (y x : Bool) (rm : Reg) (s : State) : Outcome State :=
  whenCond c s <|
    require (noPc [rdHi, rdLo, rs, rm] && rdHi != rdLo) .operandRestriction <|
    writeLong false rdHi rdLo
      (BitVec.ofInt 64 (halfOf (s.reg rm) x * halfOf (s.reg rs) y) + accumulator rdHi rdLo s) s

/-- Bits [47:16] of a 48-bit signed product (spec/41 R564, R565). -/
def wideProduct (m : Word) (h : Int) : Int := (m.toInt * h) / 65536

/-- SMULW<y> (spec/41 R564). -/
def execSmulwy (c : Cond) (rd : Reg) (sbz : BitVec 4) (rs : Reg) (y : Bool) (rm : Reg) (s : State) : Outcome State :=
  whenCond c s <|
    require (sbz == 0#4) .shouldBeField <|
    require (noPc [rd, rs, rm]) .operandRestriction <|
    advance (s.setReg rd (BitVec.ofInt 32 (wideProduct (s.reg rm) (halfOf (s.reg rs) y))))

/-- SMLAW<y> (spec/41 R565). -/
def execSmlawy (c : Cond) (rd rn rs : Reg) (y : Bool) (rm : Reg) (s : State) : Outcome State :=
  whenCond c s <|
    require (noPc [rd, rn, rs, rm]) .operandRestriction <|
    accumulateQ rd (wideProduct (s.reg rm) (halfOf (s.reg rs) y)) rn s

end Sys2Proof.Machine
end

