-- ==== Sys2Proof/Machine/StatusSystem.lean ====
section
/-!
DEFINITION. MRS, MSR, SWI, BKPT and the UNDEFINED rows of the ARM table (spec/45_status_and_system.md, spec/30 R434, R439).
-/
namespace Sys2Proof.Machine

/-- MRS (spec/45 R670). The reserved bits read as zero (spec/10 R46), and T as it is, 1 for an instruction from the ITR with T = 1:
DESIGN CHOICE (log 24). -/
def execMrs (c : Cond) (r : Bool) (sbo : BitVec 4) (rd : Reg) (z1 z2 : BitVec 4) (s : State) : Outcome State :=
  whenCond c s <|
    require (sbo == 15#4 && z1 == 0#4 && z2 == 0#4) .shouldBeField <|
    require (rd != regPc) .operandRestriction <|
    if r then
      if s.hasSpsr then advance (s.setReg rd (s.readSpsr &&& 0xF80000FF#32))
      else advance (s.useFree.setReg rd s.freeVal)
    else advance (s.setReg rd (s.cpsr &&& 0xF80000FF#32))

/-- MSR, register form (spec/45 R672). -/
def execMsrReg (c : Cond) (r : Bool) (mask sbo sbz : BitVec 4) (rm : Reg) (s : State) : Outcome State :=
  whenCond c s <|
    require (sbo == 15#4 && sbz == 0#4) .shouldBeField <|
    require (rm != regPc) .operandRestriction <|
    msrWrite r mask (s.reg rm) s

/-- MSR, immediate form (spec/45 R671). -/
def execMsrImm (c : Cond) (r : Bool) (mask sbo rot : BitVec 4) (imm8 : BitVec 8) (s : State) : Outcome State :=
  whenCond c s <|
    require (sbo == 15#4) .shouldBeField <|
    msrWrite r mask (rotatedImm rot imm8 false).value s

/-- SWI (spec/45 R675). -/
def execSwi (c : Cond) (_imm : BitVec 24) (s : State) : Outcome State :=
  whenCond c s <| softwareInterrupt s

/-- BKPT (spec/45 R676): a condition other than AL is UNPREDICTABLE. -/
def execBkpt (c : Cond) (_hi : BitVec 12) (_lo : BitVec 4) (s : State) : Outcome State :=
  require (c == .al) .conditionalBkpt <| breakpointInstr s

/-- Row 0, UNDEFINED: 1111 011x x101 (spec/30 R439). -/
def execUndPld (_u : Bool) (_rn _rs : BitVec 4) (_mid : BitVec 3) (_rm : BitVec 4) (s : State) : Outcome State :=
  undefinedInstr s

/-- Row 3, UNDEFINED: 1111 1100 0x0x (spec/30 R439). -/
def execUndExt2 (_n _l : Bool) (_body : BitVec 20) (s : State) : Outcome State := undefinedInstr s

/-- Row 9, UNDEFINED: the rest of the unconditional space (spec/30 R439). -/
def execUndUncond (_op : BitVec 8) (_rn _rd _rs _lo4 _rm : BitVec 4) (s : State) : Outcome State := undefinedInstr s

/-- Row 25, UNDEFINED: the rest of the miscellaneous space (spec/30 R429). -/
def execUndMiscA (c : Cond) (_op : BitVec 2) (_rn _rd _rs : BitVec 4) (_k : BitVec 3) (_rm : BitVec 4) (s : State) :
    Outcome State :=
  whenCond c s <| undefinedInstr s

/-- Row 26, UNDEFINED: the same space (spec/30 R429); row 25 takes all its words. -/
def execUndMiscB (c : Cond) (_op : BitVec 2) (_rn _rd _rs : BitVec 4) (_k : BitVec 3) (_rm : BitVec 4) (s : State) :
    Outcome State :=
  whenCond c s <| undefinedInstr s

/-- UNDEFINED: the rest of the multiply and swap space (spec/30 R430). -/
def execUndMul (c : Cond) (_op : BitVec 5) (_rn _rd _rs _rm : BitVec 4) (s : State) : Outcome State :=
  whenCond c s <| undefinedInstr s

/-- UNDEFINED: cond 00110 x 00 (spec/30 R431). -/
def execUndMsr (c : Cond) (_r : Bool) (_body : BitVec 20) (s : State) : Outcome State :=
  whenCond c s <| undefinedInstr s

/-- UNDEFINED: cond 011 with bit 4 set (spec/30 R434 (a)). -/
def execUndMedia (c : Cond) (_op : BitVec 5) (_rn _rd _rs : BitVec 4) (_mid : BitVec 3) (_rm : BitVec 4) (s : State) :
    Outcome State :=
  whenCond c s <| undefinedInstr s

/-- UNDEFINED: the coprocessor extension space (spec/30 R434 (d), R437). -/
def execUndCpExt (c : Cond) (_l : Bool) (_body : BitVec 20) (s : State) : Outcome State :=
  whenCond c s <| undefinedInstr s

end Sys2Proof.Machine
end

