-- ==== Sys2Proof/Machine/Branch.lean ====
section
/-!
DEFINITION. ARM branches (spec/42_branch.md).
-/
namespace Sys2Proof.Machine

/-- Go to a relative target, or refuse one outside the address space (spec/42 R580, U1). An ARM branch from the ITR with CPSR.T = 1
keeps bit 1 of the pc, a halfword address as Thumb state wants it: DESIGN CHOICE (log 24). -/
def branchRelative (base : Word) (offset : Int) (s : State) : Outcome State :=
  match relative base offset with
  | some t => .next (s.branchTo t)
  | none => .refused .pcWrap

/-- B (spec/42 R580). -/
def execB (c : Cond) (imm : BitVec 24) (s : State) : Outcome State :=
  whenCond c s <| branchRelative s.pc (8 + 4 * imm.toInt) s

/-- BL (spec/42 R581). -/
def execBl (c : Cond) (imm : BitVec 24) (s : State) : Outcome State :=
  whenCond c s <| branchRelative s.pc (8 + 4 * imm.toInt) (s.setReg regLr (s.pc + 4#32))

/-- The should-be-one fields of BX and BLX(2). -/
def sboFields (a b c : BitVec 4) : Bool := a == 15#4 && b == 15#4 && c == 15#4

/-- BX (spec/42 R582). -/
def execBx (c : Cond) (o1 o2 o3 : BitVec 4) (rm : Reg) (s : State) : Outcome State :=
  whenCond c s <|
    require (sboFields o1 o2 o3) .shouldBeField <|
    exchangeTo (s.reg rm) s

/-- BLX(1) (spec/42 R583). -/
def execBlxImm (h : Bool) (imm : BitVec 24) (s : State) : Outcome State :=
  branchRelative s.pc (8 + 4 * imm.toInt + 2 * h.toNat) ((s.setReg regLr (s.pc + 4#32)).setThumb true)

/-- BLX(2) (spec/42 R584). -/
def execBlxReg (c : Cond) (o1 o2 o3 : BitVec 4) (rm : Reg) (s : State) : Outcome State :=
  whenCond c s <|
    require (sboFields o1 o2 o3) .shouldBeField <|
    require (rm != regPc) .operandRestriction <|
    exchangeTo (s.reg rm) (s.setReg regLr (s.pc + 4#32))

end Sys2Proof.Machine
end

