-- ==== Sys2Proof/Machine/LoadStore.lean ====
section
/-!
DEFINITION. ARM single loads and stores, LDRD, STRD, PLD and the swaps (spec/43_load_store.md, spec/45 R680, R681).
-/
namespace Sys2Proof.Machine

/-- The rotation of a misaligned word load with A = 0 (spec/20 R206). -/
def rotateLoaded (va v : Word) : Word := v.rotateRight (8 * (va &&& 3#32).toNat)

/-- How a loaded transfer becomes a register value. -/
inductive Extend where
  | word | byte | half | signedByte | signedHalf
  deriving DecidableEq, Repr

/-- The size of the transfer. -/
def Extend.size : Extend → BusSize
  | .word => .word | .byte => .byte | .signedByte => .byte | .half => .half | .signedHalf => .half

/-- The register value of a load: rotated, zero extended or sign extended (spec/43 R610-R622). -/
def extendLoaded (e : Extend) (va v : Word) : Word :=
  match e with
  | .word => rotateLoaded va v
  | .byte => v
  | .half => v
  | .signedByte => (v.extractLsb' 0 8).signExtend 32
  | .signedHalf => (v.extractLsb' 0 16).signExtend 32

/-- The register value and the state after it: a misaligned halfword is a free value (spec/20 R206, U5). -/
def loadedValue (e : Extend) (va v : Word) (s : State) : Word × State :=
  if e.size == .half && misaligned .half va then (s.freeVal, s.useFree) else (extendLoaded e va v, s)

/-- A load to a register other than r15: write-back, then Rd (spec/43 R602). -/
def loadReg (e : Extend) (priv : Bool) (ix : Index) (offset : Word) (rd : Reg) (s : State) : Outcome State :=
  (memRead (indexAddress ix offset s) e.size priv s).finish fun v s1 =>
    let r := loadedValue e (indexAddress ix offset s) v s1
    advance ((writeBase ix (indexTarget ix offset s) r.2).setReg rd r.1)

/-- LDR to r15 (spec/43 R605). -/
def loadToPc (ix : Index) (offset : Word) (s : State) : Outcome State :=
  (memRead (indexAddress ix offset s) .word s.priv s).finish fun v s1 =>
    require (!misaligned .word (indexAddress ix offset s)) .misalignedPcLoad <|
    loadPc v (writeBase ix (indexTarget ix offset s) s1)

/-- A store and its write-back (spec/43 R602). -/
def storeReg (size : BusSize) (priv : Bool) (ix : Index) (offset : Word) (v : Word) (s : State) : Outcome State :=
  (memWrite (indexAddress ix offset s) size v priv s).finish fun _ s1 =>
    advance (writeBase ix (indexTarget ix offset s) s1)

/-- LDR (spec/43 R610). -/
def execLdr (c : Cond) (ix : Index) (rd : Reg) (off : Off2) (s : State) : Outcome State :=
  whenCond c s <|
    require (mode2Allowed ix off && loadAllowed ix rd) .operandRestriction <|
    if rd = regPc then loadToPc ix (offset2 off s) s else loadReg .word s.priv ix (offset2 off s) rd s

/-- LDRB (spec/43 R611). -/
def execLdrb (c : Cond) (ix : Index) (rd : Reg) (off : Off2) (s : State) : Outcome State :=
  whenCond c s <|
    require (mode2Allowed ix off && loadAllowed ix rd && rd != regPc) .operandRestriction <|
    loadReg .byte s.priv ix (offset2 off s) rd s

/-- LDRT: User privilege (spec/43 R612, spec/20 R212). -/
def execLdrt (c : Cond) (u : Bool) (rn rd : Reg) (off : Off2) (s : State) : Outcome State :=
  whenCond c s <|
    require (mode2Allowed (postIndex u rn) off && loadAllowed (postIndex u rn) rd && rd != regPc) .operandRestriction <|
    loadReg .word false (postIndex u rn) (offset2 off s) rd s

/-- LDRBT: User privilege (spec/43 R613). -/
def execLdrbt (c : Cond) (u : Bool) (rn rd : Reg) (off : Off2) (s : State) : Outcome State :=
  whenCond c s <|
    require (mode2Allowed (postIndex u rn) off && loadAllowed (postIndex u rn) rd && rd != regPc) .operandRestriction <|
    loadReg .byte false (postIndex u rn) (offset2 off s) rd s

/-- STR (spec/43 R614). -/
def execStr (c : Cond) (ix : Index) (rd : Reg) (off : Off2) (s : State) : Outcome State :=
  whenCond c s <|
    require (mode2Allowed ix off) .operandRestriction <|
    storeReg .word s.priv ix (offset2 off s) (storeValue s rd) s

/-- STRB (spec/43 R615). -/
def execStrb (c : Cond) (ix : Index) (rd : Reg) (off : Off2) (s : State) : Outcome State :=
  whenCond c s <|
    require (mode2Allowed ix off && rd != regPc) .operandRestriction <|
    storeReg .byte s.priv ix (offset2 off s) (s.reg rd) s

/-- STRT: User privilege (spec/43 R616). -/
def execStrt (c : Cond) (u : Bool) (rn rd : Reg) (off : Off2) (s : State) : Outcome State :=
  whenCond c s <|
    require (mode2Allowed (postIndex u rn) off) .operandRestriction <|
    storeReg .word false (postIndex u rn) (offset2 off s) (storeValue s rd) s

/-- STRBT: User privilege (spec/43 R617). -/
def execStrbt (c : Cond) (u : Bool) (rn rd : Reg) (off : Off2) (s : State) : Outcome State :=
  whenCond c s <|
    require (mode2Allowed (postIndex u rn) off && rd != regPc) .operandRestriction <|
    storeReg .byte false (postIndex u rn) (offset2 off s) (s.reg rd) s

/-- The template of the loads of addressing mode 3 (spec/43 R620-R622). -/
def loadMode3 (e : Extend) (c : Cond) (ix : Index) (rd : Reg) (off : Off3) (s : State) : Outcome State :=
  whenCond c s <|
    require off.regular .shouldBeField <|
    require (mode3Allowed ix off && loadAllowed ix rd && rd != regPc) .operandRestriction <|
    loadReg e s.priv ix (offset3 off s) rd s

/-- LDRH (spec/43 R620). -/
def execLdrh (c : Cond) (ix : Index) (rd : Reg) (off : Off3) (s : State) : Outcome State :=
  loadMode3 .half c ix rd off s

/-- LDRSB (spec/43 R621). -/
def execLdrsb (c : Cond) (ix : Index) (rd : Reg) (off : Off3) (s : State) : Outcome State :=
  loadMode3 .signedByte c ix rd off s

/-- LDRSH (spec/43 R622). -/
def execLdrsh (c : Cond) (ix : Index) (rd : Reg) (off : Off3) (s : State) : Outcome State :=
  loadMode3 .signedHalf c ix rd off s

/-- STRH (spec/43 R623); at an odd address with A = 0 it is UNPREDICTABLE (U5). -/
def execStrh (c : Cond) (ix : Index) (rd : Reg) (off : Off3) (s : State) : Outcome State :=
  whenCond c s <|
    require off.regular .shouldBeField <|
    require (mode3Allowed ix off && rd != regPc) .operandRestriction <|
    require (s.alignOn || !misaligned .half (indexAddress ix (offset3 off s) s)) .misalignedHalfwordStore <|
    storeReg .half s.priv ix (offset3 off s) (s.reg rd) s

/-- Is the address of a doubleword refused? With A = 1 a bad word alignment is a Data Abort instead (spec/20 R206). -/
def pairRefused (va : Word) (s : State) : Bool :=
  misaligned .dword va && !(s.alignOn && misaligned .word va)

/-- LDRD (spec/43 R624); an odd Rd is Undefined (log 16). -/
def execLdrd (c : Cond) (ix : Index) (rd : Reg) (off : Off3) (s : State) : Outcome State :=
  whenCond c s <|
    require off.regular .shouldBeField <|
    if rd.getLsbD 0 then undefinedInstr s
    else
      require (mode3Allowed ix off && pairAllowed rd && ldrdAllowed ix rd off) .operandRestriction <|
      require (!pairRefused (indexAddress ix (offset3 off s) s) s) .misalignedDoubleword <|
      (memReadMany (.ordinary s.priv) 2 (indexAddress ix (offset3 off s) s) s).finish fun vs s1 =>
        advance (((writeBase ix (indexTarget ix (offset3 off s) s) s1).setReg rd (vs.getD 0 0#32)).setReg (pairHigh rd)
          (vs.getD 1 0#32))

/-- STRD (spec/43 R625); an odd Rd is Undefined (log 16). -/
def execStrd (c : Cond) (ix : Index) (rd : Reg) (off : Off3) (s : State) : Outcome State :=
  whenCond c s <|
    require off.regular .shouldBeField <|
    if rd.getLsbD 0 then undefinedInstr s
    else
      require (mode3Allowed ix off && pairAllowed rd && ldrdAllowed ix rd off) .operandRestriction <|
      require (!pairRefused (indexAddress ix (offset3 off s) s) s) .misalignedDoubleword <|
      (memWriteMany (.ordinary s.priv) [s.reg rd, s.reg (pairHigh rd)] (indexAddress ix (offset3 off s) s) s).finish fun _ s1 =>
        advance (writeBase ix (indexTarget ix (offset3 off s) s) s1)

/-- PLD (spec/43 R630). -/
def execPld (u : Bool) (rn : Reg) (off : Off2) (s : State) : Outcome State :=
  require (mode2Allowed ⟨true, u, false, rn⟩ off) .operandRestriction <|
  (preload (indexAddress ⟨true, u, false, rn⟩ (offset2 off s) s) s.priv s).finish fun _ s1 => advance s1

/-- The template of the swaps (spec/45 R680, R681). -/
def swapOp (e : Extend) (c : Cond) (rn rd : Reg) (sbz : BitVec 4) (rm : Reg) (s : State) : Outcome State :=
  whenCond c s <|
    require (sbz == 0#4) .shouldBeField <|
    require (rn != regPc && rd != regPc && rm != regPc && rn != rm && rn != rd) .operandRestriction <|
    (memSwap (s.reg rn) e.size (s.reg rm) s.priv s).finish fun v s1 =>
      advance (s1.setReg rd (extendLoaded e (s.reg rn) v))

/-- SWP (spec/45 R680). -/
def execSwp (c : Cond) (rn rd : Reg) (sbz : BitVec 4) (rm : Reg) (s : State) : Outcome State :=
  swapOp .word c rn rd sbz rm s

/-- SWPB (spec/45 R681). -/
def execSwpb (c : Cond) (rn rd : Reg) (sbz : BitVec 4) (rm : Reg) (s : State) : Outcome State :=
  swapOp .byte c rn rd sbz rm s

end Sys2Proof.Machine
end

