-- ==== Sys2Proof/Machine/LoadStoreMultiple.lean ====
section
/-!
DEFINITION. LDM and STM (spec/44_load_store_multiple.md). An aborted LDM leaves every register unchanged (spec/44 R657).
-/
namespace Sys2Proof.Machine

/-- Write loaded words to registers of a bank, in order. -/
def setRegs (b : Bank) (s : State) (l : List (Reg × Word)) : State :=
  l.foldl (fun t p => t.setRegIn b p.1 p.2) s

/-- The base after an LDM or STM with W. -/
def multipleWriteBase (ix : Index) (list : BitVec 16) (base : Word) (s : State) : State :=
  if ix.w then s.setReg ix.rn (multipleBase ix list base) else s

/-- The words of a list, read from memory (spec/44 R650). -/
def readList (m : Multiple) (ix : Index) (list : BitVec 16) (s : State) : Res (List Word) :=
  memReadMany m (listRegs list).length (multipleStart ix list (s.reg ix.rn)) s

/-- A user-bank transfer: memory is accessed with the privilege of the current mode (spec/44 R656), and a watchpoint sees a
User access (spec/61 R907). DEDUCED (log 50). -/
def userTransfer (priv : Bool) : Multiple := ⟨priv, false, false, true⟩

/-- The word loaded for r15: the last. -/
def lastWord (vs : List Word) : Word := vs.getLastD 0#32

/-- The base may not be in the list of a load with write-back (spec/44 R658). -/
def ldmAllowed (ix : Index) (list : BitVec 16) : Bool :=
  multipleAllowed ix list && !(ix.w && baseInList ix list)

/-- The transfer of LDM(1), Thumb LDMIA and POP: every word is read before a register is written (spec/44 R651). -/
def loadMultiple (ix : Index) (list : BitVec 16) (s : State) : Outcome State :=
  (readList (.ordinary s.priv) ix list s).finish fun vs s1 =>
    let s2 := setRegs s.bank (multipleWriteBase ix list (s.reg ix.rn) s1) ((listRegs list).zip vs)
    if list.getLsbD 15 then
      require (!misaligned .word (s.reg ix.rn)) .misalignedPcLoad (loadPc (lastWord vs) s2)
    else advance s2

/-- LDM(1) (spec/44 R651). -/
def execLdm1 (c : Cond) (ix : Index) (list : BitVec 16) (s : State) : Outcome State :=
  whenCond c s <|
    require (ldmAllowed ix list) .operandRestriction <|
    loadMultiple ix list s

/-- LDM(2): the User registers (spec/44 R652). -/
def execLdm2 (c : Cond) (ix : Index) (list : BitVec 15) (s : State) : Outcome State :=
  whenCond c s <|
    require (!ix.w) .shouldBeField <|
    require (multipleAllowed ix (0#1 ++ list)) .operandRestriction <|
    require s.hasSpsr .userBankTransfer <|
    (readList (userTransfer s.priv) ix (0#1 ++ list) s).finish fun vs s1 =>
      advance (setRegs .usr s1 ((listRegs (0#1 ++ list)).zip vs))

/-- LDM(3): the CPSR is restored (spec/44 R653). -/
def execLdm3 (c : Cond) (ix : Index) (list : BitVec 15) (s : State) : Outcome State :=
  whenCond c s <|
    require (ldmAllowed ix (1#1 ++ list)) .operandRestriction <|
    require s.hasSpsr .noSpsr <|
    (readList (.ordinary s.priv) ix (1#1 ++ list) s).finish fun vs s1 =>
      require (!misaligned .word (s.reg ix.rn)) .misalignedPcLoad <|
      exceptionReturn (lastWord vs)
        (setRegs s.bank (multipleWriteBase ix (1#1 ++ list) (s.reg ix.rn) s1) ((listRegs (1#1 ++ list)).zip vs))

/-- The base is in the list of a store with W and is not the lowest register: its stored value is UNPREDICTABLE
(spec/44 R658). -/
def baseStoreFree (ix : Index) (list : BitVec 16) : Bool :=
  ix.w && baseInList ix list && (listRegs list).head? != some ix.rn

/-- What STM stores for a register: a free value for such a base (spec/44 R658). -/
def stmValue (ix : Index) (list : BitVec 16) (s : State) (r : Reg) : Word :=
  if baseStoreFree ix list && r == ix.rn then s.freeVal else storeValue s r

/-- The free value of such a base is used up. -/
def stmFree (ix : Index) (list : BitVec 16) (s : State) : State :=
  if baseStoreFree ix list then s.useFree else s

/-- The transfer of STM(1), Thumb STMIA and PUSH (spec/44 R654). -/
def storeMultiple (ix : Index) (list : BitVec 16) (s : State) : Outcome State :=
  (memWriteMany (.ordinary s.priv) ((listRegs list).map (stmValue ix list s))
    (multipleStart ix list (s.reg ix.rn)) (stmFree ix list s)).finish fun _ s1 =>
    advance (multipleWriteBase ix list (s.reg ix.rn) s1)

/-- STM(1) (spec/44 R654). -/
def execStm1 (c : Cond) (ix : Index) (list : BitVec 16) (s : State) : Outcome State :=
  whenCond c s <|
    require (multipleAllowed ix list) .operandRestriction <|
    storeMultiple ix list s

/-- STM(2): the User registers (spec/44 R655). -/
def execStm2 (c : Cond) (ix : Index) (list : BitVec 16) (s : State) : Outcome State :=
  whenCond c s <|
    require (!ix.w) .shouldBeField <|
    require (multipleAllowed ix list) .operandRestriction <|
    require s.hasSpsr .userBankTransfer <|
    (memWriteMany (userTransfer s.priv) ((listRegs list).map (storeValueIn s .usr))
      (multipleStart ix list (s.reg ix.rn)) s).finish fun _ s1 => advance s1

end Sys2Proof.Machine
end

