-- ==== Sys2Proof/Machine/ThumbData.lean ====
section
/-!
DEFINITION. Thumb data processing (spec/47_thumb_data.md). None of these has a condition.
-/
namespace Sys2Proof.Machine

/-- Rd and N, Z, C, V (spec/47 R774). -/
def thumbAlu (rd : LoReg) (a : Alu) (s : State) : Outcome State := advance ((s.setAlu a).setReg (lo rd) a.result)

/-- Rd and N, Z (spec/47 R774). -/
def thumbLogic (rd : LoReg) (v : Word) (s : State) : Outcome State := advance ((s.setNZ v).setReg (lo rd) v)

/-- Rd and N, Z and the shifter's carry (spec/47 R774). -/
def thumbShift (rd : LoReg) (r : Shifted) (s : State) : Outcome State := thumbAlu rd ⟨r.value, r.carry, s.flagV⟩ s

/-- A result of the high-register ADD and MOV: r15 is a branch that leaves T alone (spec/10 R37, spec/47 R741, R749). -/
def thumbHigh (rd : Reg) (v : Word) (s : State) : Outcome State :=
  if rd = regPc then .next (s.branchTo (s.alignPc v)) else advance (s.setReg rd v)

/-- One of the two registers is a high one (spec/47 R741, R749, R756). -/
def oneHigh (a b : Reg) : Bool := a.getLsbD 3 || b.getLsbD 3

/-- A low register's value. -/
def loVal (s : State) (r : LoReg) : Word := s.reg (lo r)

/-- The pc of a Thumb literal: A + 4 with bit 1 clear (spec/47 R750). -/
def literalBase (s : State) : Word := (s.pc + 4#32) &&& 0xFFFFFFFC#32

/-- ADD (register) (spec/47 R743). -/
def execTAddReg (rm rn rd : LoReg) (s : State) : Outcome State := thumbAlu rd (addAlu (loVal s rn) (loVal s rm) false) s

/-- SUB (register) (spec/47 R744). -/
def execTSubReg (rm rn rd : LoReg) (s : State) : Outcome State := thumbAlu rd (subAlu (loVal s rn) (loVal s rm) false) s

/-- ADD (3-bit immediate) (spec/47 R742). -/
def execTAddImm3 (imm : BitVec 3) (rn rd : LoReg) (s : State) : Outcome State :=
  thumbAlu rd (addAlu (loVal s rn) (imm.zeroExtend 32) false) s

/-- SUB (3-bit immediate) (spec/47 R745). -/
def execTSubImm3 (imm : BitVec 3) (rn rd : LoReg) (s : State) : Outcome State :=
  thumbAlu rd (subAlu (loVal s rn) (imm.zeroExtend 32) false) s

/-- LSL (immediate) (spec/47 R760). -/
def execTLslImm (imm : BitVec 5) (rm rd : LoReg) (s : State) : Outcome State :=
  thumbShift rd (shiftByImm .lsl (loVal s rm) imm s.flagC) s

/-- LSR (immediate) (spec/47 R761). -/
def execTLsrImm (imm : BitVec 5) (rm rd : LoReg) (s : State) : Outcome State :=
  thumbShift rd (shiftByImm .lsr (loVal s rm) imm s.flagC) s

/-- ASR (immediate) (spec/47 R762). -/
def execTAsrImm (imm : BitVec 5) (rm rd : LoReg) (s : State) : Outcome State :=
  thumbShift rd (shiftByImm .asr (loVal s rm) imm s.flagC) s

/-- MOV (immediate) (spec/47 R740). -/
def execTMovImm (rd : LoReg) (imm : BitVec 8) (s : State) : Outcome State := thumbLogic rd (imm.zeroExtend 32) s

/-- CMP (immediate) (spec/47 R755). -/
def execTCmpImm (rn : LoReg) (imm : BitVec 8) (s : State) : Outcome State :=
  advance (s.setAlu (subAlu (loVal s rn) (imm.zeroExtend 32) false))

/-- ADD (8-bit immediate) (spec/47 R746). -/
def execTAddImm8 (rd : LoReg) (imm : BitVec 8) (s : State) : Outcome State :=
  thumbAlu rd (addAlu (loVal s rd) (imm.zeroExtend 32) false) s

/-- SUB (8-bit immediate) (spec/47 R747). -/
def execTSubImm8 (rd : LoReg) (imm : BitVec 8) (s : State) : Outcome State :=
  thumbAlu rd (subAlu (loVal s rd) (imm.zeroExtend 32) false) s

/-- AND (spec/47 R767). -/
def execTAnd (rm rd : LoReg) (s : State) : Outcome State := thumbLogic rd (loVal s rd &&& loVal s rm) s

/-- EOR (spec/47 R768). -/
def execTEor (rm rd : LoReg) (s : State) : Outcome State := thumbLogic rd (loVal s rd ^^^ loVal s rm) s

/-- A shift of Rd by the bottom byte of Rs. -/
def thumbShiftReg (sh : Shift) (rs rd : LoReg) (s : State) : Outcome State :=
  thumbShift rd (shiftByReg sh (loVal s rd) ((loVal s rs).extractLsb' 0 8) s.flagC) s

/-- LSL (register) (spec/47 R763). -/
def execTLslReg (rs rd : LoReg) (s : State) : Outcome State := thumbShiftReg .lsl rs rd s

/-- LSR (register) (spec/47 R764). -/
def execTLsrReg (rs rd : LoReg) (s : State) : Outcome State := thumbShiftReg .lsr rs rd s

/-- ASR (register) (spec/47 R765). -/
def execTAsrReg (rs rd : LoReg) (s : State) : Outcome State := thumbShiftReg .asr rs rd s

/-- ADC (spec/47 R748). -/
def execTAdc (rm rd : LoReg) (s : State) : Outcome State := thumbAlu rd (addAlu (loVal s rd) (loVal s rm) s.flagC) s

/-- SBC (spec/47 R754). -/
def execTSbc (rm rd : LoReg) (s : State) : Outcome State :=
  thumbAlu rd (subAlu (loVal s rd) (loVal s rm) (!s.flagC)) s

/-- ROR (spec/47 R766). -/
def execTRor (rs rd : LoReg) (s : State) : Outcome State := thumbShiftReg .ror rs rd s

/-- TST (spec/47 R772). -/
def execTTst (rm rn : LoReg) (s : State) : Outcome State := advance (s.setNZ (loVal s rn &&& loVal s rm))

/-- NEG (spec/47 R759). -/
def execTNeg (rm rd : LoReg) (s : State) : Outcome State := thumbAlu rd (subAlu 0#32 (loVal s rm) false) s

/-- CMP (register) (spec/47 R757). -/
def execTCmpReg (rm rn : LoReg) (s : State) : Outcome State :=
  advance (s.setAlu (subAlu (loVal s rn) (loVal s rm) false))

/-- CMN (spec/47 R758). -/
def execTCmn (rm rn : LoReg) (s : State) : Outcome State :=
  advance (s.setAlu (addAlu (loVal s rn) (loVal s rm) false))

/-- ORR (spec/47 R769). -/
def execTOrr (rm rd : LoReg) (s : State) : Outcome State := thumbLogic rd (loVal s rd ||| loVal s rm) s

/-- MUL (spec/47 R773). -/
def execTMul (rm rd : LoReg) (s : State) : Outcome State := thumbLogic rd (loVal s rm * loVal s rd) s

/-- BIC (spec/47 R770). -/
def execTBic (rm rd : LoReg) (s : State) : Outcome State := thumbLogic rd (loVal s rd &&& ~~~loVal s rm) s

/-- MVN (spec/47 R771). -/
def execTMvn (rm rd : LoReg) (s : State) : Outcome State := thumbLogic rd (~~~loVal s rm) s

/-- ADD (high registers) (spec/47 R749). -/
def execTAddHi (rm rd : Reg) (s : State) : Outcome State :=
  require (oneHigh rm rd) .operandRestriction <| thumbHigh rd (s.reg rd + s.reg rm) s

/-- CMP (high registers) (spec/47 R756). -/
def execTCmpHi (rm rn : Reg) (s : State) : Outcome State :=
  require (oneHigh rm rn && rn != regPc) .operandRestriction <|
  advance (s.setAlu (subAlu (s.reg rn) (s.reg rm) false))

/-- MOV (high registers) (spec/47 R741). -/
def execTMovHi (rm rd : Reg) (s : State) : Outcome State :=
  require (oneHigh rm rd) .operandRestriction <| thumbHigh rd (s.reg rm) s

/-- ADD (PC-relative address) (spec/47 R750). -/
def execTAddPc (rd : LoReg) (imm : BitVec 8) (s : State) : Outcome State :=
  advance (s.setReg (lo rd) (literalBase s + (imm.zeroExtend 32 <<< 2)))

/-- ADD (SP-relative address) (spec/47 R751). -/
def execTAddSpRd (rd : LoReg) (imm : BitVec 8) (s : State) : Outcome State :=
  advance (s.setReg (lo rd) (s.reg regSp + (imm.zeroExtend 32 <<< 2)))

/-- ADD (to SP) (spec/47 R752). -/
def execTAddSp (imm : BitVec 7) (s : State) : Outcome State :=
  advance (s.setReg regSp (s.reg regSp + (imm.zeroExtend 32 <<< 2)))

/-- SUB (from SP) (spec/47 R753). -/
def execTSubSp (imm : BitVec 7) (s : State) : Outcome State :=
  advance (s.setReg regSp (s.reg regSp - (imm.zeroExtend 32 <<< 2)))

end Sys2Proof.Machine
end

