-- ==== Sys2Proof/Machine/ThumbMem.lean ====
section
/-!
DEFINITION. Thumb loads, stores, branches, SWI, BKPT and the UNDEFINED halfwords (spec/48_thumb_mem_branch.md).
-/
namespace Sys2Proof.Machine

/-- The register value of a Thumb load: misaligned with A = 0 it is a free value (spec/48, U6). -/
def thumbLoaded (e : Extend) (va v : Word) (s : State) : Word × State :=
  if misaligned e.size va then (s.freeVal, s.useFree) else (extendLoaded e va v, s)

/-- A Thumb load. -/
def thumbLoad (e : Extend) (va : Word) (rd : LoReg) (s : State) : Outcome State :=
  (memRead va e.size s.priv s).finish fun v s1 =>
    advance ((thumbLoaded e va v s1).2.setReg (lo rd) (thumbLoaded e va v s1).1)

/-- A Thumb store; misaligned with A = 0 it is UNPREDICTABLE (spec/48, U6). -/
def thumbStore (size : BusSize) (va : Word) (rd : LoReg) (s : State) : Outcome State :=
  require (s.alignOn || !misaligned size va) .misalignedThumbStore <|
  (memWrite va size (loVal s rd) s.priv s).finish fun _ s1 => advance s1

/-- Base plus offset register. -/
def regAddress (rm rn : LoReg) (s : State) : Word := loVal s rn + loVal s rm

/-- Base plus a 5-bit immediate scaled by the size. -/
def immAddress (imm : BitVec 5) (scale : Nat) (rn : LoReg) (s : State) : Word :=
  loVal s rn + (imm.zeroExtend 32 <<< scale)

/-- The stack pointer plus an 8-bit word offset. -/
def spAddress (imm : BitVec 8) (s : State) : Word := s.reg regSp + (imm.zeroExtend 32 <<< 2)

/-- LDR (PC-relative) (spec/48 R797). -/
def execTLdrPc (rd : LoReg) (imm : BitVec 8) (s : State) : Outcome State :=
  thumbLoad .word (literalBase s + (imm.zeroExtend 32 <<< 2)) rd s

/-- STR (register offset) (spec/48 R803). -/
def execTStrReg (rm rn rd : LoReg) (s : State) : Outcome State := thumbStore .word (regAddress rm rn s) rd s

/-- STRH (register offset) (spec/48 R804). -/
def execTStrhReg (rm rn rd : LoReg) (s : State) : Outcome State := thumbStore .half (regAddress rm rn s) rd s

/-- STRB (register offset) (spec/48 R805). -/
def execTStrbReg (rm rn rd : LoReg) (s : State) : Outcome State := thumbStore .byte (regAddress rm rn s) rd s

/-- LDRSB (register offset) (spec/48 R799). -/
def execTLdrsbReg (rm rn rd : LoReg) (s : State) : Outcome State := thumbLoad .signedByte (regAddress rm rn s) rd s

/-- LDR (register offset) (spec/48 R793). -/
def execTLdrReg (rm rn rd : LoReg) (s : State) : Outcome State := thumbLoad .word (regAddress rm rn s) rd s

/-- LDRH (register offset) (spec/48 R794). -/
def execTLdrhReg (rm rn rd : LoReg) (s : State) : Outcome State := thumbLoad .half (regAddress rm rn s) rd s

/-- LDRB (register offset) (spec/48 R796). -/
def execTLdrbReg (rm rn rd : LoReg) (s : State) : Outcome State := thumbLoad .byte (regAddress rm rn s) rd s

/-- LDRSH (register offset) (spec/48 R795). -/
def execTLdrshReg (rm rn rd : LoReg) (s : State) : Outcome State := thumbLoad .signedHalf (regAddress rm rn s) rd s

/-- STR (immediate offset) (spec/48 R800). -/
def execTStrImm (imm : BitVec 5) (rn rd : LoReg) (s : State) : Outcome State :=
  thumbStore .word (immAddress imm 2 rn s) rd s

/-- LDR (immediate offset) (spec/48 R790). -/
def execTLdrImm (imm : BitVec 5) (rn rd : LoReg) (s : State) : Outcome State :=
  thumbLoad .word (immAddress imm 2 rn s) rd s

/-- STRB (immediate offset) (spec/48 R802). -/
def execTStrbImm (imm : BitVec 5) (rn rd : LoReg) (s : State) : Outcome State :=
  thumbStore .byte (immAddress imm 0 rn s) rd s

/-- LDRB (immediate offset) (spec/48 R792). -/
def execTLdrbImm (imm : BitVec 5) (rn rd : LoReg) (s : State) : Outcome State :=
  thumbLoad .byte (immAddress imm 0 rn s) rd s

/-- STRH (immediate offset) (spec/48 R801). -/
def execTStrhImm (imm : BitVec 5) (rn rd : LoReg) (s : State) : Outcome State :=
  thumbStore .half (immAddress imm 1 rn s) rd s

/-- LDRH (immediate offset) (spec/48 R791). -/
def execTLdrhImm (imm : BitVec 5) (rn rd : LoReg) (s : State) : Outcome State :=
  thumbLoad .half (immAddress imm 1 rn s) rd s

/-- STR (SP-relative) (spec/48 R806). -/
def execTStrSp (rd : LoReg) (imm : BitVec 8) (s : State) : Outcome State := thumbStore .word (spAddress imm s) rd s

/-- LDR (SP-relative) (spec/48 R798). -/
def execTLdrSp (rd : LoReg) (imm : BitVec 8) (s : State) : Outcome State := thumbLoad .word (spAddress imm s) rd s

/-- PUSH's list: r14 is bit 14 (spec/48 R810). -/
def pushList (r : Bool) (list : BitVec 8) : BitVec 16 := 0#1 ++ BitVec.ofBool r ++ 0#6 ++ list

/-- POP's list: r15 is bit 15 (spec/48 R811). -/
def popList (r : Bool) (list : BitVec 8) : BitVec 16 := BitVec.ofBool r ++ 0#7 ++ list

/-- PUSH (spec/48 R810): a descending store with write-back of r13. -/
def execTPush (r : Bool) (list : BitVec 8) (s : State) : Outcome State :=
  require (pushList r list != 0#16) .operandRestriction <|
  storeMultiple ⟨true, false, true, regSp⟩ (pushList r list) s

/-- POP (spec/48 R811): an ascending load with write-back of r13. -/
def execTPop (r : Bool) (list : BitVec 8) (s : State) : Outcome State :=
  require (popList r list != 0#16) .operandRestriction <|
  loadMultiple ⟨false, true, true, regSp⟩ (popList r list) s

/-- BKPT (spec/48 R831). -/
def execTBkpt (_imm : BitVec 8) (s : State) : Outcome State := breakpointInstr s

/-- UNDEFINED: the rest of 1011 (spec/31 R490, spec/48 R832). -/
def execTUnd1011 (_body : BitVec 12) (s : State) : Outcome State := undefinedInstr s

/-- STMIA (spec/48 R809). -/
def execTStmia (rn : LoReg) (list : BitVec 8) (s : State) : Outcome State :=
  require (list != 0#8) .operandRestriction <|
  storeMultiple ⟨false, true, true, lo rn⟩ (0#8 ++ list) s

/-- LDMIA (spec/48 R808): no write-back when the base is in the list. -/
def execTLdmia (rn : LoReg) (list : BitVec 8) (s : State) : Outcome State :=
  require (list != 0#8) .operandRestriction <|
  loadMultiple ⟨false, true, !list.getLsbD rn.toNat, lo rn⟩ (0#8 ++ list) s

/-- SWI (spec/48 R830). -/
def execTSwi (_imm : BitVec 8) (s : State) : Outcome State := softwareInterrupt s

/-- UNDEFINED: 1101 1110 (spec/31 R490, spec/48 R832). -/
def execTUndCond (_body : BitVec 8) (s : State) : Outcome State := undefinedInstr s

/-- A Thumb branch to a relative target; outside the address space it is refused (U1). The target is aligned to the state: from the
ITR it may be ARM state, DESIGN CHOICE (log 24). -/
def branchThumb (offset : Int) (s : State) : Outcome State :=
  match relative s.pc offset with
  | some t => .next (s.branchTo (s.alignPc t))
  | none => .refused .pcWrap

/-- B (conditional) (spec/48 R820). -/
def execTBcond (c : Cond) (imm : BitVec 8) (s : State) : Outcome State :=
  whenCond c s <| branchThumb (4 + 2 * imm.toInt) s

/-- B (unconditional) (spec/48 R821). -/
def execTB (imm : BitVec 11) (s : State) : Outcome State := branchThumb (4 + 2 * imm.toInt) s

/-- UNDEFINED: 11101 with bit 0 set (spec/31 R490, spec/48 R832). -/
def execTUndBlx (_body : BitVec 10) (s : State) : Outcome State := undefinedInstr s

/-- BX (spec/48 R822). -/
def execTBx (rm : Reg) (sbz : BitVec 3) (s : State) : Outcome State :=
  require (sbz == 0#3) .shouldBeField <| exchangeTo (s.reg rm) s

/-- The return address of a Thumb call, with the Thumb bit (spec/48 R823, R824). -/
def thumbReturn (s : State) : Word := (s.pc + 2#32) ||| 1#32

/-- BLX(2) (spec/48 R823). -/
def execTBlxReg (rm : Reg) (sbz : BitVec 3) (s : State) : Outcome State :=
  require (sbz == 0#3) .shouldBeField <|
  require (rm != regPc) .operandRestriction <|
  exchangeTo (s.reg rm) (s.setReg regLr (thumbReturn s))

/-- The BL and BLX prefix (spec/48 R824). The sum is taken modulo 2^32 (spec/00 R12), here and in the suffixes: that U1 does not
reach the pair is a DESIGN CHOICE (log 39). -/
def execTBlPrefix (imm : BitVec 11) (s : State) : Outcome State :=
  advance (s.setReg regLr (s.pc + 4#32 + (imm.signExtend 32 <<< 12)))

/-- The BL suffix (spec/48 R824); its sum wraps: DESIGN CHOICE (log 39). Bit 0 of a Thumb pc is zero (spec/10 R34): DEDUCED (log
44); from the ITR in ARM state bit 1 too: DESIGN CHOICE (log 24). -/
def execTBlSuffix (imm : BitVec 11) (s : State) : Outcome State :=
  .next ((s.setReg regLr (thumbReturn s)).branchTo (s.alignPc (s.reg regLr + (imm.zeroExtend 32 <<< 1))))

/-- The BLX suffix (spec/48 R824): T := 0 and the target is a word address; its sum wraps: DESIGN CHOICE (log 39). -/
def execTBlxSuffix (imm : BitVec 10) (s : State) : Outcome State :=
  .next (((s.setReg regLr (thumbReturn s)).setThumb false).branchTo
    ((s.reg regLr + (imm.zeroExtend 32 <<< 2)) &&& 0xFFFFFFFC#32))

end Sys2Proof.Machine
end

