-- ==== Sys2Proof/Machine/Dispatch.lean ====
section
/-!
DEFINITION. The meaning of each instruction: one arm for each constructor of `Instr`.
-/
namespace Sys2Proof.Machine

/-- Execute one instruction (spec/00_scope.md R5). -/
def exec (i : Instr) (s : State) : Host.Outcome State Fault Refusal :=
  match i with
  | .undPld u rn rs mid rm => Sys2Proof.Machine.execUndPld u rn rs mid rm s
  | .pld u rn off => Sys2Proof.Machine.execPld u rn off s
  | .blxImm h imm => Sys2Proof.Machine.execBlxImm h imm s
  | .undExt2 n l body => Sys2Proof.Machine.execUndExt2 n l body s
  | .ldc2 f => Sys2Proof.Machine.execLdc2 f s
  | .stc2 f => Sys2Proof.Machine.execStc2 f s
  | .cdp2 f => Sys2Proof.Machine.execCdp2 f s
  | .mcr2 f => Sys2Proof.Machine.execMcr2 f s
  | .mrc2 f => Sys2Proof.Machine.execMrc2 f s
  | .undUncond op rn rd rs lo4 rm => Sys2Proof.Machine.execUndUncond op rn rd rs lo4 rm s
  | .mrs c r sbo rd sbz1 sbz2 => Sys2Proof.Machine.execMrs c r sbo rd sbz1 sbz2 s
  | .msrReg c r mask sbo sbz rm => Sys2Proof.Machine.execMsrReg c r mask sbo sbz rm s
  | .bx c sbo1 sbo2 sbo3 rm => Sys2Proof.Machine.execBx c sbo1 sbo2 sbo3 rm s
  | .clz c sbo1 rd sbo2 rm => Sys2Proof.Machine.execClz c sbo1 rd sbo2 rm s
  | .blxReg c sbo1 sbo2 sbo3 rm => Sys2Proof.Machine.execBlxReg c sbo1 sbo2 sbo3 rm s
  | .qadd c rn rd sbz rm => Sys2Proof.Machine.execQadd c rn rd sbz rm s
  | .qsub c rn rd sbz rm => Sys2Proof.Machine.execQsub c rn rd sbz rm s
  | .qdadd c rn rd sbz rm => Sys2Proof.Machine.execQdadd c rn rd sbz rm s
  | .qdsub c rn rd sbz rm => Sys2Proof.Machine.execQdsub c rn rd sbz rm s
  | .bkpt c hi lo => Sys2Proof.Machine.execBkpt c hi lo s
  | .smlaxy c rd rn rs y x rm => Sys2Proof.Machine.execSmlaxy c rd rn rs y x rm s
  | .smlawy c rd rn rs y rm => Sys2Proof.Machine.execSmlawy c rd rn rs y rm s
  | .smulwy c rd sbz rs y rm => Sys2Proof.Machine.execSmulwy c rd sbz rs y rm s
  | .smlalxy c rdHi rdLo rs y x rm => Sys2Proof.Machine.execSmlalxy c rdHi rdLo rs y x rm s
  | .smulxy c rd sbz rs y x rm => Sys2Proof.Machine.execSmulxy c rd sbz rs y x rm s
  | .undMiscA c op rn rd rs k rm => Sys2Proof.Machine.execUndMiscA c op rn rd rs k rm s
  | .undMiscB c op rn rd rs k rm => Sys2Proof.Machine.execUndMiscB c op rn rd rs k rm s
  | .mul c sf rd sbz rs rm => Sys2Proof.Machine.execMul c sf rd sbz rs rm s
  | .mla c sf rd rn rs rm => Sys2Proof.Machine.execMla c sf rd rn rs rm s
  | .umull c sf rdHi rdLo rs rm => Sys2Proof.Machine.execUmull c sf rdHi rdLo rs rm s
  | .umlal c sf rdHi rdLo rs rm => Sys2Proof.Machine.execUmlal c sf rdHi rdLo rs rm s
  | .smull c sf rdHi rdLo rs rm => Sys2Proof.Machine.execSmull c sf rdHi rdLo rs rm s
  | .smlal c sf rdHi rdLo rs rm => Sys2Proof.Machine.execSmlal c sf rdHi rdLo rs rm s
  | .swp c rn rd sbz rm => Sys2Proof.Machine.execSwp c rn rd sbz rm s
  | .swpb c rn rd sbz rm => Sys2Proof.Machine.execSwpb c rn rd sbz rm s
  | .undMul c op rn rd rs rm => Sys2Proof.Machine.execUndMul c op rn rd rs rm s
  | .strh c ix rd off => Sys2Proof.Machine.execStrh c ix rd off s
  | .ldrh c ix rd off => Sys2Proof.Machine.execLdrh c ix rd off s
  | .ldrd c ix rd off => Sys2Proof.Machine.execLdrd c ix rd off s
  | .ldrsb c ix rd off => Sys2Proof.Machine.execLdrsb c ix rd off s
  | .strd c ix rd off => Sys2Proof.Machine.execStrd c ix rd off s
  | .ldrsh c ix rd off => Sys2Proof.Machine.execLdrsh c ix rd off s
  | .undMsr c r body => Sys2Proof.Machine.execUndMsr c r body s
  | .msrImm c r mask sbo rot imm8 => Sys2Proof.Machine.execMsrImm c r mask sbo rot imm8 s
  | .and c sf rn rd op => Sys2Proof.Machine.execAnd c sf rn rd op s
  | .eor c sf rn rd op => Sys2Proof.Machine.execEor c sf rn rd op s
  | .sub c sf rn rd op => Sys2Proof.Machine.execSub c sf rn rd op s
  | .rsb c sf rn rd op => Sys2Proof.Machine.execRsb c sf rn rd op s
  | .add c sf rn rd op => Sys2Proof.Machine.execAdd c sf rn rd op s
  | .adc c sf rn rd op => Sys2Proof.Machine.execAdc c sf rn rd op s
  | .sbc c sf rn rd op => Sys2Proof.Machine.execSbc c sf rn rd op s
  | .rsc c sf rn rd op => Sys2Proof.Machine.execRsc c sf rn rd op s
  | .tst c rn sbz op => Sys2Proof.Machine.execTst c rn sbz op s
  | .teq c rn sbz op => Sys2Proof.Machine.execTeq c rn sbz op s
  | .cmp c rn sbz op => Sys2Proof.Machine.execCmp c rn sbz op s
  | .cmn c rn sbz op => Sys2Proof.Machine.execCmn c rn sbz op s
  | .orr c sf rn rd op => Sys2Proof.Machine.execOrr c sf rn rd op s
  | .mov c sf sbz rd op => Sys2Proof.Machine.execMov c sf sbz rd op s
  | .bic c sf rn rd op => Sys2Proof.Machine.execBic c sf rn rd op s
  | .mvn c sf sbz rd op => Sys2Proof.Machine.execMvn c sf sbz rd op s
  | .undMedia c op rn rd rs mid rm => Sys2Proof.Machine.execUndMedia c op rn rd rs mid rm s
  | .ldrt c u rn rd off => Sys2Proof.Machine.execLdrt c u rn rd off s
  | .ldrbt c u rn rd off => Sys2Proof.Machine.execLdrbt c u rn rd off s
  | .strt c u rn rd off => Sys2Proof.Machine.execStrt c u rn rd off s
  | .strbt c u rn rd off => Sys2Proof.Machine.execStrbt c u rn rd off s
  | .ldr c ix rd off => Sys2Proof.Machine.execLdr c ix rd off s
  | .ldrb c ix rd off => Sys2Proof.Machine.execLdrb c ix rd off s
  | .str c ix rd off => Sys2Proof.Machine.execStr c ix rd off s
  | .strb c ix rd off => Sys2Proof.Machine.execStrb c ix rd off s
  | .ldm1 c ix list => Sys2Proof.Machine.execLdm1 c ix list s
  | .ldm2 c ix list => Sys2Proof.Machine.execLdm2 c ix list s
  | .ldm3 c ix list => Sys2Proof.Machine.execLdm3 c ix list s
  | .stm1 c ix list => Sys2Proof.Machine.execStm1 c ix list s
  | .stm2 c ix list => Sys2Proof.Machine.execStm2 c ix list s
  | .b c imm => Sys2Proof.Machine.execB c imm s
  | .bl c imm => Sys2Proof.Machine.execBl c imm s
  | .undCpExt c l body => Sys2Proof.Machine.execUndCpExt c l body s
  | .mcrr c rn rd cp opc crm => Sys2Proof.Machine.execMcrr c rn rd cp opc crm s
  | .mrrc c rn rd cp opc crm => Sys2Proof.Machine.execMrrc c rn rd cp opc crm s
  | .ldc c f => Sys2Proof.Machine.execLdc c f s
  | .stc c f => Sys2Proof.Machine.execStc c f s
  | .cdp c f => Sys2Proof.Machine.execCdp c f s
  | .mcr c f => Sys2Proof.Machine.execMcr c f s
  | .mrc c f => Sys2Proof.Machine.execMrc c f s
  | .swi c imm => Sys2Proof.Machine.execSwi c imm s
  | .tAddReg rm rn rd => Sys2Proof.Machine.execTAddReg rm rn rd s
  | .tSubReg rm rn rd => Sys2Proof.Machine.execTSubReg rm rn rd s
  | .tAddImm3 imm rn rd => Sys2Proof.Machine.execTAddImm3 imm rn rd s
  | .tSubImm3 imm rn rd => Sys2Proof.Machine.execTSubImm3 imm rn rd s
  | .tLslImm imm rm rd => Sys2Proof.Machine.execTLslImm imm rm rd s
  | .tLsrImm imm rm rd => Sys2Proof.Machine.execTLsrImm imm rm rd s
  | .tAsrImm imm rm rd => Sys2Proof.Machine.execTAsrImm imm rm rd s
  | .tMovImm rd imm => Sys2Proof.Machine.execTMovImm rd imm s
  | .tCmpImm rn imm => Sys2Proof.Machine.execTCmpImm rn imm s
  | .tAddImm8 rd imm => Sys2Proof.Machine.execTAddImm8 rd imm s
  | .tSubImm8 rd imm => Sys2Proof.Machine.execTSubImm8 rd imm s
  | .tAnd rm rd => Sys2Proof.Machine.execTAnd rm rd s
  | .tEor rm rd => Sys2Proof.Machine.execTEor rm rd s
  | .tLslReg rs rd => Sys2Proof.Machine.execTLslReg rs rd s
  | .tLsrReg rs rd => Sys2Proof.Machine.execTLsrReg rs rd s
  | .tAsrReg rs rd => Sys2Proof.Machine.execTAsrReg rs rd s
  | .tAdc rm rd => Sys2Proof.Machine.execTAdc rm rd s
  | .tSbc rm rd => Sys2Proof.Machine.execTSbc rm rd s
  | .tRor rs rd => Sys2Proof.Machine.execTRor rs rd s
  | .tTst rm rn => Sys2Proof.Machine.execTTst rm rn s
  | .tNeg rm rd => Sys2Proof.Machine.execTNeg rm rd s
  | .tCmpReg rm rn => Sys2Proof.Machine.execTCmpReg rm rn s
  | .tCmn rm rn => Sys2Proof.Machine.execTCmn rm rn s
  | .tOrr rm rd => Sys2Proof.Machine.execTOrr rm rd s
  | .tMul rm rd => Sys2Proof.Machine.execTMul rm rd s
  | .tBic rm rd => Sys2Proof.Machine.execTBic rm rd s
  | .tMvn rm rd => Sys2Proof.Machine.execTMvn rm rd s
  | .tAddHi rm rd => Sys2Proof.Machine.execTAddHi rm rd s
  | .tCmpHi rm rn => Sys2Proof.Machine.execTCmpHi rm rn s
  | .tMovHi rm rd => Sys2Proof.Machine.execTMovHi rm rd s
  | .tBx rm sbz => Sys2Proof.Machine.execTBx rm sbz s
  | .tBlxReg rm sbz => Sys2Proof.Machine.execTBlxReg rm sbz s
  | .tLdrPc rd imm => Sys2Proof.Machine.execTLdrPc rd imm s
  | .tStrReg rm rn rd => Sys2Proof.Machine.execTStrReg rm rn rd s
  | .tStrhReg rm rn rd => Sys2Proof.Machine.execTStrhReg rm rn rd s
  | .tStrbReg rm rn rd => Sys2Proof.Machine.execTStrbReg rm rn rd s
  | .tLdrsbReg rm rn rd => Sys2Proof.Machine.execTLdrsbReg rm rn rd s
  | .tLdrReg rm rn rd => Sys2Proof.Machine.execTLdrReg rm rn rd s
  | .tLdrhReg rm rn rd => Sys2Proof.Machine.execTLdrhReg rm rn rd s
  | .tLdrbReg rm rn rd => Sys2Proof.Machine.execTLdrbReg rm rn rd s
  | .tLdrshReg rm rn rd => Sys2Proof.Machine.execTLdrshReg rm rn rd s
  | .tStrImm imm rn rd => Sys2Proof.Machine.execTStrImm imm rn rd s
  | .tLdrImm imm rn rd => Sys2Proof.Machine.execTLdrImm imm rn rd s
  | .tStrbImm imm rn rd => Sys2Proof.Machine.execTStrbImm imm rn rd s
  | .tLdrbImm imm rn rd => Sys2Proof.Machine.execTLdrbImm imm rn rd s
  | .tStrhImm imm rn rd => Sys2Proof.Machine.execTStrhImm imm rn rd s
  | .tLdrhImm imm rn rd => Sys2Proof.Machine.execTLdrhImm imm rn rd s
  | .tStrSp rd imm => Sys2Proof.Machine.execTStrSp rd imm s
  | .tLdrSp rd imm => Sys2Proof.Machine.execTLdrSp rd imm s
  | .tAddPc rd imm => Sys2Proof.Machine.execTAddPc rd imm s
  | .tAddSpRd rd imm => Sys2Proof.Machine.execTAddSpRd rd imm s
  | .tAddSp imm => Sys2Proof.Machine.execTAddSp imm s
  | .tSubSp imm => Sys2Proof.Machine.execTSubSp imm s
  | .tPush r list => Sys2Proof.Machine.execTPush r list s
  | .tPop r list => Sys2Proof.Machine.execTPop r list s
  | .tBkpt imm => Sys2Proof.Machine.execTBkpt imm s
  | .tUnd1011 body => Sys2Proof.Machine.execTUnd1011 body s
  | .tStmia rn list => Sys2Proof.Machine.execTStmia rn list s
  | .tLdmia rn list => Sys2Proof.Machine.execTLdmia rn list s
  | .tSwi imm => Sys2Proof.Machine.execTSwi imm s
  | .tUndCond body => Sys2Proof.Machine.execTUndCond body s
  | .tBcond c imm => Sys2Proof.Machine.execTBcond c imm s
  | .tB imm => Sys2Proof.Machine.execTB imm s
  | .tUndBlx body => Sys2Proof.Machine.execTUndBlx body s
  | .tBlxSuffix imm => Sys2Proof.Machine.execTBlxSuffix imm s
  | .tBlPrefix imm => Sys2Proof.Machine.execTBlPrefix imm s
  | .tBlSuffix imm => Sys2Proof.Machine.execTBlSuffix imm s

end Sys2Proof.Machine
end

