-- ==== Sys2Proof/Machine/Jtag.lean ====
section
/-!
DEFINITION. The TAP controller, the scan chains and what the JTAG debugger can do (spec/61 R910-R933; spec/12 R173-R192;
notes/assumptions/24.md).
-/
namespace Sys2Proof.Machine

/-- The next state of the TAP controller at a rising edge of TCK (spec/61 R931). PRESUMED (IEEE 1149.1). -/
def TapState.next (st : TapState) (tms : Bool) : TapState :=
  match st, tms with
  | .reset, true => .reset
  | .reset, false => .idle
  | .idle, true => .selectDr
  | .idle, false => .idle
  | .selectDr, true => .selectIr
  | .selectDr, false => .captureDr
  | .captureDr, true => .exit1Dr
  | .captureDr, false => .shiftDr
  | .shiftDr, true => .exit1Dr
  | .shiftDr, false => .shiftDr
  | .exit1Dr, true => .updateDr
  | .exit1Dr, false => .pauseDr
  | .pauseDr, true => .exit2Dr
  | .pauseDr, false => .pauseDr
  | .exit2Dr, true => .updateDr
  | .exit2Dr, false => .shiftDr
  | .updateDr, true => .selectDr
  | .updateDr, false => .idle
  | .selectIr, true => .reset
  | .selectIr, false => .captureIr
  | .captureIr, true => .exit1Ir
  | .captureIr, false => .shiftIr
  | .shiftIr, true => .exit1Ir
  | .shiftIr, false => .shiftIr
  | .exit1Ir, true => .updateIr
  | .exit1Ir, false => .pauseIr
  | .pauseIr, true => .exit2Ir
  | .pauseIr, false => .pauseIr
  | .exit2Ir, true => .updateIr
  | .exit2Ir, false => .shiftIr
  | .updateIr, true => .selectDr
  | .updateIr, false => .idle

/-- The TAP instructions that act on this processor (spec/61 R930). -/
inductive TapInstr where
  | extest | scanN | restart | halt | intest | idcode | bypass
  deriving DecidableEq, Repr

/-- The TAP instruction of a code. Unused codes are BYPASS (spec/61 R930); so are SAMPLE/PRELOAD, CLAMP, HIGHZ and CLAMPZ, of which
the rule says "external scan chains only": DESIGN CHOICE (log 24). -/
def tapInstrOf (ir : BitVec 4) : TapInstr :=
  match ir.toNat with
  | 0 => .extest
  | 2 => .scanN
  | 4 => .restart
  | 8 => .halt
  | 12 => .intest
  | 14 => .idcode
  | _ => .bypass

/-- The scan chains inside the processor (spec/12 R192). -/
inductive ScanChain where
  | ident | status | transferData | transfer | data | external
  deriving DecidableEq, Repr

/-- The scan chain of a number; the others lie outside the processor. -/
def scanChainOf (n : BitVec 5) : ScanChain :=
  match n.toNat with
  | 0 => .ident
  | 1 => .status
  | 2 => .transferData
  | 4 => .transfer
  | 5 => .data
  | _ => .external

/-- The length of a scan chain (spec/12 R162, R165, R173, R176, R177); an external chain is shown as one bit. -/
def ScanChain.length : ScanChain → Nat
  | .ident => 32 | .status => 32 | .transferData => 65 | .transfer => 33 | .data => 33 | .external => 1

namespace State

/-- The current TAP instruction. -/
def tapInstr (s : State) : TapInstr := tapInstrOf s.tap.ir

/-- The selected scan chain. -/
def chain (s : State) : ScanChain := scanChainOf s.tap.chain

/-- The length of the data register between TDI and TDO (spec/61 R930). -/
def drLength (s : State) : Nat :=
  match s.tapInstr with
  | .extest => s.chain.length
  | .intest => s.chain.length
  | .scanN => 5
  | .idcode => 32
  | .restart => 1
  | .halt => 1
  | .bypass => 1

/-- DSCR.RF: the rDTR holds data the core has not read (spec/12 R176). -/
def dtrFull (s : State) : Bool := s.dbg.dscr.getLsbD 7

/-- DSCR.WE: the wDTR holds no data the debugger has not read (spec/12 R176). -/
def dtrEmpty (s : State) : Bool := s.dbg.dscr.getLsbD 6

/-- The output DBGACK: HIGH in debug state, LOW once RESTART has left it (spec/61 R905, R913). -/
def dbgack (s : State) : Bool := s.halted

/-- The output COMMRX: HIGH while the rDTR holds data for the processor to read, DSCR.RF (spec/61 R925). -/
def commrx (s : State) : Bool := s.dtrFull

/-- The output COMMTX: HIGH while the wDTR is empty, DSCR.WE (spec/61 R925). -/
def commtx (s : State) : Bool := s.dtrEmpty

/-- Bit 0 of the wDTR chain: valid data, or with DSCR[27] = 0 the completion of the ITR's instruction (spec/61 R926). -/
def wdtrFlag (s : State) : Bool := if s.dbg.dscr.getLsbD 27 then !s.dtrEmpty else s.dbg.itrDone

/-- Chain 5 as it is captured: data and flag; INTEST sees the wDTR, EXTEST the rDTR (spec/12 R176). -/
def dtrCapture (s : State) (intest : Bool) : BitVec 33 :=
  if intest then s.dbg.wdtr ++ BitVec.ofBool s.wdtrFlag else s.dbg.rdtr ++ BitVec.ofBool (!s.dtrFull)

/-- The data register's contents at Capture-DR under INTEST or EXTEST (spec/61 R930); chain 1 shows DSCR[7:6] inverted
(spec/12 R165, R170) and the reserved bits [26:24], [21] and [15:8] as held, always zero: DESIGN CHOICE (log 24). -/
def chainCapture (s : State) (intest : Bool) : BitVec 66 :=
  match s.chain with
  | .ident => didrWord.zeroExtend 66
  | .status => (s.dbg.dscr ^^^ 0xC0#32).zeroExtend 66
  | .transfer => (s.dbg.itr ++ BitVec.ofBool s.dbg.itrDone).zeroExtend 66
  | .data => (s.dtrCapture intest).zeroExtend 66
  | .transferData => (s.dbg.itr ++ s.dtrCapture intest).zeroExtend 66
  | .external => 0#66

/-- The chain holds the DTR. -/
def chainHasData (s : State) : Bool := s.chain == .data || s.chain == .transferData

/-- The debugger has read the wDTR: WE := 1 (spec/61 R926). -/
def clearWdtr (s : State) : State := { s with dbg := { s.dbg with dscr := s.dbg.dscr ||| 0x40#32 } }

/-- The debugger sees whether the rDTR is full: only if it is not does the scan load it (spec/12 R176, spec/61 R926). -/
def noteReady (s : State) : State := { s with tap := { s.tap with rxReady := !s.dtrFull } }

/-- Capture-DR (spec/12 R189-R191; spec/61 R926, R930). That RESTART and HALT place one bit that captures zero between TDI
and TDO is a DESIGN CHOICE (log 24). -/
def captureDr (s : State) : State :=
  let load := fun (v : BitVec 66) (t : State) => { t with tap := { t.tap with drShift := v } }
  match s.tapInstr with
  | .idcode => load (s.pins.tapid.zeroExtend 66) s
  | .scanN => load 0b10000#66 s
  | .intest => load (s.chainCapture true) (if s.chainHasData then s.clearWdtr else s)
  | .extest => load (s.chainCapture false) (if s.chainHasData then s.noteReady else s)
  | .restart => load 0#66 s
  | .halt => load 0#66 s
  | .bypass => load 0#66 s

/-- Shift-DR: least significant bit first (spec/61 R931). -/
def shiftDr (s : State) (tdi : Bool) : State :=
  { s with tap := { s.tap with
      drShift := ((s.tap.drShift >>> 1) &&& ~~~(1#66 <<< (s.drLength - 1)))
        ||| ((BitVec.ofBool tdi).zeroExtend 66 <<< (s.drLength - 1)) } }

/-- The debugger writes the DSCR (spec/12 R165). -/
def jtagDscr (s : State) (v : Word) : State :=
  { s with dbg := { s.dbg with dscr := maskedWrite s.dbg.dscr v 0x78DF0000#32 } }

/-- The debugger writes the ITR (spec/12 R173). -/
def jtagItr (s : State) (v : Word) : State := { s with dbg := { s.dbg with itr := v, itrDone := false, itrWait := false } }

/-- The debugger writes the rDTR if bit 0 was captured HIGH (spec/12 R176, spec/61 R926). -/
def jtagRdtr (s : State) (v : Word) : State :=
  if s.tap.rxReady then { s with dbg := { s.dbg with rdtr := v, dscr := s.dbg.dscr ||| 0x80#32 } } else s

/-- Update-DR under EXTEST: chains 1, 4, 5 and 2 are written (spec/61 R930). -/
def updateChain (s : State) : State :=
  match s.chain with
  | .status => s.jtagDscr (s.tap.drShift.extractLsb' 0 32)
  | .transfer => s.jtagItr (s.tap.drShift.extractLsb' 1 32)
  | .data => s.jtagRdtr (s.tap.drShift.extractLsb' 1 32)
  | .transferData => (s.jtagRdtr (s.tap.drShift.extractLsb' 1 32)).jtagItr (s.tap.drShift.extractLsb' 33 32)
  | .ident => s
  | .external => s

/-- Update-DR (spec/12 R189, spec/61 R930). -/
def updateDr (s : State) : State :=
  match s.tapInstr with
  | .scanN => { s with tap := { s.tap with chain := s.tap.drShift.extractLsb' 0 5 } }
  | .extest => s.updateChain
  | .intest => s
  | .idcode => s
  | .restart => s
  | .halt => s
  | .bypass => s

/-- The TAP controller's reset: IDCODE, chain 3, and the JTAG-owned bits of the DSCR (spec/61 R932, spec/12 R168,
spec/70 R984). The shift stages, TDO and the flag of the rDTR that was captured stay as they were: DESIGN CHOICE (R984 does not say;
log 24). -/
def tapReset (s : State) : State :=
  { s with
    tap := { s.tap with state := .reset, ir := 14#4, chain := 3#5 }
    dbg := { s.dbg with dscr := s.dbg.dscr &&& 0x8700FFC0#32, haltReq := false, itrWait := false } }

/-- RESTART: debug state is left (spec/61 R913). An instruction of the ITR that is still held is abandoned: DESIGN CHOICE (spec/61
R911, R913 do not say; log 24). -/
def restart (s : State) : State :=
  { s with dbg := { s.dbg with dscr := s.dbg.dscr.extractLsb' 2 30 ++ 0b10#2, itrWait := false } }

end State

/-- An instruction is complete: the HUM buffer is empty (spec/22 R360) and the write buffer drains (spec/22 R352). -/
def complete (s : State) : State := drainIfGranted { s with hum := none }

/-- The instruction in the ITR: ARM, or with DSCR.T a Thumb halfword in its low half (spec/61 R911). -/
def itrCode (s : State) : Code :=
  if s.dbg.dscr.getLsbD 28 then .thumb (s.dbg.itr.extractLsb' 0 16) else .arm s.dbg.itr

/-- The instruction in the ITR cannot complete yet: ITR bit 0 is LOW and it is tried again (spec/12 R173, spec/23 R410). -/
def itrHeld (s : State) : State := { s with dbg := { s.dbg with itrDone := false, itrWait := true } }

/-- The instruction in the ITR is executed (spec/61 R911), in the state that DSCR.T names, r15 included: DESIGN CHOICE (log
24). It waits while its coprocessor is busy or the bus is not granted (spec/23 R392, R410). ITR bit 0 goes HIGH also where its
load or store aborted: DESIGN CHOICE (spec/61 R910, spec/12 R173 do not say; log 24). -/
def runItr (s : State) : Outcome State :=
  if busyWaits (decode (itrCode s)) s then .next (itrHeld s)
  else
    match exec (decode (itrCode s)) s with
    | .next t =>
      if granted s t then .next (complete { t with dbg := { t.dbg with itrDone := true, itrWait := false } })
      else .next (itrHeld s)
    | .fault f => .fault f
    | .refused r => .refused r

/-- What entering Run-Test/Idle does: HALT, RESTART, or the instruction in the ITR (spec/61 R911, R913, R921). Outside debug state
nothing is sent from the ITR, whatever DSCR[29] is, and RESTART does nothing and keeps DSCR[1]; in debug state HALT is dropped: no
request stays and MOE is kept: DESIGN CHOICE (log 24). -/
def enterIdle (s : State) : Outcome State :=
  match s.tapInstr with
  | .halt =>
    if s.debugEnabled && s.haltMode && !s.halted then .next { s with dbg := { s.dbg with haltReq := true } } else .next s
  | .restart => if s.halted then .next s.restart else .next s
  | .intest => if s.halted && s.dbg.dscr.getLsbD 29 then runItr s else .next s
  | .extest => if s.halted && s.dbg.dscr.getLsbD 29 then runItr s else .next s
  | .scanN => .next s
  | .idcode => .next s
  | .bypass => .next s

/-- What the TAP controller does in a state at the rising edge of TCK that leaves it (spec/61 R931). -/
def tapAct (tdi : Bool) (s : State) : State :=
  match s.tap.state with
  | .captureDr => s.captureDr
  | .shiftDr => s.shiftDr tdi
  | .captureIr => { s with tap := { s.tap with irShift := 1#4 } }
  | .shiftIr => { s with tap := { s.tap with irShift := BitVec.ofBool tdi ++ s.tap.irShift.extractLsb' 1 3 } }
  | _ => s

/-- What entering a TAP state does (spec/61 R931, R932). -/
def tapEnter (st : TapState) (s : State) : Outcome State :=
  match st with
  | .updateIr => .next { s with tap := { s.tap with ir := s.tap.irShift } }
  | .updateDr => .next s.updateDr
  | .reset => .next s.tapReset
  | .idle => enterIdle s
  | .shiftDr => .next { s with tap := { s.tap with tdo := s.tap.drShift.getLsbD 0 } }
  | .shiftIr => .next { s with tap := { s.tap with tdo := s.tap.irShift.getLsbD 0 } }
  | _ => .next s

/-- One rising edge of TCK (spec/61 R931). -/
def tckEdge (tms tdi : Bool) (s : State) : Outcome State :=
  let old := s.tap.state
  let new := old.next tms
  let s1 := tapAct tdi s
  let s2 : State := { s1 with tap := { s1.tap with state := new } }
  if old = .idle ∧ new = .idle then .next s2 else tapEnter new s2

end Sys2Proof.Machine
end

