-- ==== Sys2Proof/Machine/Run.lean ====
section
/-!
DEFINITION. What happens between instructions: the moves of the outside world (spec/92 Part 3, spec/62 R955, spec/70
R980-R985), debug requests and interrupts (spec/60 R852, R872, R890), fetching (spec/22 R373), breakpoints, watchpoints
and vector catch (spec/61 R906-R908).
-/
namespace Sys2Proof.Machine

/-- A breakpoint comparator matches an instruction (spec/61 R906). -/
def breakMatches (ba : Word) (bc : BitVec 5) (pc : Word) (thumb priv : Bool) : Bool :=
  bc.getLsbD 0
    && (if thumb then ba.extractLsb' 1 31 == pc.extractLsb' 1 31 else ba.extractLsb' 2 30 == pc.extractLsb' 2 30)
    && (if thumb then bc.getLsbD 3 else bc.getLsbD 4) && (if priv then bc.getLsbD 2 else bc.getLsbD 1)

/-- Some breakpoint matches an instruction fetched from this address (spec/61 R906). -/
def breakpointAt (s : State) (pc : Word) (thumb : Bool) : Bool :=
  s.debugEnabled && (s.dbg.ba.zip s.dbg.bc).toList.any (fun p => breakMatches p.1 p.2 pc thumb s.priv)

/-- The bits of a fetched instruction. -/
def fetchedCode (thumb : Bool) (w : Word) : Code := if thumb then .thumb (w.extractLsb' 0 16) else .arm w

/-- A branch to a target inside the address space is predicted taken, and one to a target outside it is not predicted: DESIGN CHOICE
(spec/42 R590 does not say; log 10). -/
def predictTaken (target : Option Word) (thumb : Bool) : Prediction :=
  match target with
  | some t => .taken t thumb
  | none => .unpredicted

/-- A conditional branch is predicted taken if it goes backward, an unconditional one always (spec/22 R374); a forward branch is
predicted only with its preceding instruction in the buffer too, `follows` (spec/71 R1027 note b). A branch with a negative offset
field goes backward: DESIGN CHOICE (log 10). -/
def predictBranch (c : Cond) (backward follows : Bool) (target : Option Word) (thumb : Bool) : Prediction :=
  if !backward && !follows then .unpredicted
  else if c == .al || backward then predictTaken target thumb
  else .notTaken

/-- A BL or BLX(1) is predicted only if it is unconditional, and then taken in either direction (spec/71 R1027 note e, spec/42
R581); that note b holds for a forward one too is a DESIGN CHOICE (log 10). -/
def predictCall (c : Cond) (backward follows : Bool) (target : Option Word) (thumb : Bool) : Prediction :=
  if c == .al then predictBranch c backward follows target thumb else .unpredicted

/-- The upper half of a Thumb call whose prefix stands just before an address: what the prefix puts into r14 (spec/48
R824). -/
def prefixBefore (prev : Option Prefetched) (pc : Word) : Option Word :=
  match prev with
  | none => none
  | some p =>
    match p.what with
    | .abort _ => none
    | .word w =>
      match decode (fetchedCode p.thumb w) with
      | .tBlPrefix imm => if p.addr + 2#32 = pc then some (p.addr + 4#32 + (imm.signExtend 32 <<< 12)) else none
      | _ => none

/-- The static prediction of an instruction at an address, `prev` the instruction before it in the buffer: B, BL with condition AL,
BLX(1), the Thumb branches, and a Thumb call whose prefix is in the buffer before it; BX and BLX(2) are never predicted (spec/22
R374, spec/71 R1027). -/
def predictionOf (prev : Option Prefetched) (pc : Word) (thumb : Bool) (w : Word) : Prediction :=
  match decode (fetchedCode thumb w) with
  | .b c imm => predictBranch c imm.msb prev.isSome (relative pc (8 + 4 * imm.toInt)) false
  | .bl c imm => predictCall c imm.msb prev.isSome (relative pc (8 + 4 * imm.toInt)) false
  | .blxImm h imm => predictCall .al imm.msb prev.isSome (relative pc (8 + 4 * imm.toInt + 2 * h.toNat)) true
  | .tBcond c imm => predictBranch c imm.msb prev.isSome (relative pc (4 + 2 * imm.toInt)) true
  | .tB imm => predictBranch .al imm.msb prev.isSome (relative pc (4 + 2 * imm.toInt)) true
  | .tBlSuffix imm =>
    predictTaken ((prefixBefore prev pc).map fun h => (h + (imm.zeroExtend 32 <<< 1)) &&& 0xFFFFFFFE#32) true
  | .tBlxSuffix imm =>
    predictTaken ((prefixBefore prev pc).map fun h => (h + (imm.zeroExtend 32 <<< 2)) &&& 0xFFFFFFFC#32) false
  | _ => .unpredicted

/-- What enters the prefetch buffer for a fetch behind `prev`. There is no prediction with Z = 0, on a Prefetch Abort and on a
breakpoint (spec/22 R374). -/
def entryFor (prev : Option Prefetched) (pc : Word) (thumb : Bool) (f : Fetched) (s : State) : Prefetched :=
  let bp := breakpointAt s pc thumb
  let prediction := match f with
    | .word w => if s.predictOn && !bp then predictionOf prev pc thumb w else .unpredicted
    | .abort _ => .unpredicted
  ⟨pc, thumb, bp, f, prediction⟩

/-- Fetch the instruction at an address as the prefetch buffer holds it. A fetch whose domain or permission check fails leaves the
entry that its walk loaded in the ITLB even if it is never executed (spec/21 R255; D30 is about the IFSR): DESIGN CHOICE (log
49). -/
def fetchEntry (prev : Option Prefetched) (pc : Word) (thumb : Bool) (s : State) : Except Refusal (Prefetched × State) :=
  match fetch pc thumb s.priv s with
  | .got f s1 => .ok (entryFor prev pc thumb f s, s1)
  | .refuse r => .error r

/-- The next instruction: the front of the prefetch buffer if it was fetched for this address, else a fetch. -/
def nextInstruction (s : State) : Except Refusal (Prefetched × State) :=
  match s.prefetch with
  | p :: rest =>
    if p.addr = s.pc ∧ p.thumb = s.thumb then .ok (p, { s with prefetch := rest })
    else fetchEntry none s.pc s.thumb { s with prefetch := [] }
  | [] => fetchEntry none s.pc s.thumb s

/-- The address and state that follow an entry of the prefetch buffer: the target of a branch that is predicted taken, else
the next instruction (spec/22 R374, R376). -/
def Prefetched.next (p : Prefetched) : Option (Word × Bool) :=
  match p.prediction with
  | .taken t thumb => some (t, thumb)
  | _ =>
    let a := p.addr + (if p.thumb then 2#32 else 4#32)
    if a ≤ p.addr then none else some (a, p.thumb)

/-- A branch that is predicted taken. -/
def Prefetched.isTaken (p : Prefetched) : Bool :=
  match p.prediction with
  | .taken _ _ => true
  | _ => false

/-- One more entry behind the entries `ahead` of the buffer, the oldest first: behind a branch that is predicted taken, and is
not yet resolved, only what the ICache holds (spec/22 R376); `none` when nothing can be fetched. -/
def fetchBehind (ahead : List Prefetched) (s : State) : Except Refusal (Option (Prefetched × State)) :=
  match ahead.getLast? with
  | none =>
    match fetchEntry none s.pc s.thumb s with
    | .ok (p, s1) => .ok (some (p, s1))
    | .error r => .error r
  | some last =>
    match last.next with
    | none => .ok none
    | some (a, thumb) =>
      if ahead.any Prefetched.isTaken then
        match speculativeFetch a thumb s.priv s with
        | some f => .ok (some (entryFor (some last) a thumb f s, s))
        | none => .ok none
      else
        match fetchEntry (some last) a thumb s with
        | .ok (p, s1) => .ok (some (p, s1))
        | .error r => .error r

/-- The buffer is filled up to `n` entries behind an instruction. Where it ends at a branch that is predicted taken, whose target is
not in the ITLB and the ICache, it stays shorter, also before a write of the process ID: DESIGN CHOICE (spec/70 R998 and spec/22
R376 meet there; log 10). -/
def fillBehind (p : Prefetched) : Nat → State → Except Refusal State
  | 0, s => .ok s
  | n + 1, s =>
    match fillBehind p n s with
    | .error r => .error r
    | .ok s1 =>
      if n < s1.prefetch.length then .ok s1
      else
        match fetchBehind (p :: s1.prefetch) s1 with
        | .error r => .error r
        | .ok none => .ok s1
        | .ok (some (q, s2)) => .ok { s2 with prefetch := s2.prefetch ++ [q] }

/-- An MCR that writes the process ID: the two instructions after it are fetched before it has its effect (spec/11 R133,
spec/70 R998). -/
def writesPid (i : Instr) (s : State) : Bool :=
  match i with
  | .mcr c f => f.cp == 15#4 && f.op1 == 0#3 && f.crn == 13#4 && f.crm == 0#4 && f.op2 == 0#3 && s.priv && s.passes c
  | _ => false

/-- What must be fetched before an instruction runs. -/
def lookAhead (p : Prefetched) (i : Instr) (s : State) : Except Refusal State :=
  if writesPid i s then fillBehind p 2 s else .ok s

/-- The watchpoint event after an instruction (spec/61 R907, R916, R918): the DFSR and both fault addresses, then debug state
or a Data Abort (spec/11 R106, R109). -/
def watchEvent (h : WatchHit) (s : State) : State :=
  let s1 := recordDataFault 0x2#4 h.domain h.addr (h.pc + (if h.thumb then 4#32 else 8#32)) s
  if s.haltMode then enterDebug 0b010#3 s1
  else takeException .dataAbort (s1.pc + 8#32) { s1 with dbg := { setMoe s1.dbg 0b010#3 with watch := none } }

/-- The watchpoint event, if one is due. -/
def settleWatch (s : State) : State :=
  match s.dbg.watch with
  | some h => watchEvent h s
  | none => s

/-- What follows every instruction: a watchpoint's event, then the buffers. -/
def settle (s : State) : State := complete (settleWatch s)

/-- The prefetch buffer after an instruction, with `rest` behind it before: a correctly predicted taken branch keeps it, a
branch wrongly predicted taken flushes it (spec/22 R375); every other taken branch has flushed it. -/
def resolve (pr : Prediction) (rest : List Prefetched) (t : State) : State :=
  match pr with
  | .taken target thumb =>
    { t with prefetch := if t.prefetch.isEmpty && t.pc == target && t.thumb == thumb then rest else [] }
  | .notTaken => t
  | .unpredicted => t

/-- The instruction waits in the prefetch buffer. -/
def hold (p : Prefetched) (s : State) : State := { s with prefetch := p :: s.prefetch }

/-- Run an instruction at the pc; while the bus is not granted for its transfers it waits (spec/23 R392). -/
def runCode (p : Prefetched) (i : Instr) (s : State) : Outcome State :=
  match exec i (caughtHere s) with
  | .next t => if granted s t then .next (settle (resolve p.prediction s.prefetch t)) else .next (hold p s)
  | .fault f => .fault f
  | .refused r => .refused r

/-- Issue an instruction: it waits while its coprocessor is busy (spec/23 R410). -/
def issue (p : Prefetched) (i : Instr) (s : State) : Outcome State :=
  if busyWaits i s then .next (hold p s)
  else
    match lookAhead p i s with
    | .ok s1 => if granted s s1 then runCode p i s1 else .next (hold p s)
    | .error r => .refused r

/-- A vector catch is due at this instruction (spec/61 R908). -/
def vectorCaught (s : State) : Bool := s.debugEnabled && s.dbg.catchAt.contains s.pc

/-- Act on the instruction fetched: an abort, a breakpoint, a vector catch (in this order; spec/61 R916), or its meaning. A
breakpoint that matched at the fetch has its event even if debugging was disabled since: DESIGN CHOICE (log 34). A caught vector whose
own fetch aborts stays caught, and its event comes when it is next reached: DESIGN CHOICE (spec/61 R908, R916 do not say; log 29). -/
def runFetched (p : Prefetched) (s : State) : Outcome State :=
  match p.what with
  | .abort status => .next (prefetchAbort status s)
  | .word w =>
    if p.breakpoint then .next (debugEvent 0b001#3 s)
    else if vectorCaught s then .next (debugEvent 0b101#3 s)
    else issue p (decode (fetchedCode s.thumb w)) s

/-- Fetch and run one instruction; while the bus is not granted for the fetch nothing happens (spec/23 R392). -/
def runInstruction (s : State) : Outcome State :=
  match nextInstruction s with
  | .ok (p, s1) => if granted s s1 then runFetched p s1 else .next s
  | .error r => .refused r

/-- EDBGRQ or a JTAG HALT is due (spec/61 R920, R921). A HALT that was accepted and finds H or GE clear at the next boundary stays
pending until both are set again: DESIGN CHOICE (spec/61 R921 does not say; log 26). -/
def debugRequest (s : State) : Bool := s.debugEnabled && s.haltMode && (s.pins.edbgrq || s.dbg.haltReq)

/-- An FIQ is pending (spec/60 R852). -/
def fiqPending (s : State) : Bool := !s.pins.nfiq && !s.cpsr.getLsbD 6

/-- An IRQ is pending (spec/60 R852). -/
def irqPending (s : State) : Bool := !s.pins.nirq && !s.cpsr.getLsbD 7

/-- An FIQ, else an IRQ, is taken if it is pending; else go on (spec/60 R869, R870, R872). -/
def interruptOr (s : State) (k : Outcome State) : Outcome State :=
  if fiqPending s then .next (takeException .fiq (s.pc + 4#32) s)
  else if irqPending s then .next (takeException .irq (s.pc + 4#32) s)
  else k

/-- An instruction boundary: a debug request, an FIQ, an IRQ (spec/60 R869, R870, R872), or an instruction. With EDBGRQ and
a JTAG HALT both due MOE is 000: DESIGN CHOICE (log 26). -/
def boundary (s : State) : Outcome State :=
  if debugRequest s then .next (enterDebug (if s.dbg.haltReq then 0b000#3 else 0b100#3) s)
  else interruptOr s (runInstruction s)

/-- What a processor does that STANDBY has let go: an unmasked interrupt before EDBGRQ, unlike `boundary`, else it goes on (spec/60
R890). -/
def wake (s : State) : Outcome State := interruptOr s (boundary s)

/-- HRESETN or SFRESETN is held LOW: no instruction executes and no transfer starts (spec/70 R980). -/
def State.inReset (s : State) : Bool := !(s.pins.hresetn && s.pins.sfresetn)

/-- Enter a low-power state once the write buffer is empty (spec/20 R222, spec/60 R890). -/
def enterLowPower (r : RunState) (s : State) : State :=
  let s1 := drainIfGranted s
  if buffersEmpty s1 then { s1 with run := r, pm := { s1.pm with pending := none } }
  else { s1 with pm := { s1.pm with pending := some r } }

/-- A step of the processor by its run state: nothing is fetched in debug state, where only an instruction of the ITR may be
waiting; STANDBY waits; without power nothing runs (spec/60 R890; spec/61 R905; spec/62 R953). In debug state no request ends
STANDBY before RESTART, and TCK edges still run ITR instructions: DESIGN CHOICE (log 22). -/
def stepByRun (s : State) : Outcome State :=
  match s.run, s.halted with
  | .poweredDown, _ => .next s
  | .running, true => if s.dbg.itrWait then runItr s else .next s
  | .standby, true => .next s
  | .running, false => boundary s
  | .standby, false => if wakeRequest s then wake { s with run := .running } else .next s

/-- One step of the processor: nothing in reset; the entry to a low-power state waits for the write buffer (spec/20 R222). -/
def processorStep (s : State) : Outcome State :=
  if s.inReset then .next s
  else
    match s.pm.pending with
    | some r => .next (enterLowPower r s)
    | none => stepByRun s

/-- The power is off, or goes off as soon as the write buffer is empty (spec/62 R953, spec/20 R222). -/
def leavingPower (s : State) : Bool := s.run == .poweredDown || s.pm.pending == some .poweredDown

/-- PMTXACK (spec/62 R953, R955). Only a reset leaves POWERED_DOWN: there, and while the power waits to go off, it ends the
handshake and no more. -/
def handlePmTxAck (s : State) : Outcome State :=
  if s.pm.txReq then
    let s1 : State := { s with pm := { s.pm with w := true, txReq := false } }
    if leavingPower s then .next s1
    else if s.pm.txState.getLsbD 3 then
      if s.pm.txState.getLsbD 2 then .next s1 else .next (enterLowPower .standby s1)
    else .next { s1 with pm := { s1.pm with powerOff := true, ackState := s.pm.txState, ackEmul := s.pm.txEmul } }
  else .fault .ackWithoutCommand

/-- PMRXACK (spec/62 R955). -/
def handlePmRxAck (state : BitVec 4) (emul : Bool) (s : State) : Outcome State :=
  if s.pm.rxReq then .next { s with pm := { s.pm with rxReq := false, r := true, rxState := state, rxEmul := emul } }
  else .fault .dataWithoutRequest

/-- The host removes the power, once the write buffer is empty (spec/62 R953, spec/20 R222). -/
def handlePowerOff (s : State) : Outcome State :=
  if s.pm.powerOff then .next (enterLowPower .poweredDown s) else .fault .powerOffWithoutCommand

/-- A register file of free values. -/
def freeVector (n : Nat) (from' : Nat) : Vector Word n := Vector.ofFn (fun i => Config.free (from' + i.val))

/-- The power is really off: after DORMANT or SHUTDOWN, not in emulation mode (spec/62 R953, R954). -/
def powerRemoved (s : State) : Bool := s.run == .poweredDown && !s.pm.ackEmul

/-- The debug unit after a core reset (spec/70 R985): GE = 0, both channels empty, debug state left, E of every control
register clear; what has no stated value is free, and after the power was off so are T, MOE, DSCR[1] and the ITR's completion bit
(spec/62 R953, spec/93; spec/70 R984 does not list T). DESIGN CHOICES (spec/12 R168, R173, R176; spec/61 R921; log 24): a core reset,
and no other, empties the channels; it otherwise keeps T, MOE, DSCR[1] and the ITR's completion bit; it drops a JTAG HALT not yet
acted on. -/
def resetDebug (s : State) : Debug :=
  let dscr := (s.dbg.dscr &&& 0x7FFFFF7E#32) ||| 0x40#32
  { s.dbg with
    dscr := if powerRemoved s then maskedWrite dscr (Config.free (s.freeCount + 59)) 0x1000001E#32 else dscr
    itr := Config.free (s.freeCount + 40)
    itrDone := if powerRemoved s then (Config.free (s.freeCount + 60)).getLsbD 0 else s.dbg.itrDone
    rdtr := Config.free (s.freeCount + 41)
    wdtr := Config.free (s.freeCount + 42)
    ba := freeVector 6 (s.freeCount + 43)
    bc := (freeVector 6 (s.freeCount + 49)).map (fun w => w.extractLsb' 1 4 ++ 0#1)
    wa := freeVector 2 (s.freeCount + 55)
    wc := (freeVector 2 (s.freeCount + 57)).map (fun w => w.extractLsb' 1 10 ++ 0#1)
    watch := none
    catchAt := []
    haltReq := false
    itrWait := false }

/-- The mailbox after a core reset of either kind: PMTDR and PMRDR are clear (spec/11 R83) and PMRXREQ is HIGH with a power manager
(spec/62 R955). DESIGN CHOICES (spec/62 R955, spec/70 R981 do not say; log 23): a soft reset too withdraws an outstanding PMTXREQ and an
entry to a low-power state that is still pending; where a reset pin is held LOW, PMRXREQ is HIGH from the pin's fall. A reset ends the host's right to remove the power, but not while SFRESETN is held
LOW, as it must be when the voltage goes (spec/62 R960; log 23). -/
def resetPm (s : State) : PowerMgr :=
  { PowerMgr.reset s.pins.pmexists with
    ackEmul := s.pm.ackEmul, ackState := s.pm.ackState
    powerOff := s.pm.powerOff && !s.pins.sfresetn && s.run != .poweredDown }

/-- `Reset(kind)` (spec/70 R980, R985): POWER_ON also resets the caches' contents and the PLL register. The TAP
controller keeps its state, also when the power was off: DESIGN CHOICE (spec/62 R953 does not say; log 23). -/
def coreReset (powerOn : Bool) (s : State) : State :=
  { s with
    regs := freeVector 30 s.freeCount
    spsr := (freeVector 5 (s.freeCount + 30)).map (fun w => w &&& 0xF80000FF#32)
    cpsr := (Config.free (s.freeCount + 35) &&& 0xF8000000#32) ||| 0xD3#32
    pc := if s.pins.hivecsinit then 0xFFFF0000#32 else 0#32
    cp15 := Cp15.reset s.pins.hivecsinit s.pins.bigendinit (if powerOn then pllReset else s.cp15.pll)
    itlb := Tlb.reset
    dtlb := Tlb.reset
    icache := if powerOn then Cache.reset else s.icache.lockdown 0#6
    dcache := if powerOn then Cache.reset else s.dcache.lockdown 0#6
    wbuf := []
    castout := none
    hum := none
    prefetch := []
    pm := resetPm s
    dbg := resetDebug s
    run := .running
    cpHistory := []
    freeCount := s.freeCount + 64 }

/-- A soft reset (spec/70 R983). A SHUTDOWN that removed the power is left by a power-on reset only (spec/62 R952), so that a
soft reset has no effect there; in emulation mode the power manager issues a soft reset (spec/62 R953, R954; log 23). -/
def handleSoftReset (s : State) : Outcome State :=
  if s.run = .poweredDown ∧ s.pm.ackState.extractLsb' 2 2 = 0#2 ∧ s.pm.ackEmul = false then .next s
  else .next (coreReset false s)

/-- Does a move of a reset pin act? Its fall does, and without power its rise too, with which the power is back (spec/62 R960). -/
def resetActs (off old new : Bool) : Bool := if off then old != new else old && !new

/-- HRESETN and SFRESETN move (spec/70 R980, R981): HRESETN falls with SFRESETN, a power-on reset; SFRESETN falls alone, a soft
reset; a rise ends the reset, and of SFRESETN the host's right to remove the power. A pin that was held LOW when the power went acts
when it rises, the voltage being back (spec/62 R960; that it acts then is a DESIGN CHOICE, log 23). -/
def handleResetPins (hresetn sfresetn : Bool) (s : State) : Outcome State :=
  let s1 : State := { s with pins := { s.pins with hresetn := hresetn, sfresetn := sfresetn } }
  let off := s.run == .poweredDown
  if !hresetn && sfresetn then .refused .hresetAlone
  else if resetActs off s.pins.hresetn hresetn then .next (coreReset true s1)
  else if resetActs off s.pins.sfresetn sfresetn then handleSoftReset s1
  else .next { s1 with pm := { s1.pm with powerOff := s.pm.powerOff && (s.pins.sfresetn || !sfresetn) } }

/-- HRESETN and SFRESETN are HIGH. -/
def resetReleased (s : State) : State := { s with pins := { s.pins with hresetn := true, sfresetn := true } }

/-- One more instruction is prefetched, while there is room (spec/22 R373; spec/20 R231: PREFETCH_DEPTH = 5 beyond the next
instruction) and the bus is granted. -/
def prefetchMore (s : State) : Outcome State :=
  if s.run == .running && !s.halted && !s.inReset && s.pm.pending.isNone && decide (s.prefetch.length < 6) then
    match fetchBehind s.prefetch s with
    | .ok (some (p, s1)) => if granted s s1 then .next { s1 with prefetch := s1.prefetch ++ [p] } else .next s
    | .ok none => .next s
    | .error r => .refused r
  else .next s

/-- One move of the outside world. -/
def handleEvent (e : Event) (s : State) : Outcome State :=
  match e with
  | .nfiq high => .next { s with pins := { s.pins with nfiq := high } }
  | .nirq high => .next { s with pins := { s.pins with nirq := high } }
  | .isync high => .next { s with pins := { s.pins with isync := high } }
  | .edbgrq high => .next { s with pins := { s.pins with edbgrq := high } }
  | .hgrantd high => .next { s with pins := { s.pins with hgrantd := high } }
  | .hgranti high => .next { s with pins := { s.pins with hgranti := high } }
  | .cpbusye high => .next { s with pins := { s.pins with cpbusye := high } }
  | .pconfigout v => .next { s with pins := { s.pins with pconfigout := v } }
  | .powerOnReset => .next (coreReset true (resetReleased s))
  | .softReset => handleSoftReset (resetReleased s)
  | .hresetAlone => .refused .hresetAlone
  | .ntrst => .next { s.tapReset with pins := { s.pins with ntrst := true } }
  | .resetPins hresetn sfresetn => handleResetPins hresetn sfresetn s
  | .ntrstPin high => .next { (if high then s else s.tapReset) with pins := { s.pins with ntrst := high } }
  | .tck tms tdi => if s.run = .poweredDown ∨ s.pins.ntrst = false then .next s else tckEdge tms tdi s
  | .pmTxAck => handlePmTxAck s
  | .pmRxAck state emul => handlePmRxAck state emul s
  | .powerOff => handlePowerOff s
  | .otherMaster pa v => .next (otherMasterWrite pa v s)
  | .otherMasterLater i => .next { s with intruders := s.intruders ++ [i] }
  | .drain => if s.run = .poweredDown then .next s else .next (drainOne s)
  | .prefetch => prefetchMore s
  | .quiet => processorStep s

/-- One step: the next move of the outside world, or with none left a step of the processor. -/
def stepBody (s : State) : Outcome State :=
  match s.inputs with
  | e :: rest => handleEvent e { s with inputs := rest }
  | [] => processorStep s

/-- Where the bytes of an instruction word are stored: consecutive bytes from an address, lowest first. -/
def storeBytes : List Byte → Nat → List Host.Cell → List Host.Cell
  | [], _, m => m
  | b :: rest, a, m => storeBytes rest (a + 1) (Memory.write m a b)

/-- The physical address a fetch reads with the MMU off: the process ID still relocates (spec/20 R213), and a halfword of
big-endian memory is at XOR 2 (spec/20 R204). -/
def fetchPlace (s : State) (thumb : Bool) : Nat :=
  (laneAddr s.big (if thumb then .half else .word) (relocate s.cp15.pid s.pc)).toNat

end Sys2Proof.Machine
end

