-- ==== Sys2Proof/Machine/Step.lean ====
section
/-!
DEFINITION. The step function, and the placing of one instruction where the step fetches next.
-/
namespace Sys2Proof.Machine

/-- One step of the machine. -/
def step (s : State) : Host.Outcome State Fault Refusal := stepBody s

/-- The same state with an instruction of `nbits` bits stored where the next fetch reads it, in the state (ARM or Thumb)
it belongs to, and nothing prefetched (notes/assumptions/25.md). -/
def State.withFetchWord (s : State) (nbits w : Nat) : State :=
  let thumb := nbits == 16
  let s1 := s.setThumb thumb
  { s1 with
    mem := storeBytes (bytesOf (nbits / 8) w) (fetchPlace s1 thumb) s1.mem
    prefetch := [] }

end Sys2Proof.Machine
end

