-- ==== Sys2Proof/Safety.lean ====
section
/-!
DEFINITION. What counts as a sound state and as a safe run of an instruction, and the vocabulary of the statements: when an
instruction has its effect, what it may write, and where a load or store goes.
-/
namespace Sys2Proof.Machine

/-- Reserved bits [26:8] of a status register are zero (spec/10 R46). -/
def reservedClear (w : Word) : Bool := (w &&& 0x07FFFF00#32) == 0#32

/-- What every step keeps: memory in its canonical form, a legal mode, reserved bits of the status registers zero, and an
even pc (spec/10 R34, R44, R46). -/
def State.sound (s : State) : Bool :=
  Memory.wf s.mem && legalMode s.mode && reservedClear s.cpsr && s.spsr.toList.all reservedClear && !s.pc.getLsbD 0

/-- No debug unit takes part: debugging is disabled and the processor is not in debug state. -/
def State.noDebug (s : State) : Bool := !s.debugEnabled && !s.halted

/-- Memory is reached directly: MMU, DCache and alignment checking off, no buffered write, all of memory RAM, as right after reset
(spec/70 R988), and no write of another bus master to come. -/
def State.plain (s : State) : Bool :=
  !s.mmuOn && !s.dcacheOn && !s.alignOn && s.wbuf.isEmpty && s.castout.isNone && s.memMap.isEmpty && s.noDebug
    && s.intruders.isEmpty

/-- Data accesses go straight to the bus, whatever the MMU does: the DCache is off, no write waits, and no other bus master is about
to write. -/
def State.uncached (s : State) : Bool := !s.dcacheOn && s.wbuf.isEmpty && s.castout.isNone && s.intruders.isEmpty

/-- The instruction at the pc is not the last of the address space (spec/10 R35), or it comes from the ITR in debug state,
where the pc is not incremented (spec/61 R911): it can be completed. -/
def State.canAdvance (s : State) : Bool :=
  s.halted || s.pc != (if s.thumb then 0xFFFFFFFE#32 else 0xFFFFFFFC#32)

/-- The state after an instruction that only moves on; in debug state the pc stays. -/
def State.moveOn (s : State) : State := { s with pc := if s.halted then s.pc else s.pc + s.instrSize }

/-- The condition of a conditional instruction (spec/30 R420, R422); BKPT has none that may fail (spec/45 R676), and of
the Thumb instructions only B has one (spec/31). -/
def condOf : Instr → Option Cond
  | .mrs c .. | .msrReg c .. | .bx c .. | .clz c .. | .blxReg c .. | .qadd c .. | .qsub c .. | .qdadd c ..
  | .qdsub c .. | .smlaxy c .. | .smlawy c .. | .smulwy c .. | .smlalxy c .. | .smulxy c .. | .undMiscA c ..
  | .undMiscB c .. | .mul c .. | .mla c .. | .umull c .. | .umlal c .. | .smull c .. | .smlal c .. | .swp c ..
  | .swpb c .. | .undMul c .. | .strh c .. | .ldrh c .. | .ldrd c .. | .ldrsb c .. | .strd c .. | .ldrsh c ..
  | .undMsr c .. | .msrImm c .. | .and c .. | .eor c .. | .sub c .. | .rsb c .. | .add c .. | .adc c .. | .sbc c ..
  | .rsc c .. | .tst c .. | .teq c .. | .cmp c .. | .cmn c .. | .orr c .. | .mov c .. | .bic c .. | .mvn c ..
  | .undMedia c .. | .ldrt c .. | .ldrbt c .. | .strt c .. | .strbt c .. | .ldr c .. | .ldrb c .. | .str c ..
  | .strb c .. | .ldm1 c .. | .ldm2 c .. | .ldm3 c .. | .stm1 c .. | .stm2 c .. | .b c _ | .bl c _ | .undCpExt c ..
  | .mcrr c .. | .mrrc c .. | .ldc c _ | .stc c _ | .cdp c _ | .mcr c _ | .mrc c _ | .swi c _ | .tBcond c _ => some c
  | _ => none

/-- The register restrictions of an instruction: a violation is UNPREDICTABLE (spec/30 R440 and the rule of each
instruction). Those of a coprocessor instruction apply only once it is accepted, and an LDRD or STRD with an odd Rd is
Undefined (log 16): they are not here. -/
def operandsAllowed : Instr → Bool
  | .pld u rn off => mode2Allowed ⟨true, u, false, rn⟩ off
  | .mrs _ _ _ rd _ _ => rd != regPc
  | .msrReg _ _ _ _ _ rm => rm != regPc
  | .clz _ _ rd _ rm => rd != regPc && rm != regPc
  | .blxReg _ _ _ _ rm | .tBlxReg rm _ => rm != regPc
  | .qadd _ rn rd _ rm | .qsub _ rn rd _ rm | .qdadd _ rn rd _ rm | .qdsub _ rn rd _ rm => noPc [rn, rd, rm]
  | .smlaxy _ rd rn rs _ _ rm | .smlawy _ rd rn rs _ rm => noPc [rd, rn, rs, rm]
  | .smulwy _ rd _ rs _ rm | .smulxy _ rd _ rs _ _ rm => noPc [rd, rs, rm]
  | .smlalxy _ hi lo rs _ _ rm => noPc [hi, lo, rs, rm] && hi != lo
  | .mul _ _ rd _ rs rm => noPc [rd, rs, rm] && rd != rm
  | .mla _ _ rd rn rs rm => noPc [rd, rn, rs, rm] && rd != rm
  | .umull _ _ hi lo rs rm | .umlal _ _ hi lo rs rm | .smull _ _ hi lo rs rm | .smlal _ _ hi lo rs rm =>
    noPc [hi, lo, rs, rm] && hi != lo && hi != rm && lo != rm
  | .swp _ rn rd _ rm | .swpb _ rn rd _ rm => noPc [rn, rd, rm] && rn != rm && rn != rd
  | .strh _ ix rd off => mode3Allowed ix off && rd != regPc
  | .ldrh _ ix rd off | .ldrsb _ ix rd off | .ldrsh _ ix rd off => mode3Allowed ix off && loadAllowed ix rd && rd != regPc
  | .ldrd _ ix rd off => rd.getLsbD 0 || (mode3Allowed ix off && pairAllowed rd && ldrdAllowed ix rd off)
  | .strd _ ix rd off => rd.getLsbD 0 || (mode3Allowed ix off && pairAllowed rd && ldrdAllowed ix rd off)
  | .and _ _ rn rd op | .eor _ _ rn rd op | .sub _ _ rn rd op | .rsb _ _ rn rd op | .add _ _ rn rd op
  | .adc _ _ rn rd op | .sbc _ _ rn rd op | .rsc _ _ rn rd op | .orr _ _ rn rd op | .bic _ _ rn rd op =>
    op2Allowed op rn rd
  | .tst _ rn _ op | .teq _ rn _ op | .cmp _ rn _ op | .cmn _ rn _ op => op2Allowed op rn 0#4
  | .mov _ _ _ rd op | .mvn _ _ _ rd op => op2Allowed op 0#4 rd
  | .ldrt _ u rn rd off | .ldrbt _ u rn rd off =>
    mode2Allowed (postIndex u rn) off && loadAllowed (postIndex u rn) rd && rd != regPc
  | .strt _ u rn _ off => mode2Allowed (postIndex u rn) off
  | .strbt _ u rn rd off => mode2Allowed (postIndex u rn) off && rd != regPc
  | .ldr _ ix rd off => mode2Allowed ix off && loadAllowed ix rd
  | .ldrb _ ix rd off => mode2Allowed ix off && loadAllowed ix rd && rd != regPc
  | .str _ ix _ off => mode2Allowed ix off
  | .strb _ ix rd off => mode2Allowed ix off && rd != regPc
  | .ldm1 _ ix list => ldmAllowed ix list
  | .ldm2 _ ix list => multipleAllowed ix (0#1 ++ list)
  | .ldm3 _ ix list => ldmAllowed ix (1#1 ++ list)
  | .stm1 _ ix list | .stm2 _ ix list => multipleAllowed ix list
  | .tAddHi rm rd | .tMovHi rm rd => oneHigh rm rd
  | .tCmpHi rm rn => oneHigh rm rn && rn != regPc
  | .tPush r list => pushList r list != 0#16
  | .tPop r list => popList r list != 0#16
  | .tStmia _ list | .tLdmia _ list => list != 0#8
  | _ => true

namespace State

/-- The instruction's condition holds, or it has none (spec/30 R422). -/
def condHolds (s : State) (i : Instr) : Bool :=
  match condOf i with
  | some c => s.passes c
  | none => true

/-- The condition holds, the should-be fields and the register restrictions are kept: the instruction has its effect. -/
def runs (s : State) (i : Instr) : Bool := s.condHolds i && i.regular && operandsAllowed i

/-- The instruction has its effect and the next one follows it. -/
def ready (s : State) (i : Instr) : Bool := s.runs i && s.canAdvance

/-- A result goes to a register and, if `flags`, N and Z of it, C and V to the CPSR (spec/40 R500). -/
def write (s : State) (flags : Bool) (rd : Reg) (v : Word) (c o : Bool) : State :=
  (if flags then s.setNZCV v.msb (v == 0#32) c o else s).setReg rd v

/-- The result of exact arithmetic, narrowed: V says that narrowing changed it (spec/40 R501). -/
def writeExact (s : State) (flags : Bool) (rd : Reg) (exact : Int) (c : Bool) : State :=
  s.write flags rd (BitVec.ofInt 32 exact) c ((BitVec.ofInt 32 exact).toInt != exact)

/-- The flags of exact arithmetic (spec/40 R501, R512, R513). -/
def compareExact (s : State) (exact : Int) (c : Bool) : State :=
  s.setNZCV (BitVec.ofInt 32 exact).msb (BitVec.ofInt 32 exact == 0#32) c ((BitVec.ofInt 32 exact).toInt != exact)

/-- What an MCR sends: the register, or for r15 a free value (spec/46 R705; log 30). -/
def sent (s : State) (rd : Reg) : Word := if rd = regPc then s.freeVal else s.reg rd

/-- The state an MCR is carried out in: its free value is used up. -/
def sending (s : State) (rd : Reg) : State := if rd = regPc then s.useFree else s

/-- The answer of an MRC goes to Rd, or its top four bits to the flags for r15 (spec/46 R706, R707). -/
def receive (s : State) (rd : Reg) (v : Word) : State :=
  if rd = regPc then s.setNZCV (v.getLsbD 31) (v.getLsbD 30) (v.getLsbD 29) (v.getLsbD 28) else s.setReg rd v

/-- The word at a virtual address of plain memory (spec/20 R202, R204, R210). -/
def wordAt (s : State) (va : Word) : Word := physRead s.mem s.big .word (relocate s.cp15.pid va)

end State

/-- Words stored one after the other from a virtual address (spec/44 R654). -/
def storeWords (big : Bool) (pid : BitVec 7) : List Word → Word → List Host.Cell → List Host.Cell
  | [], _, m => m
  | v :: vs, va, m => storeWords big pid vs (va + 4#32) (physWrite m big .word (relocate pid va) v)

/-- The bytes that `n` words from a virtual address occupy (spec/20 R204). -/
def wordBytes (big : Bool) (pid : BitVec 7) : Nat → Word → List Nat
  | 0, _ => []
  | n + 1, va => storedBytes big .word (relocate pid va) ++ wordBytes big pid n (va + 4#32)

/-- The words at `n` word addresses from a virtual address on. -/
def wordsFrom (s : State) : Nat → Word → List Word
  | 0, _ => []
  | n + 1, va => s.wordAt va :: wordsFrom s n (va + 4#32)

/-- The registers an instruction without a memory access writes, where its effect is on registers and flags only and it
does not write the pc (spec/40, spec/41, spec/47); `none` for every other instruction. -/
def dataDests : Instr → Option (List Reg)
  | .and _ _ _ rd _ | .eor _ _ _ rd _ | .sub _ _ _ rd _ | .rsb _ _ _ rd _ | .add _ _ _ rd _ | .adc _ _ _ rd _
  | .sbc _ _ _ rd _ | .rsc _ _ _ rd _ | .orr _ _ _ rd _ | .bic _ _ _ rd _ | .mov _ _ _ rd _ | .mvn _ _ _ rd _
  | .tAddHi _ rd | .tMovHi _ rd => if rd = regPc then none else some [rd]
  | .tst .. | .teq .. | .cmp .. | .cmn .. => some []
  | .clz _ _ rd _ _ | .qadd _ _ rd _ _ | .qsub _ _ rd _ _ | .qdadd _ _ rd _ _ | .qdsub _ _ rd _ _ => some [rd]
  | .mul _ _ rd _ _ _ | .mla _ _ rd _ _ _ | .smulxy _ rd _ _ _ _ _ | .smlaxy _ rd _ _ _ _ _ | .smulwy _ rd _ _ _ _
  | .smlawy _ rd _ _ _ _ => some [rd]
  | .umull _ _ hi lo _ _ | .umlal _ _ hi lo _ _ | .smull _ _ hi lo _ _ | .smlal _ _ hi lo _ _
  | .smlalxy _ hi lo _ _ _ _ => some [hi, lo]
  | .tAddReg _ _ rd | .tSubReg _ _ rd | .tAddImm3 _ _ rd | .tSubImm3 _ _ rd | .tLslImm _ _ rd | .tLsrImm _ _ rd
  | .tAsrImm _ _ rd | .tMovImm rd _ | .tAddImm8 rd _ | .tSubImm8 rd _ | .tAnd _ rd | .tEor _ rd | .tLslReg _ rd
  | .tLsrReg _ rd | .tAsrReg _ rd | .tAdc _ rd | .tSbc _ rd | .tRor _ rd | .tNeg _ rd | .tOrr _ rd | .tMul _ rd
  | .tBic _ rd | .tMvn _ rd | .tAddPc rd _ | .tAddSpRd rd _ => some [lo rd]
  | .tCmpImm .. | .tTst .. | .tCmpReg .. | .tCmn .. | .tCmpHi .. => some []
  | .tAddSp _ | .tSubSp _ => some [regSp]
  | .tBlPrefix _ => some [regLr]
  | _ => none

/-- The bits of the CPSR such an instruction writes (spec/40 R500, R530; spec/41 R551; spec/47 R774). -/
def dataFlags : Instr → List Nat
  | .and _ s _ _ _ | .eor _ s _ _ _ | .orr _ s _ _ _ | .bic _ s _ _ _ | .mov _ s _ _ _ | .mvn _ s _ _ _ =>
    if s then [31, 30, 29] else []
  | .sub _ s _ _ _ | .rsb _ s _ _ _ | .add _ s _ _ _ | .adc _ s _ _ _ | .sbc _ s _ _ _ | .rsc _ s _ _ _ =>
    if s then [31, 30, 29, 28] else []
  | .tst .. | .teq .. => [31, 30, 29]
  | .cmp .. | .cmn .. => [31, 30, 29, 28]
  | .qadd .. | .qsub .. | .qdadd .. | .qdsub .. | .smlaxy .. | .smlawy .. => [27]
  | .mul _ s _ _ _ _ | .mla _ s _ _ _ _ | .umull _ s _ _ _ _ | .umlal _ s _ _ _ _ | .smull _ s _ _ _ _
  | .smlal _ s _ _ _ _ => if s then [31, 30] else []
  | .tAddReg .. | .tSubReg .. | .tAddImm3 .. | .tSubImm3 .. | .tCmpImm .. | .tAddImm8 .. | .tSubImm8 .. | .tAdc ..
  | .tSbc .. | .tNeg .. | .tCmpReg .. | .tCmn .. | .tCmpHi .. => [31, 30, 29, 28]
  | .tLslImm .. | .tLsrImm .. | .tAsrImm .. | .tLslReg .. | .tLsrReg .. | .tAsrReg .. | .tRor .. => [31, 30, 29]
  | .tMovImm .. | .tAnd .. | .tEor .. | .tTst .. | .tOrr .. | .tMul .. | .tBic .. | .tMvn .. => [31, 30]
  | _ => []

/-- The address and size of a single store, with its privilege: what the meanings compute (spec/43 R600, R601, R612;
spec/48 R800-R806). -/
def storeTarget (s : State) : Instr → Option (Word × BusSize × Bool)
  | .str _ ix _ off => some (indexAddress ix (offset2 off s) s, .word, s.priv)
  | .strb _ ix _ off => some (indexAddress ix (offset2 off s) s, .byte, s.priv)
  | .strt _ u rn _ off => some (indexAddress (postIndex u rn) (offset2 off s) s, .word, false)
  | .strbt _ u rn _ off => some (indexAddress (postIndex u rn) (offset2 off s) s, .byte, false)
  | .strh _ ix _ off => some (indexAddress ix (offset3 off s) s, .half, s.priv)
  | .tStrReg rm rn _ => some (regAddress rm rn s, .word, s.priv)
  | .tStrhReg rm rn _ => some (regAddress rm rn s, .half, s.priv)
  | .tStrbReg rm rn _ => some (regAddress rm rn s, .byte, s.priv)
  | .tStrImm imm rn _ => some (immAddress imm 2 rn s, .word, s.priv)
  | .tStrbImm imm rn _ => some (immAddress imm 0 rn s, .byte, s.priv)
  | .tStrhImm imm rn _ => some (immAddress imm 1 rn s, .half, s.priv)
  | .tStrSp _ imm => some (spAddress imm s, .word, s.priv)
  | _ => none

/-- The address, size and privilege of a single load: what the meanings compute (spec/43 R600, R601, R612; spec/48
R790-R799). -/
def loadTarget (s : State) : Instr → Option (Word × BusSize × Bool)
  | .ldr _ ix _ off => some (indexAddress ix (offset2 off s) s, .word, s.priv)
  | .ldrb _ ix _ off => some (indexAddress ix (offset2 off s) s, .byte, s.priv)
  | .ldrt _ u rn _ off => some (indexAddress (postIndex u rn) (offset2 off s) s, .word, false)
  | .ldrbt _ u rn _ off => some (indexAddress (postIndex u rn) (offset2 off s) s, .byte, false)
  | .ldrh _ ix _ off | .ldrsh _ ix _ off => some (indexAddress ix (offset3 off s) s, .half, s.priv)
  | .ldrsb _ ix _ off => some (indexAddress ix (offset3 off s) s, .byte, s.priv)
  | .tLdrPc _ imm => some (literalBase s + (imm.zeroExtend 32 <<< 2), .word, s.priv)
  | .tLdrsbReg rm rn _ | .tLdrbReg rm rn _ => some (regAddress rm rn s, .byte, s.priv)
  | .tLdrReg rm rn _ => some (regAddress rm rn s, .word, s.priv)
  | .tLdrhReg rm rn _ | .tLdrshReg rm rn _ => some (regAddress rm rn s, .half, s.priv)
  | .tLdrImm imm rn _ => some (immAddress imm 2 rn s, .word, s.priv)
  | .tLdrbImm imm rn _ => some (immAddress imm 0 rn s, .byte, s.priv)
  | .tLdrhImm imm rn _ => some (immAddress imm 1 rn s, .half, s.priv)
  | .tLdrSp _ imm => some (spAddress imm s, .word, s.priv)
  | _ => none

/-- The result of a data-processing instruction with a destination: its S bit, its destination and the value (spec/40
R500, R502-R509, R514-R517). -/
def dataResult (s : State) : Instr → Option (Bool × Reg × Word)
  | .and _ f rn rd op => some (f, rd, s.reg rn &&& (shifterOperand op s).value)
  | .eor _ f rn rd op => some (f, rd, s.reg rn ^^^ (shifterOperand op s).value)
  | .sub _ f rn rd op => some (f, rd, s.reg rn - (shifterOperand op s).value)
  | .rsb _ f rn rd op => some (f, rd, (shifterOperand op s).value - s.reg rn)
  | .add _ f rn rd op => some (f, rd, s.reg rn + (shifterOperand op s).value)
  | .adc _ f rn rd op => some (f, rd, s.reg rn + (shifterOperand op s).value + (if s.flagC then 1#32 else 0#32))
  | .sbc _ f rn rd op => some (f, rd, s.reg rn - (shifterOperand op s).value - (if s.flagC then 0#32 else 1#32))
  | .rsc _ f rn rd op => some (f, rd, (shifterOperand op s).value - s.reg rn - (if s.flagC then 0#32 else 1#32))
  | .orr _ f rn rd op => some (f, rd, s.reg rn ||| (shifterOperand op s).value)
  | .mov _ f _ rd op => some (f, rd, (shifterOperand op s).value)
  | .bic _ f rn rd op => some (f, rd, s.reg rn &&& ~~~(shifterOperand op s).value)
  | .mvn _ f _ rd op => some (f, rd, ~~~(shifterOperand op s).value)
  | _ => none

/-- What a single store writes: of the register's value the low bytes of its size (spec/43 R606, R614-R617, R623; spec/48
R800-R806). -/
def storeData (s : State) : Instr → Word
  | .str _ _ rd _ | .strt _ _ _ rd _ => if rd = regPc then s.pc + (if Config.storePcIs12 then 12#32 else 8#32) else s.reg rd
  | .strb _ _ rd _ | .strbt _ _ _ rd _ | .strh _ _ rd _ => s.reg rd
  | .tStrReg _ _ rd | .tStrhReg _ _ rd | .tStrbReg _ _ rd | .tStrImm _ _ rd | .tStrbImm _ _ rd | .tStrhImm _ _ rd
  | .tStrSp rd _ => s.reg (lo rd)
  | _ => 0#32

/-- What a store of several words gives to `memWriteMany`, as the meanings compute it: how its accesses are made, the words, the
address of the first, and the state they are stored in (spec/43 R625; spec/44 R654, R655; spec/46 R722; spec/48 R809, R810). -/
def storeMany (s : State) : Instr → Option (Multiple × List Word × Word × State)
  | .strd _ ix rd off => some (.ordinary s.priv, [s.reg rd, s.reg (pairHigh rd)], indexAddress ix (offset3 off s) s, s)
  | .stm1 _ ix list => some (runOf ix list)
  | .stm2 _ ix list =>
    some (userTransfer s.priv, (listRegs list).map (storeValueIn s .usr), multipleStart ix list (s.reg ix.rn), s)
  | .tPush r list => some (runOf ⟨true, false, true, regSp⟩ (pushList r list))
  | .tStmia rn list => some (runOf ⟨false, true, true, lo rn⟩ (0#8 ++ list))
  | .stc _ f => if f.cp = 14#4 ∧ f.crd = 5#4 then some (cpMultiple false s, [s.dbg.rdtr], cpStart f s, s) else none
  | _ => none
where
  /-- STM(1), PUSH and STMIA. -/
  runOf (ix : Index) (list : BitVec 16) : Multiple × List Word × Word × State :=
    (.ordinary s.priv, (listRegs list).map (stmValue ix list s), multipleStart ix list (s.reg ix.rn), stmFree ix list s)

/-- The bytes a store of a word or of a pair of words writes at a physical address (spec/20 R204, R205). -/
def wideBytes (big : Bool) (size : BusSize) (pa : Word) : List Nat :=
  match size with
  | .dword => storedBytes big .word (alignDown .dword pa) ++ storedBytes big .word (alignDown .dword pa + 4#32)
  | _ => storedBytes big size pa

/-- The bytes that the transfers of `writeRun` write: each at the physical address that its own address translates to when the
transfers before it are done, up to the one that aborts (spec/20 R211; spec/44 R654). -/
def writtenBytes (m : Multiple) : List Word → Bool → Word → State → List Nat
  | [], _, _, _ => []
  | [v], first, va, s =>
    match locate va true m.priv s, memWriteWide va .word (v.zeroExtend 64) (m.access first va) (runBurst first va 1 0) s with
    | .ok loc _, .ok () _ => wideBytes s.big .word loc.pa
    | _, _ => []
  | v :: w :: rest, first, va, s =>
    if m.pairAt va then
      match locate va true m.priv s,
        memWriteWide va .dword (w ++ v) (m.access first va) (runBurst first va 2 rest.length) s with
      | .ok loc _, .ok () s1 => wideBytes s.big .dword loc.pa ++ writtenBytes m rest false (va + 8#32) s1
      | _, _ => []
    else
      match locate va true m.priv s,
        memWriteWide va .word (v.zeroExtend 64) (m.access first va) (runBurst first va 1 (rest.length + 1)) s with
      | .ok loc _, .ok () s1 => wideBytes s.big .word loc.pa ++ writtenBytes m (w :: rest) false (va + 4#32) s1
      | _, _ => []

/-- How many bytes a transfer has (spec/23 R394). -/
def BusSize.bytes : BusSize → Nat
  | .byte => 1 | .half => 2 | .word => 4 | .dword => 8

/-- The lowest byte that a transfer reaches, in the word-invariant byte order (spec/20 R204, R205): big-endian, a byte is at XOR 3 and
a halfword at XOR 2 of its address. -/
def transferBase (big : Bool) (size : BusSize) (pa : Word) : Nat :=
  match size with
  | .byte => (pa ^^^ (if big then 3#32 else 0#32)).toNat
  | .half => ((pa &&& 0xFFFFFFFE#32) ^^^ (if big then 2#32 else 0#32)).toNat
  | .word => (pa &&& 0xFFFFFFFC#32).toNat
  | .dword => (pa &&& 0xFFFFFFF8#32).toNat

/-- So many drains of the buffers, one after the other (spec/22 R350, R352). -/
def drains : Nat → State → State
  | 0, s => s
  | n + 1, s => drains n (drainOne s)

/-- What a linefill of an address makes of a cache (spec/22 R330, R340): the line is at the victim of its segment, every other line and
the base stay, and of the victim counters only the segment's moves: round-robin, or to some value from the base on. -/
def Cache.filledWith (old new : Cache) (roundRobin : Bool) (mva : Word) (l : CacheLine) : Prop :=
  let v := old.victim[(segOf mva).toNat]'(segOf mva).isLt
  let v' := new.victim[(segOf mva).toNat]'(segOf mva).isLt
  new.lookup mva = some (v, l) ∧ new.base = old.base ∧
  (∀ g k, ¬(g = segOf mva ∧ k = v) → new.line g k = old.line g k) ∧
  (∀ g : BitVec 4, g ≠ segOf mva → new.victim[g.toNat]'g.isLt = old.victim[g.toNat]'g.isLt) ∧
  (roundRobin = true → v' = if v = 63#6 then old.base else v + 1#6) ∧
  (roundRobin = false → old.base.toNat ≤ v'.toNat)

/-- The registers a load or store writes, apart from the pc: its destinations and its written-back base (spec/43, spec/44,
spec/45 R680, spec/48); `none` for an instruction that is not a load or store or that loads the pc. -/
def accessDests : Instr → Option (List Reg)
  | .ldr _ ix rd _ => if rd = regPc then none else some [rd, ix.rn]
  | .ldrb _ ix rd _ | .ldrh _ ix rd _ | .ldrsb _ ix rd _ | .ldrsh _ ix rd _ => some [rd, ix.rn]
  | .ldrt _ _ rn rd _ | .ldrbt _ _ rn rd _ => some [rd, rn]
  | .ldrd _ ix rd _ => if rd.getLsbD 0 then none else some [rd, rd + 1#4, ix.rn]
  | .str _ ix _ _ | .strb _ ix _ _ | .strh _ ix _ _ => some [ix.rn]
  | .strt _ _ rn _ _ | .strbt _ _ rn _ _ => some [rn]
  | .strd _ ix rd _ => if rd.getLsbD 0 then none else some [ix.rn]
  | .swp _ _ rd _ _ | .swpb _ _ rd _ _ => some [rd]
  | .pld .. => some []
  | .ldm1 _ ix list => if list.getLsbD 15 then none else some (ix.rn :: listRegs list)
  | .stm1 _ ix _ => some [ix.rn]
  | .stm2 .. => some []
  | .tLdrPc rd _ | .tLdrsbReg _ _ rd | .tLdrReg _ _ rd | .tLdrhReg _ _ rd | .tLdrbReg _ _ rd | .tLdrshReg _ _ rd
  | .tLdrImm _ _ rd | .tLdrbImm _ _ rd | .tLdrhImm _ _ rd | .tLdrSp rd _ => some [lo rd]
  | .tStrReg .. | .tStrhReg .. | .tStrbReg .. | .tStrImm .. | .tStrbImm .. | .tStrhImm .. | .tStrSp .. => some []
  | .tPush .. => some [regSp]
  | .tPop r list => if r then none else some (regSp :: listRegs (popList r list))
  | .tStmia rn _ => some [lo rn]
  | .tLdmia rn list => some (lo rn :: listRegs (0#8 ++ list))
  | _ => none

/-- What a Data Abort of an instruction that began in `s` leaves, when the access ended in `s1` with the abort `e` (spec/43
R603; spec/60 R860, R866, R868; spec/21 R298): the fault status, address and domain are recorded; the exception is taken with
r14_abt the address of the instruction plus 8, and no other register changes, the base included; in debug state no exception
is taken and the sticky bit is set (spec/61 R910). Memory is as the aborted access left it. -/
def dataAborted (s s1 : State) (e : AbortInfo) (t : State) : Prop :=
  t.mem = s1.mem ∧ t.cp15.dfar = e.va ∧ t.cp15.dfsr.extractLsb' 0 4 = e.status ∧
  (∀ d, e.domain = some d → t.cp15.dfsr.extractLsb' 4 4 = d) ∧
  t.cp15.ifar = s.pc + (if (if s.halted then s.dbg.dscr.getLsbD 28 else s.thumb) then 4#32 else 8#32) ∧
  (s.halted = false → t.pc = vectorBase s + 0x10#32 ∧ t.regIn .abt regLr = s.pc + 8#32 ∧ t.spsr[3] = s.cpsr ∧
    t.mode = 0x17#5 ∧ t.thumb = false ∧ t.cpsr.getLsbD 7 = true ∧
    ∀ k : Fin 30, k ≠ regIndex .abt regLr → t.regs[k] = s.regs[k]) ∧
  (s.halted = true → t.pc = s.pc ∧ t.regs = s.regs ∧ t.cpsr = s.cpsr ∧ t.dbg.dscr.getLsbD 5 = true)

/-- A load: it stores nothing (spec/43, spec/44, spec/48). -/
def isLoad : Instr → Bool
  | .ldr .. | .ldrb .. | .ldrt .. | .ldrbt .. | .ldrh .. | .ldrsb .. | .ldrsh .. | .ldrd .. | .ldm1 .. | .ldm2 ..
  | .ldm3 .. | .pld .. | .tLdrPc .. | .tLdrsbReg .. | .tLdrReg .. | .tLdrhReg .. | .tLdrbReg .. | .tLdrshReg ..
  | .tLdrImm .. | .tLdrbImm .. | .tLdrhImm .. | .tLdrSp .. | .tPop .. | .tLdmia .. => true
  | _ => false

/-- The UNDEFINED rows of the opcode table (spec/30 R429, R430, R434, R439; spec/31 R490). -/
def isUndefined : Instr → Bool
  | .undPld .. | .undExt2 .. | .undUncond .. | .undMiscA .. | .undMiscB .. | .undMul .. | .undMsr .. | .undMedia ..
  | .undCpExt .. | .tUnd1011 _ | .tUndCond _ | .tUndBlx _ => true
  | _ => false

/-- How many registers of a list are below a register: where its word stands (spec/44 R650). -/
def rankIn (list : BitVec 16) (r : Reg) : Nat := (List.range r.toNat).countP list.getLsbD

/-- What a store of a register writes: r15 as spec/43 R606 says (spec/92 D8). -/
def State.stored (s : State) (rd : Reg) : Word :=
  if rd = regPc then s.pc + (if Config.storePcIs12 then 12#32 else 8#32) else s.reg rd

/-- The processor comes to an instruction boundary with nothing else due: no move of the outside world, no reset held, no
low-power entry pending, running, no debug event and no interrupt (spec/60 R852, R872). -/
def State.quiet (s : State) : Bool :=
  s.inputs.isEmpty && !s.inReset && s.pm.pending.isNone && s.run == .running && s.noDebug && !fiqPending s && !irqPending s

/-- The state from which one instruction is run and nothing else happens: nothing prefetched or predicted, both bus masters
granted, and the fetch goes straight to RAM (spec/22 R373, R374; spec/23 R392). -/
def State.quietFetch (s : State) : Bool :=
  s.quiet && s.prefetch.isEmpty && !s.predictOn && s.pins.hgranti && s.pins.hgrantd && !s.mmuOn && !s.icacheOn
    && s.memMap.isEmpty

/-- The instruction bits at the pc of such a state (spec/20 R204, R213). -/
def State.codeAt (s : State) : Code :=
  if s.thumb then .thumb ((physRead s.mem s.big .half (relocate s.cp15.pid s.pc)).extractLsb' 0 16)
  else .arm (physRead s.mem s.big .word (relocate s.cp15.pid s.pc))

/-- That fetch's bus transaction: the instruction, or the aligned doubleword around it (spec/23 R394, R396, R400). -/
def State.fetchRecord (s : State) : BusRecord :=
  let pa := relocate s.cp15.pid s.pc
  let size := if s.thumb then BusSize.half else BusSize.word
  let wide := Config.wideFetch pa
  { master := .ibiu, write := false, pa := if wide then alignDown .dword pa else pa, size := if wide then .dword else size,
    data := if wide then physReadWide s.mem s.big .dword pa else (physRead s.mem s.big size pa).zeroExtend 64,
    hprot := hprot false s.priv false false, locked := false, burst := .single }

end Sys2Proof.Machine
end

