-- ==== Sys2Proof/Certificates/Slice0/Obligations.lean ====
section
/-!
DEFINITION. The statements for the provers. Shared vocabulary (`ready`, `write`, `plain`, `uncached`, …) is in Safety.lean.
`s.ready i` says that i's condition passes, its should-be fields and register restrictions are kept, and the pc has a
next address; the forms it leaves out are the subject of `Conditions` and `UnpredictableFormsRefused`.
-/
open Sys2Proof Sys2Proof.Machine

/-- Decoding the word of an instruction gives the instruction back, for every instruction that has a word and every value
of its fields (spec/30 R421-R440, spec/31). -/
def Obligations.DecodeInvertsEncode : Prop :=
  ∀ i : Instr, i.encodable = true → decode (encode i) = i

/-- The decoder drops no bit: the word of what a word decodes to is that word, in ARM and in Thumb state (spec/30
R421-R440, spec/31). -/
def Obligations.EncodeInvertsDecode : Prop :=
  (∀ w : Word, encode (decode (.arm w)) = .arm w) ∧ ∀ h : BitVec 16, encode (decode (.thumb h)) = .thumb h

/-- Words that the instructions' rules write out, or that are written out here bit by bit from the encodings of the rules,
decode to the instructions they stand for (spec/40 R502, R505; spec/41 R552; spec/42 R582; spec/43 R611; spec/44 R651; spec/45 R675;
spec/46 R725; spec/47 R740; spec/48 R790, R810). -/
def Obligations.DecodesSpecWords : Prop :=
  decode (.arm 0xE0010002#32) = .and .al false 1#4 0#4 (.shiftImm 0#5 .lsl 2#4) ∧
  decode (.arm 0xE2610000#32) = .rsb .al false 1#4 0#4 (.imm 0#4 0#8) ∧
  decode (.arm 0xE0000291#32) = .mul .al false 0#4 0#4 2#4 1#4 ∧
  decode (.arm 0b1110_0001_0010_1111_1111_1111_0001_1110#32) = .bx .al 15#4 15#4 15#4 14#4 ∧
  decode (.arm 0xE5D10003#32) = .ldrb .al ⟨true, true, false, 1#4⟩ 0#4 (.imm 3#12) ∧
  decode (.arm 0b1110_1000_1011_1101_1000_0000_0000_0001#32) = .ldm1 .al ⟨false, true, true, 13#4⟩ 0x8001#16 ∧
  decode (.arm 0b1110_1111_1111_0000_0000_0000_0000_0001#32) = .swi .al 0xF00001#24 ∧
  decode (.arm 0xEE070F90#32) = .mcr .al ⟨0#3, 7#4, 0#4, 15#4, 4#3, 0#4⟩ ∧
  decode (.thumb 0b00100_011_00000101#16) = .tMovImm 3#3 5#8 ∧
  decode (.thumb 0b01101_00010_001_000#16) = .tLdrImm 2#5 1#3 0#3 ∧
  decode (.thumb 0b1011010_1_00000001#16) = .tPush true 1#8

/-- A step runs the instruction that was decoded. (1) Where nothing else is due and the fetch goes straight to RAM, `step`
is `exec` of the instruction whose bytes lie at the pc, on the state with that fetch recorded, followed by `settle`.
(2) For any fetch, or an instruction from the prefetch buffer: the same, with the buffer as the branch prediction leaves it; an
instruction that a busy coprocessor holds, or whose transfers the bus is not granted for, waits in the buffer; so does the
fetch; and a fetch that aborted takes the Prefetch Abort with its status, the data-side fault registers kept. (3) Where no
watchpoint hit, `settle` empties the hit-under-miss buffer and, with the bus granted, drains, and nothing else where nothing is
buffered. (4) What a fetch answers: at the relocated address, or with the MMU on at the address that `translate` gives; the
instruction in memory where it is noncachable, with ERROR an abort; where it is cachable the line's on a hit, changing nothing, and
on a miss the one in memory, with the line filled; it drains nothing; a fault of the translation is an abort with its status; and
with an empty buffer the step's instruction is this fetch (spec/10 R35; spec/11 R133; spec/20 R213; spec/21 R299; spec/22 R323, R330,
R352, R373-R376; spec/23 R392, R410; spec/60 R867). The model's choices: what `settle` drains (log 9); what waits, and that it waits
in the buffer or changes nothing (logs 9, 40, 43); what `lookAhead` fetches and what `resolve` keeps of the buffer (log 10); the bus
record of the fetch, its HPROT (log 11) and size (log 46); and that a noncachable fetch, also one made as a doubleword over two
regions, takes the region kind of the instruction's own address (logs 12, 46). -/
def Obligations.StepRunsDecoded : Prop :=
  (∀ (s : State) (i : Instr), s.quietFetch = true → decode s.codeAt = i → busyWaits i s = false → writesPid i s = false →
    step s = match exec i (caughtHere (s.record s.fetchRecord)) with
      | .next t => .next (settle t)
      | .fault f => .fault f
      | .refused r => .refused r) ∧
  (∀ (s s1 : State) (p : Prefetched) (w : Word) (i : Instr), s.quiet = true → nextInstruction s = .ok (p, s1) →
    (granted s s1 = false → step s = .next s) ∧
    (∀ status : BitVec 4, granted s s1 = true → p.what = .abort status →
      ∃ t, step s = .next t ∧ t.cp15.ifsr.extractLsb' 0 4 = status ∧ t.cp15.dfsr = s.cp15.dfsr ∧ t.cp15.dfar = s.cp15.dfar ∧
        t.pc = vectorBase s + 0x0C#32 ∧ t.mode = 0x17#5 ∧ t.regIn .abt regLr = s.pc + 4#32 ∧ t.spsr[3] = s.cpsr ∧
        (∀ k : Fin 30, k ≠ regIndex .abt regLr → t.regs[k] = s.regs[k]) ∧ t.mem = s1.mem ∧ t.prefetch = []) ∧
    (granted s s1 = true → p.what = .word w → p.breakpoint = false → decode (fetchedCode s1.thumb w) = i →
      (busyWaits i s1 = true → step s = .next (hold p s1)) ∧
      (∀ s2 : State, busyWaits i s1 = false → lookAhead p i s1 = .ok s2 →
        (granted s1 s2 = false → step s = .next (hold p s1)) ∧
        (granted s1 s2 = true →
          step s = match exec i (caughtHere s2) with
            | .next t => .next (if granted s2 t then settle (resolve p.prediction s2.prefetch t) else hold p s2)
            | .fault f => .fault f
            | .refused r => .refused r)))) ∧
  (∀ t : State, t.dbg.watch = none →
    settle t = (if t.pins.hgrantd then drainAll { t with hum := none } else { t with hum := none }) ∧
    (t.wbuf = [] → t.castout = none → settle t = { t with hum := none })) ∧
  (∀ (s s1 : State) (va pa : Word) (thumb priv c b : Bool) (status : BitVec 4) (domain : Option (BitVec 4)), s.halted = false →
    let mva := relocate s.cp15.pid va
    -- the fetch, made at the physical address `a` once the translation has left `u`
    let answers : Word → Bool → State → Prop := fun a cachable u =>
      let code := physRead u.mem u.big (if thumb then .half else .word) a
      (cachable = false → u.intruders = [] →
        (kindAt u.memMap a.toNat = .ram ∨ kindAt u.memMap a.toNat = .rom →
          ∃ r, fetch va thumb priv s = .got (.word code) { u with bus := r :: u.bus } ∧ r.master = .ibiu ∧ r.write = false) ∧
        (kindAt u.memMap a.toNat = .error → ∃ r, fetch va thumb priv s = .got (.abort 10#4) { u with bus := r :: u.bus })) ∧
      (cachable = true →
        (∀ k l, u.icache.lookup mva = some (k, l) → fetch va thumb priv s = .got (.word (if thumb then
          (l.word mva >>> (if mva.getLsbD 1 = u.big then 0 else 16)) &&& 0xFFFF#32 else l.word mva)) u) ∧
        (u.icache.lookup mva = none → u.memMap = [] → u.intruders = [] →
          ∃ t l, fetch va thumb priv s = .got (.word code) t ∧
            t = { u with icache := t.icache, bus := t.bus, freeCount := t.freeCount } ∧
            u.icache.filledWith t.icache u.roundRobin mva l ∧
            ∀ x : Word, x.toNat / 32 = a.toNat / 32 → l.word x = physRead u.mem false .word x))
    (s.mmuOn = false → answers mva s.icacheOn s) ∧
    (s.mmuOn = true →
      (translate .instr mva false priv s = (.ok pa c b, s1) → answers pa (s.icacheOn && c) s1) ∧
      (translate .instr mva false priv s = (.fault status domain, s1) → fetch va thumb priv s = .got (.abort status) s1))) ∧
  (∀ (s t : State) (f : Fetched), s.prefetch = [] → fetch s.pc s.thumb s.priv s = .got f t →
    ∃ p, nextInstruction s = .ok (p, t) ∧ p.what = f ∧ p.addr = s.pc ∧ p.thumb = s.thumb)

/-- Every step keeps a state sound, whatever happens in it: memory in its canonical form, a legal mode, the reserved bits
of the CPSR and the SPSRs zero, the pc even (spec/10 R34, R44, R46; memory's form is the model's own, log 2). -/
def Obligations.SoundKept : Prop :=
  ∀ s t : State, s.sound = true → step s = .next t → t.sound = true

/-- The state after reset is sound (spec/10 R34, R44, R46, R48). -/
def Obligations.SoundAtReset : Prop := State.reset.sound = true

/-- What a core reset leaves, after a power-on or a soft reset (spec/70 R980, R982, R983, R985): Supervisor mode in ARM
state with interrupts masked at the vector HIVECSINIT selects; CP15 at its reset values; TLBs, lockdown registers, buffers
and the prefetch buffer empty; debugging disabled with every breakpoint and watchpoint; the caches empty after a power-on
reset and as they were after a soft one; the mailbox's registers clear (spec/11 R83) and the previous state requested (spec/62 R955);
the JTAG-owned bits of the DSCR and memory untouched. The model's choices: that a soft reset keeps the PLL register (log 38); that a
soft reset too withdraws an outstanding PMTXREQ and a pending entry to a low-power state, and that out of a SHUTDOWN without emulation
it has no effect (log 23; spec/62 R952 has such a SHUTDOWN left by a power-on reset only); that a reset which follows no removal of
power keeps T, MOE and DSCR[1], and that a reset empties the comms channels and drops a JTAG HALT (log 24). -/
def Obligations.CoreResetState : Prop :=
  (∀ (s : State) (rest : List Event) (powerOn : Bool),
    s.inputs = (if powerOn then Event.powerOnReset else Event.softReset) :: rest →
    (powerOn = false → ¬(s.run = .poweredDown ∧ s.pm.ackState.extractLsb' 2 2 = 0#2 ∧ s.pm.ackEmul = false)) →
    ∃ t, step s = .next t ∧ t.mode = 0x13#5 ∧ t.cpsr.getLsbD 7 = true ∧ t.cpsr.getLsbD 6 = true ∧ t.thumb = false ∧
      t.pc = (if s.pins.hivecsinit then 0xFFFF0000#32 else 0#32) ∧
      t.cp15.ctl = 0x78#32 + (if s.pins.hivecsinit then 0x2000#32 else 0#32) + (if s.pins.bigendinit then 0x80#32 else 0#32) ∧
      t.cp15.ttbr = 0#32 ∧ t.cp15.dacr = 0#32 ∧ t.cp15.dfsr = 0#8 ∧ t.cp15.ifsr = 0#8 ∧ t.cp15.dfar = 0#32 ∧
      t.cp15.ifar = 0#32 ∧ t.cp15.pid = 0#7 ∧ t.cp15.contextId = 0#32 ∧ t.cp15.cr2 = 0#5 ∧
      t.cp15.pll = (if powerOn then 0x0001C00F#32 else s.cp15.pll) ∧
      (∀ mva, t.itlb.matching mva = [] ∧ t.dtlb.matching mva = []) ∧
      t.itlb.lockWord = 0#32 ∧ t.dtlb.lockWord = 0#32 ∧ t.icache.base = 0#6 ∧ t.dcache.base = 0#6 ∧
      (∀ g : Fin 16, t.icache.victim[g] = 0#6 ∧ t.dcache.victim[g] = 0#6) ∧
      (powerOn = true → ∀ mva, t.icache.lookup mva = none ∧ t.dcache.lookup mva = none) ∧
      (powerOn = false → t.icache.lines = s.icache.lines ∧ t.dcache.lines = s.dcache.lines) ∧
      t.wbuf = [] ∧ t.castout = none ∧ t.hum = none ∧ t.prefetch = [] ∧
      t.pm.w = true ∧ t.pm.r = false ∧ t.pm.txEmul = false ∧ t.pm.txState = 0#4 ∧ t.pm.rxEmul = false ∧ t.pm.rxState = 0#4 ∧
      t.pm.txReq = false ∧ t.pm.pending = none ∧ t.pm.rxReq = s.pins.pmexists ∧
      t.debugEnabled = false ∧ t.halted = false ∧ t.dbg.dscr.extractLsb' 29 2 = s.dbg.dscr.extractLsb' 29 2 ∧
      t.dbg.dscr.getLsbD 27 = s.dbg.dscr.getLsbD 27 ∧ t.dbg.dscr.extractLsb' 16 8 = s.dbg.dscr.extractLsb' 16 8 ∧
      t.dbg.dscr.getLsbD 5 = s.dbg.dscr.getLsbD 5 ∧ t.commrx = false ∧ t.commtx = true ∧ t.dbg.haltReq = false ∧
      (s.run ≠ .poweredDown ∨ s.pm.ackEmul = true → t.dbg.dscr.getLsbD 28 = s.dbg.dscr.getLsbD 28 ∧
        t.dbg.dscr.extractLsb' 1 4 = s.dbg.dscr.extractLsb' 1 4) ∧
      (∀ k : Fin 6, t.dbg.bc[k].getLsbD 0 = false) ∧ (∀ k : Fin 2, t.dbg.wc[k].getLsbD 0 = false) ∧
      t.run = .running ∧ t.mem = s.mem ∧ t.pins = { s.pins with hresetn := true, sfresetn := true } ∧ t.tap = s.tap ∧
      t.inputs = rest) ∧
  (∀ (s : State) (rest : List Event), s.inputs = .softReset :: rest → s.run = .poweredDown →
    s.pm.ackState.extractLsb' 2 2 = 0#2 → s.pm.ackEmul = false →
    step s = .next { s with inputs := rest, pins := { s.pins with hresetn := true, sfresetn := true } })

/-- Banking (spec/10 R32): which modes select which bank; a register written under one bank is read under another exactly
when the two banks share it (r0 to r7 by all, r8 to r12 by all but FIQ, r13 and r14 by none); every other register keeps its
value; every bank but User's has an SPSR of its own; r15 is the same in all (R36: outside debug state it reads as the address
of the instruction plus 8, or plus 4 in Thumb state); a change of mode moves no register. -/
def Obligations.BankedRegisters : Prop :=
  (bankOf 0x10#5 = .usr ∧ bankOf 0x11#5 = .fiq ∧ bankOf 0x12#5 = .irq ∧ bankOf 0x13#5 = .svc ∧ bankOf 0x17#5 = .abt ∧
    bankOf 0x1B#5 = .und ∧ bankOf 0x1F#5 = .usr) ∧
  (∀ (s : State) (b b' : Bank) (r r' : Reg) (v : Word), r ≠ regPc → r' ≠ regPc →
    (s.setRegIn b r v).regIn b' r' =
      if r' = r ∧ (r.toNat ≤ 7 ∨ (r.toNat ≤ 12 ∧ (b = .fiq ↔ b' = .fiq)) ∨ b' = b) then v else s.regIn b' r') ∧
  (∀ (s : State) (b : Bank), s.halted = false → s.regIn b regPc = s.pc + (if s.thumb then 4#32 else 8#32)) ∧
  (∀ b b' : Bank, (spsrIndex b = none ↔ b = .usr) ∧ (spsrIndex b = spsrIndex b' → b = b')) ∧
  (∀ (s : State) (w : Word) (r : Reg), r ≠ regPc →
    ({ s with cpsr := w }.reg r = s.regIn (bankOf (w.extractLsb' 0 5)) r) ∧
    (∀ k, spsrIndex (bankOf (w.extractLsb' 0 5)) = some k → { s with cpsr := w }.readSpsr = s.spsr[k]))

/-- (1) The condition table. (2) An instruction whose condition fails has no effect but to move on; at the last address of the
address space there is nowhere to move on to, and the model refuses (spec/30 R422, R424; spec/10 R35; U1). -/
def Obligations.Conditions : Prop :=
  (∀ n z c v : Bool,
    (condPassed .eq n z c v = true ↔ z = true) ∧ (condPassed .ne n z c v = true ↔ z = false) ∧
    (condPassed .cs n z c v = true ↔ c = true) ∧ (condPassed .cc n z c v = true ↔ c = false) ∧
    (condPassed .mi n z c v = true ↔ n = true) ∧ (condPassed .pl n z c v = true ↔ n = false) ∧
    (condPassed .vs n z c v = true ↔ v = true) ∧ (condPassed .vc n z c v = true ↔ v = false) ∧
    (condPassed .hi n z c v = true ↔ c = true ∧ z = false) ∧ (condPassed .ls n z c v = true ↔ c = false ∨ z = true) ∧
    (condPassed .ge n z c v = true ↔ n = v) ∧ (condPassed .lt n z c v = true ↔ n ≠ v) ∧
    (condPassed .gt n z c v = true ↔ z = false ∧ n = v) ∧ (condPassed .le n z c v = true ↔ z = true ∨ n ≠ v) ∧
    condPassed .al n z c v = true) ∧
  (∀ (i : Instr) (c : Cond) (s : State), condOf i = some c → s.passes c = false →
    (s.canAdvance = true → exec i s = .next s.moveOn) ∧ (s.canAdvance = false → exec i s = .refused .pcWrap))

/-- What the spec makes UNPREDICTABLE is refused: a should-be field that is violated, and then a register restriction
that is violated, where the condition passes (spec/30 R440; treatment `refuse`, spec/93). -/
def Obligations.UnpredictableFormsRefused : Prop :=
  ∀ (i : Instr) (s : State), s.condHolds i = true →
    (i.regular = false → exec i s = .refused .shouldBeField) ∧
    (i.regular = true → operandsAllowed i = false → exec i s = .refused .operandRestriction)

/-- The shifter operand and its carry-out: immediates, shifts by an immediate with their special cases at 0, and shifts by
a register at 0, 1 to 31, 32 and beyond (spec/30 R426, R427, R428). -/
def Obligations.ShifterOperands : Prop :=
  ∀ s : State,
    (∀ (rot : BitVec 4) (imm8 : BitVec 8),
      let r := shifterOperand (.imm rot imm8) s
      (∀ k, k < 32 → r.value.getLsbD k = imm8.getLsbD ((k + 2 * rot.toNat) % 32)) ∧
      r.carry = if rot = 0#4 then s.flagC else r.value.getLsbD 31) ∧
    (∀ (a : BitVec 5) (rm : Reg),
      let m := s.reg rm
      let l := shifterOperand (.shiftImm a .lsl rm) s
      let r := shifterOperand (.shiftImm a .lsr rm) s
      let x := shifterOperand (.shiftImm a .asr rm) s
      let o := shifterOperand (.shiftImm a .ror rm) s
      (a = 0#5 → l = ⟨m, s.flagC⟩ ∧ r = ⟨0#32, m.getLsbD 31⟩ ∧
        x = ⟨if m.getLsbD 31 then 0xFFFFFFFF#32 else 0#32, m.getLsbD 31⟩ ∧
        o = ⟨(m >>> 1) ||| (if s.flagC then 0x80000000#32 else 0#32), m.getLsbD 0⟩) ∧
      (a ≠ 0#5 →
        l.value.toNat = m.toNat * 2 ^ a.toNat % 4294967296 ∧ l.carry = m.getLsbD (32 - a.toNat) ∧
        r.value.toNat = m.toNat / 2 ^ a.toNat ∧ r.carry = m.getLsbD (a.toNat - 1) ∧
        x.value.toInt = m.toInt / 2 ^ a.toNat ∧ x.carry = m.getLsbD (a.toNat - 1) ∧
        (∀ k, k < 32 → o.value.getLsbD k = m.getLsbD ((k + a.toNat) % 32)) ∧ o.carry = m.getLsbD (a.toNat - 1))) ∧
    (∀ rs rm : Reg,
      let m := s.reg rm
      let n := (s.reg rs).toNat % 256
      let l := shifterOperand (.shiftReg rs .lsl rm) s
      let r := shifterOperand (.shiftReg rs .lsr rm) s
      let x := shifterOperand (.shiftReg rs .asr rm) s
      let o := shifterOperand (.shiftReg rs .ror rm) s
      (n = 0 → l = ⟨m, s.flagC⟩ ∧ r = ⟨m, s.flagC⟩ ∧ x = ⟨m, s.flagC⟩ ∧ o = ⟨m, s.flagC⟩) ∧
      (n ≠ 0 → l.value.toNat = m.toNat * 2 ^ n % 4294967296 ∧ r.value.toNat = m.toNat / 2 ^ n ∧
        x.value.toInt = m.toInt / 2 ^ n ∧ (∀ k, k < 32 → o.value.getLsbD k = m.getLsbD ((k + n) % 32))) ∧
      (n ≠ 0 → n ≤ 32 → l.carry = m.getLsbD (32 - n) ∧ r.carry = m.getLsbD (n - 1)) ∧
      (32 < n → l.carry = false ∧ r.carry = false) ∧
      (n ≠ 0 → n < 32 → x.carry = m.getLsbD (n - 1)) ∧ (32 ≤ n → x.carry = m.getLsbD 31) ∧
      (n ≠ 0 → o.carry = m.getLsbD ((n + 31) % 32)))

/-- AND, EOR, ORR, BIC, MOV and MVN with a destination other than r15: the result goes to Rd; with S, N and Z are the
result's, C is the shifter's carry-out and V keeps its value; nothing else changes (spec/40 R500, R502, R503, R514-R517). -/
def Obligations.LogicalResults : Prop :=
  ∀ (c : Cond) (f : Bool) (rn rd : Reg) (z : BitVec 4) (op : Op2) (s : State), rd ≠ regPc →
    let n := s.reg rn
    let m := (shifterOperand op s).value
    let k := (shifterOperand op s).carry
    (s.ready (.and c f rn rd op) = true → exec (.and c f rn rd op) s = .next (s.write f rd (n &&& m) k s.flagV).moveOn) ∧
    (s.ready (.eor c f rn rd op) = true → exec (.eor c f rn rd op) s = .next (s.write f rd (n ^^^ m) k s.flagV).moveOn) ∧
    (s.ready (.orr c f rn rd op) = true → exec (.orr c f rn rd op) s = .next (s.write f rd (n ||| m) k s.flagV).moveOn) ∧
    (s.ready (.bic c f rn rd op) = true →
      exec (.bic c f rn rd op) s = .next (s.write f rd (n &&& ~~~m) k s.flagV).moveOn) ∧
    (s.ready (.mov c f z rd op) = true → exec (.mov c f z rd op) s = .next (s.write f rd m k s.flagV).moveOn) ∧
    (s.ready (.mvn c f z rd op) = true → exec (.mvn c f z rd op) s = .next (s.write f rd (~~~m) k s.flagV).moveOn)

/-- ADD, ADC, SUB, SBC, RSB and RSC with a destination other than r15: the exact integer result is narrowed into Rd; with
S, N and Z are the result's, C is the carry out (of an addition) or the absence of a borrow (of a subtraction) and V says
that narrowing changed the signed result; nothing else changes (spec/40 R500, R501, R504-R509). -/
def Obligations.ArithmeticResults : Prop :=
  ∀ (c : Cond) (f : Bool) (rn rd : Reg) (op : Op2) (s : State), rd ≠ regPc →
    let n := s.reg rn
    let m := (shifterOperand op s).value
    let cy : Nat := if s.flagC then 1 else 0
    (s.ready (.add c f rn rd op) = true → exec (.add c f rn rd op) s =
      .next (s.writeExact f rd (n.toInt + m.toInt) (decide (4294967296 ≤ n.toNat + m.toNat))).moveOn) ∧
    (s.ready (.adc c f rn rd op) = true → exec (.adc c f rn rd op) s =
      .next (s.writeExact f rd (n.toInt + m.toInt + cy) (decide (4294967296 ≤ n.toNat + m.toNat + cy))).moveOn) ∧
    (s.ready (.sub c f rn rd op) = true → exec (.sub c f rn rd op) s =
      .next (s.writeExact f rd (n.toInt - m.toInt) (decide (m.toNat ≤ n.toNat))).moveOn) ∧
    (s.ready (.sbc c f rn rd op) = true → exec (.sbc c f rn rd op) s =
      .next (s.writeExact f rd (n.toInt - m.toInt - (1 - cy)) (decide (m.toNat + 1 ≤ n.toNat + cy))).moveOn) ∧
    (s.ready (.rsb c f rn rd op) = true → exec (.rsb c f rn rd op) s =
      .next (s.writeExact f rd (m.toInt - n.toInt) (decide (n.toNat ≤ m.toNat))).moveOn) ∧
    (s.ready (.rsc c f rn rd op) = true → exec (.rsc c f rn rd op) s =
      .next (s.writeExact f rd (m.toInt - n.toInt - (1 - cy)) (decide (n.toNat + 1 ≤ m.toNat + cy))).moveOn)

/-- TST, TEQ, CMP and CMN write the flags and nothing else (spec/40 R500, R501, R510-R513). -/
def Obligations.Comparisons : Prop :=
  ∀ (c : Cond) (rn : Reg) (z : BitVec 4) (op : Op2) (s : State),
    let n := s.reg rn
    let m := (shifterOperand op s).value
    let k := (shifterOperand op s).carry
    (s.ready (.tst c rn z op) = true → exec (.tst c rn z op) s =
      .next (s.setNZCV (n &&& m).msb (n &&& m == 0#32) k s.flagV).moveOn) ∧
    (s.ready (.teq c rn z op) = true → exec (.teq c rn z op) s =
      .next (s.setNZCV (n ^^^ m).msb (n == m) k s.flagV).moveOn) ∧
    (s.ready (.cmp c rn z op) = true → exec (.cmp c rn z op) s =
      .next (s.compareExact (n.toInt - m.toInt) (decide (m.toNat ≤ n.toNat))).moveOn) ∧
    (s.ready (.cmn c rn z op) = true → exec (.cmn c rn z op) s =
      .next (s.compareExact (n.toInt + m.toInt) (decide (4294967296 ≤ n.toNat + m.toNat))).moveOn)

/-- A data-processing result for r15 (spec/10 R37, R38; spec/40 R500; spec/60 R875). Without S it is a branch that leaves
the CPSR alone, and a target that is no word address is refused. With S it is an exception return: the CPSR is the SPSR and
the pc is aligned for the restored T bit; with no SPSR, or with an SPSR that holds no legal mode, it is refused. -/
def Obligations.ResultsToPc : Prop :=
  ∀ (i : Instr) (s : State) (f : Bool) (v : Word), dataResult s i = some (f, regPc, v) → s.runs i = true →
    (f = false → v.toNat % 4 = 0 → exec i s = .next (s.branchTo v)) ∧
    (f = false → v.toNat % 4 ≠ 0 → exec i s = .refused .pcMisaligned) ∧
    (f = true → s.hasSpsr = false → exec i s = .refused .noSpsr) ∧
    (f = true → s.hasSpsr = true → legalMode (s.readSpsr.extractLsb' 0 5) = false → exec i s = .refused .illegalMode) ∧
    (f = true → s.hasSpsr = true → legalMode (s.readSpsr.extractLsb' 0 5) = true →
      exec i s = .next ({ s with cpsr := s.readSpsr }.branchTo
        (v &&& (if s.readSpsr.getLsbD 5 then 0xFFFFFFFE#32 else 0xFFFFFFFC#32))))

/-- The frame of every instruction that works on registers and flags only (spec/40, spec/41, spec/47): where it gives a
next state, every physical register but its destinations keeps its value, every bit of the CPSR but the flags the spec
names for it keeps its value, and every other piece of state, memory byte by byte included, is as before; the pc may change. -/
def Obligations.DataInstructionFrame : Prop :=
  ∀ (i : Instr) (s t : State) (ds : List Reg), dataDests i = some ds → exec i s = .next t →
    (∀ k : Fin 30, (∀ d ∈ ds, k ≠ regIndex s.bank d) → t.regs[k] = s.regs[k]) ∧
    (∀ n, n ∉ dataFlags i → t.cpsr.getLsbD n = s.cpsr.getLsbD n) ∧
    t = { s with regs := t.regs, cpsr := t.cpsr, pc := t.pc } ∧
    ∀ a, Memory.read t.mem a = Memory.read s.mem a

/-- (1) CLZ: the number of leading zeros, 32 for 0; no flag. (2) QADD, QSUB, QDADD and QDSUB: the result clamped to the signed
range goes to Rd; Q is set if a clamp changed a value and keeps its value otherwise; no other flag (spec/40 R520, R530-R533;
spec/10 R42). -/
def Obligations.ClzAndSaturation : Prop :=
  (∀ (c : Cond) (o1 o2 : BitVec 4) (rd rm : Reg) (s : State), s.ready (.clz c o1 rd o2 rm) = true →
    exec (.clz c o1 rd o2 rm) s =
      .next (s.setReg rd (if s.reg rm = 0#32 then 32#32 else BitVec.ofNat 32 (31 - (s.reg rm).toNat.log2))).moveOn) ∧
  (∀ (c : Cond) (rn rd : Reg) (z : BitVec 4) (rm : Reg) (s : State),
    let clamp : Int → Int := fun x => max (-2147483648) (min x 2147483647)
    let m := (s.reg rm).toInt
    let n := (s.reg rn).toInt
    let d := clamp (2 * n)
    let put : Int → Bool → Outcome State := fun x q =>
      .next ((s.setQ (q || decide (clamp x ≠ x))).setReg rd (BitVec.ofInt 32 (clamp x))).moveOn
    (s.ready (.qadd c rn rd z rm) = true → exec (.qadd c rn rd z rm) s = put (m + n) false) ∧
    (s.ready (.qsub c rn rd z rm) = true → exec (.qsub c rn rd z rm) s = put (m - n) false) ∧
    (s.ready (.qdadd c rn rd z rm) = true → exec (.qdadd c rn rd z rm) s = put (m + d) (decide (d ≠ 2 * n))) ∧
    (s.ready (.qdsub c rn rd z rm) = true → exec (.qdsub c rn rd z rm) s = put (m - d) (decide (d ≠ 2 * n))))

/-- (1) MUL and MLA: the low 32 bits of the product, or of the product plus Rn; with S, N and Z are the result's. (2) UMULL,
UMLAL, SMULL and SMLAL: the 64-bit product, or its sum with RdHi:RdLo modulo 2^64, goes to RdHi:RdLo; with S, N is bit 63 and Z
says that all 64 bits are zero. C and V keep their values (spec/41 R551-R557). -/
def Obligations.Multiplies : Prop :=
  (∀ (c : Cond) (f : Bool) (rd rn : Reg) (z : BitVec 4) (rs rm : Reg) (s : State),
    let p := (s.reg rm).toNat * (s.reg rs).toNat
    (s.ready (.mul c f rd z rs rm) = true → exec (.mul c f rd z rs rm) s =
      .next (s.write f rd (BitVec.ofNat 32 p) s.flagC s.flagV).moveOn) ∧
    (s.ready (.mla c f rd rn rs rm) = true → exec (.mla c f rd rn rs rm) s =
      .next (s.write f rd (BitVec.ofNat 32 (p + (s.reg rn).toNat)) s.flagC s.flagV).moveOn)) ∧
  (∀ (c : Cond) (f : Bool) (hi lo rs rm : Reg) (s : State),
    let a := s.reg rm
    let b := s.reg rs
    let acc : Int := (s.reg hi).toNat * 4294967296 + (s.reg lo).toNat
    let put : Int → Outcome State := fun x =>
      let p := BitVec.ofInt 64 x
      .next (((if f then s.setNZCV p.msb (p == 0#64) s.flagC s.flagV else s).setReg lo (BitVec.ofInt 32 x)).setReg hi
        (BitVec.ofInt 32 (x / 4294967296))).moveOn
    (s.ready (.umull c f hi lo rs rm) = true → exec (.umull c f hi lo rs rm) s = put (a.toNat * b.toNat)) ∧
    (s.ready (.umlal c f hi lo rs rm) = true → exec (.umlal c f hi lo rs rm) s = put (a.toNat * b.toNat + acc)) ∧
    (s.ready (.smull c f hi lo rs rm) = true → exec (.smull c f hi lo rs rm) s = put (a.toInt * b.toInt)) ∧
    (s.ready (.smlal c f hi lo rs rm) = true → exec (.smlal c f hi lo rs rm) s = put (a.toInt * b.toInt + acc)))

/-- The signed halfword multiplies: SMUL, SMLA and SMLAL with halves x of Rm and y of Rs, SMULW and SMLAW with all of Rm
and bits [47:16] of the product. SMLA and SMLAW wrap and set Q when the signed sum overflows; no other flag changes
(spec/41 R550, R551, R560-R565). -/
def Obligations.HalfwordMultiplies : Prop :=
  ∀ (c : Cond) (rd rn hi lo rs rm : Reg) (y x : Bool) (z : BitVec 4) (s : State),
    let half : Word → Bool → Int := fun w top => ((if top then w >>> 16 else w).extractLsb' 0 16).toInt
    let p := half (s.reg rm) x * half (s.reg rs) y
    let w := ((s.reg rm).toInt * half (s.reg rs) y) / 65536
    let acc : Int := (s.reg hi).toNat * 4294967296 + (s.reg lo).toNat
    let sum : Int → Outcome State := fun q =>
      let e := q + (s.reg rn).toInt
      .next ((s.setQ (decide ((BitVec.ofInt 32 e).toInt ≠ e))).setReg rd (BitVec.ofInt 32 e)).moveOn
    (s.ready (.smulxy c rd z rs y x rm) = true →
      exec (.smulxy c rd z rs y x rm) s = .next (s.setReg rd (BitVec.ofInt 32 p)).moveOn) ∧
    (s.ready (.smlaxy c rd rn rs y x rm) = true → exec (.smlaxy c rd rn rs y x rm) s = sum p) ∧
    (s.ready (.smulwy c rd z rs y rm) = true →
      exec (.smulwy c rd z rs y rm) s = .next (s.setReg rd (BitVec.ofInt 32 w)).moveOn) ∧
    (s.ready (.smlawy c rd rn rs y rm) = true → exec (.smlawy c rd rn rs y rm) s = sum w) ∧
    (s.ready (.smlalxy c hi lo rs y x rm) = true → exec (.smlalxy c hi lo rs y x rm) s =
      .next ((s.setReg lo (BitVec.ofInt 32 (acc + p))).setReg hi (BitVec.ofInt 32 ((acc + p) / 4294967296))).moveOn)

/-- BX and BLX(2), in ARM and Thumb state: bit 0 of Rm goes to T and the rest to the pc; BLX(2) puts the next address, in
Thumb state with bit 0 set, into r14. A target with bits [1:0] = 10 is refused (spec/10 R37, R38; spec/42 R582, R584;
spec/48 R822, R823). -/
def Obligations.ExchangeBranches : Prop :=
  ∀ (c : Cond) (o1 o2 o3 : BitVec 4) (z : BitVec 3) (rm : Reg) (s : State),
    let v := s.reg rm
    let go : State → Outcome State := fun t =>
      if v.getLsbD 0 = true then .next ((t.setThumb true).branchTo (v - 1#32))
      else if v.toNat % 4 = 0 then .next ((t.setThumb false).branchTo v) else .refused .pcMisaligned
    (s.runs (.bx c o1 o2 o3 rm) = true → exec (.bx c o1 o2 o3 rm) s = go s) ∧
    (s.runs (.blxReg c o1 o2 o3 rm) = true → exec (.blxReg c o1 o2 o3 rm) s = go (s.setReg regLr (s.pc + 4#32))) ∧
    (s.runs (.tBx rm z) = true → exec (.tBx rm z) s = go s) ∧
    (s.runs (.tBlxReg rm z) = true →
      exec (.tBlxReg rm z) s = go (s.setReg regLr ((s.pc + 2#32) ||| 1#32)))

/-- (1) B, BL, BLX(1) and the Thumb B: the target is the pc plus 8 (4 in Thumb) plus the scaled signed offset; BL and BLX(1)
put the next address into r14, and BLX(1) sets T; a target outside the address space is refused. (2) The two halves of a Thumb
BL or BLX: the prefix puts the high part of the target into r14; each suffix adds its offset and puts the return address with
bit 0 set into r14; the BLX suffix also goes to ARM state and a word address (spec/42 R580, R581, R583; spec/48 R820, R821,
R824; U1; the BL suffix clears bit 0 of the target: spec/10 R34, log 44). The model's choices: the sums of the two halves wrap
and are executed (log 39), and where CPSR.T = 0, which only an instruction from the ITR can meet, the target of a Thumb branch
is a word address (log 24; spec/20 R207). -/
def Obligations.BranchesAndCalls : Prop :=
  (∀ (c : Cond) (imm : BitVec 24) (imm8 : BitVec 8) (imm11 : BitVec 11) (h : Bool) (s : State),
    let go : Int → State → Outcome State := fun off t =>
      if 0 ≤ (s.pc.toNat : Int) + off ∧ (s.pc.toNat : Int) + off ≤ 4294967295 then
        .next (t.branchTo (BitVec.ofInt 32 (s.pc.toNat + off)))
      else .refused .pcWrap
    let goThumb : Int → Outcome State := fun off =>
      if 0 ≤ (s.pc.toNat : Int) + off ∧ (s.pc.toNat : Int) + off ≤ 4294967295 then
        .next (s.branchTo (BitVec.ofInt 32 (s.pc.toNat + off) &&& (if s.thumb then 0xFFFFFFFE#32 else 0xFFFFFFFC#32)))
      else .refused .pcWrap
    let linked := s.setReg regLr (s.pc + 4#32)
    (s.passes c = true → exec (.b c imm) s = go (8 + 4 * imm.toInt) s) ∧
    (s.passes c = true → exec (.bl c imm) s = go (8 + 4 * imm.toInt) linked) ∧
    exec (.blxImm h imm) s = go (8 + 4 * imm.toInt + (if h then 2 else 0)) (linked.setThumb true) ∧
    (s.passes c = true → exec (.tBcond c imm8) s = goThumb (4 + 2 * imm8.toInt)) ∧
    exec (.tB imm11) s = goThumb (4 + 2 * imm11.toInt)) ∧
  (∀ (imm : BitVec 11) (imm10 : BitVec 10) (s : State),
    let back := s.setReg regLr ((s.pc + 2#32) ||| 1#32)
    (s.canAdvance = true →
      exec (.tBlPrefix imm) s = .next (s.setReg regLr (s.pc + 4#32 + BitVec.ofInt 32 (4096 * imm.toInt))).moveOn) ∧
    exec (.tBlSuffix imm) s =
      .next (back.branchTo ((s.reg regLr + BitVec.ofNat 32 (2 * imm.toNat)) &&&
        (if s.thumb then 0xFFFFFFFE#32 else 0xFFFFFFFC#32))) ∧
    exec (.tBlxSuffix imm10) s =
      .next ((back.setThumb false).branchTo ((s.reg regLr + BitVec.ofNat 32 (4 * imm10.toNat)) &&& 0xFFFFFFFC#32)))

/-- Where a load or store goes (spec/43 R600, R601; spec/44 R650; spec/46 R701): base plus or minus the offset with
pre-indexing, the base with post-indexing; what is written back; the offsets of modes 2 and 3; the first address and the
written-back base of the four block modes, with 4 bytes for each listed register; and mode 5. -/
def Obligations.TransferAddresses : Prop :=
  (∀ (u w : Bool) (rn : Reg) (o : Word) (s : State),
    indexAddress ⟨true, u, w, rn⟩ o s = (if u then s.reg rn + o else s.reg rn - o) ∧
    indexAddress ⟨false, u, w, rn⟩ o s = s.reg rn ∧
    (∀ p, indexTarget ⟨p, u, w, rn⟩ o s = (if u then s.reg rn + o else s.reg rn - o)) ∧
    (∀ p t, writeBase ⟨p, u, w, rn⟩ t s = if p = true ∧ w = false then s else s.setReg rn t)) ∧
  (∀ (o : BitVec 12) (o8 : BitVec 8) (a : BitVec 5) (sh : Shift) (rm : Reg) (z : BitVec 4) (s : State),
    (offset2 (.imm o) s).toNat = o.toNat ∧ offset2 (.reg a sh rm) s = (shifterOperand (.shiftImm a sh rm) s).value ∧
    (offset3 (.imm o8) s).toNat = o8.toNat ∧ offset3 (.reg z rm) s = s.reg rm) ∧
  (∀ (w : Bool) (rn : Reg) (list : BitVec 16) (base : Word),
    let n := BitVec.ofNat 32 (4 * (List.range 16).countP list.getLsbD)
    multipleStart ⟨false, true, w, rn⟩ list base = base ∧ multipleStart ⟨true, true, w, rn⟩ list base = base + 4#32 ∧
    multipleStart ⟨false, false, w, rn⟩ list base = base - n + 4#32 ∧
    multipleStart ⟨true, false, w, rn⟩ list base = base - n ∧
    (∀ p, multipleBase ⟨p, true, w, rn⟩ list base = base + n ∧ multipleBase ⟨p, false, w, rn⟩ list base = base - n)) ∧
  (∀ (f : CpMem) (s : State),
    let o := BitVec.ofNat 32 (4 * f.offset.toNat)
    cpBase f s = (if f.u then s.reg f.rn + o else s.reg f.rn - o) ∧
    cpStart f s = if f.p then cpBase f s else s.reg f.rn)

/-- LDR, LDRB, LDRT, LDRBT, LDRH, LDRSB and LDRSH to a register other than r15 (spec/20 R206; spec/43 R602, R610-R613,
R620-R622): where the access answers v, the base is written back as the addressing mode says and Rd gets v: a word rotated
right by 8 bits for each byte of misalignment, a byte or halfword zero- or sign-extended. What a halfword at an odd address
gives is a free value (spec/20 R206; U5). LDRT and LDRBT access memory as User mode does. -/
def Obligations.SingleLoads : Prop :=
  ∀ (c : Cond) (ix : Index) (rd : Reg) (o2 : Off2) (o3 : Off3) (s s1 : State) (v : Word), rd ≠ regPc →
    let a := indexAddress ix (offset2 o2 s) s
    let b := indexAddress ix (offset3 o3 s) s
    let post := postIndex ix.u ix.rn
    let to2 : Index → Word → Outcome State := fun i x => .next ((writeBase i (indexTarget i (offset2 o2 s) s) s1).setReg rd x).moveOn
    let to3 : State → Word → Outcome State := fun t x => .next ((writeBase ix (indexTarget ix (offset3 o3 s) s) t).setReg rd x).moveOn
    (s.ready (.ldr c ix rd o2) = true → memRead a .word s.priv s = .ok v s1 →
      exec (.ldr c ix rd o2) s = to2 ix (v.rotateRight (8 * (a.toNat % 4)))) ∧
    (s.ready (.ldrb c ix rd o2) = true → memRead a .byte s.priv s = .ok v s1 → exec (.ldrb c ix rd o2) s = to2 ix v) ∧
    (s.ready (.ldrt c ix.u ix.rn rd o2) = true → memRead (s.reg ix.rn) .word false s = .ok v s1 →
      exec (.ldrt c ix.u ix.rn rd o2) s = to2 post (v.rotateRight (8 * ((s.reg ix.rn).toNat % 4)))) ∧
    (s.ready (.ldrbt c ix.u ix.rn rd o2) = true → memRead (s.reg ix.rn) .byte false s = .ok v s1 →
      exec (.ldrbt c ix.u ix.rn rd o2) s = to2 post v) ∧
    (s.ready (.ldrh c ix rd o3) = true → memRead b .half s.priv s = .ok v s1 → exec (.ldrh c ix rd o3) s =
      if b.getLsbD 0 then to3 s1.useFree s1.freeVal else to3 s1 v) ∧
    (s.ready (.ldrsb c ix rd o3) = true → memRead b .byte s.priv s = .ok v s1 →
      exec (.ldrsb c ix rd o3) s = to3 s1 ((v.extractLsb' 0 8).signExtend 32)) ∧
    (s.ready (.ldrsh c ix rd o3) = true → memRead b .half s.priv s = .ok v s1 → exec (.ldrsh c ix rd o3) s =
      if b.getLsbD 0 then to3 s1.useFree s1.freeVal else to3 s1 ((v.extractLsb' 0 16).signExtend 32))

/-- A word loaded into r15 by LDR, LDM or POP (spec/43 R605; spec/44 R651; spec/48 R811). With L4 = 0, T is bit 0 of the
word and the pc the rest, and a word ending in 10 is refused; with L4 = 1, T stays and the pc is the word with its low bits
cleared. The other registers of a list are loaded, and the base is written back, before that. The model's choices: a misaligned
base is refused (log 19; spec/43 R605), and with L4 = 1 CPSR.T picks the cleared bits for an instruction from the ITR too, whatever
DSCR.T is (log 24). -/
def Obligations.LoadsToPc : Prop :=
  ∀ (s : State),
    let go : Word → State → Outcome State := fun v t =>
      if s.l4 then .next (t.branchTo (v &&& (if s.thumb then 0xFFFFFFFE#32 else 0xFFFFFFFC#32)))
      else if v.getLsbD 0 = true then .next ((t.setThumb true).branchTo (v - 1#32))
      else if v.toNat % 4 = 0 then .next ((t.setThumb false).branchTo v) else .refused .pcMisaligned
    (∀ (c : Cond) (ix : Index) (off : Off2) (v : Word) (s1 : State), s.runs (.ldr c ix regPc off) = true →
      memRead (indexAddress ix (offset2 off s) s) .word s.priv s = .ok v s1 →
      exec (.ldr c ix regPc off) s = if (indexAddress ix (offset2 off s) s).toNat % 4 = 0
        then go v (writeBase ix (indexTarget ix (offset2 off s) s) s1) else .refused .misalignedPcLoad) ∧
    (∀ (c : Cond) (ix : Index) (list : BitVec 16) (vs : List Word) (v : Word) (s1 : State), list.getLsbD 15 = true →
      s.runs (.ldm1 c ix list) = true → readList (.ordinary s.priv) ix list s = .ok (vs ++ [v]) s1 →
      exec (.ldm1 c ix list) s = if (s.reg ix.rn).toNat % 4 = 0
        then go v (setRegs s.bank (if ix.w then s1.setReg ix.rn (multipleBase ix list (s.reg ix.rn)) else s1)
          ((listRegs list).zip vs)) else .refused .misalignedPcLoad) ∧
    (∀ (list : BitVec 8) (vs : List Word) (v : Word) (s1 : State),
      readList (.ordinary s.priv) ⟨false, true, true, regSp⟩ (popList true list) s = .ok (vs ++ [v]) s1 →
      exec (.tPop true list) s = if (s.reg regSp).toNat % 4 = 0
        then go v (setRegs s.bank (s1.setReg regSp (multipleBase ⟨false, true, true, regSp⟩ (popList true list) (s.reg regSp)))
          ((listRegs (popList true list)).zip vs)) else .refused .misalignedPcLoad)

/-- STR, STRB, STRT, STRBT and STRH: where the access answers, the base is written back and the next instruction follows.
A stored r15 is the address of the instruction plus STORE_PC_OFFSET. STRT and STRBT access memory as User mode does. STRH
at an odd address with A = 0 is refused (spec/20 R206; spec/43 R602, R606, R614-R617, R623; U5). -/
def Obligations.SingleStores : Prop :=
  ∀ (c : Cond) (ix : Index) (rd : Reg) (o2 : Off2) (o3 : Off3) (s s1 : State),
    let a := indexAddress ix (offset2 o2 s) s
    let b := indexAddress ix (offset3 o3 s) s
    let post := postIndex ix.u ix.rn
    let done2 : Index → Outcome State := fun i => .next (writeBase i (indexTarget i (offset2 o2 s) s) s1).moveOn
    (s.ready (.str c ix rd o2) = true → memWrite a .word (s.stored rd) s.priv s = .ok () s1 →
      exec (.str c ix rd o2) s = done2 ix) ∧
    (s.ready (.strb c ix rd o2) = true → memWrite a .byte (s.reg rd) s.priv s = .ok () s1 →
      exec (.strb c ix rd o2) s = done2 ix) ∧
    (s.ready (.strt c ix.u ix.rn rd o2) = true → memWrite (s.reg ix.rn) .word (s.stored rd) false s = .ok () s1 →
      exec (.strt c ix.u ix.rn rd o2) s = done2 post) ∧
    (s.ready (.strbt c ix.u ix.rn rd o2) = true → memWrite (s.reg ix.rn) .byte (s.reg rd) false s = .ok () s1 →
      exec (.strbt c ix.u ix.rn rd o2) s = done2 post) ∧
    (s.ready (.strh c ix rd o3) = true → memWrite b .half (s.reg rd) s.priv s = .ok () s1 →
      (s.alignOn = true ∨ b.getLsbD 0 = false) →
      exec (.strh c ix rd o3) s = .next (writeBase ix (indexTarget ix (offset3 o3 s) s) s1).moveOn) ∧
    (s.runs (.strh c ix rd o3) = true → s.alignOn = false → b.getLsbD 0 = true →
      exec (.strh c ix rd o3) s = .refused .misalignedHalfwordStore)

/-- (1) LDRD and STRD: the two words go between Rd, Rd + 1 and the address and the address + 4, and the base is written back; an
address that is not doubleword aligned is refused, but with A = 1 one that is not word aligned is a Data Abort; an access that
aborts is a Data Abort that leaves the base; an odd Rd is Undefined (the model's choice, log 16). In plain memory an LDRD or
STRD completes at every doubleword-aligned address. (2) SWP and SWPB: Rm is stored and the old contents, rotated for a
misaligned word, go to Rd; an access that aborts is a Data Abort; in plain memory they complete. (3) PLD completes, whatever
its address, and changes no register (two TLB entries for one address apart, log 35) and nothing of the debug unit, since no
watchpoint compares its access (the model's choice, log 21) (spec/20 R206; spec/43 R603, R624, R625, R630; spec/45 R680, R681;
spec/22 R342; spec/60 R868). -/
def Obligations.PairsSwapsAndPreload : Prop :=
  (∀ (c : Cond) (ix : Index) (rd : Reg) (off : Off3) (s s1 : State) (v w : Word) (e : AbortInfo),
    let a := indexAddress ix (offset3 off s) s
    let base := indexTarget ix (offset3 off s) s
    let load := exec (.ldrd c ix rd off) s
    let store := exec (.strd c ix rd off) s
    let words := [s.reg rd, s.reg (rd + 1#4)]
    let bad := a.toNat % 8 ≠ 0 ∧ (s.alignOn = false ∨ a.toNat % 4 = 0)
    (rd.getLsbD 0 = false → s.ready (.ldrd c ix rd off) = true →
      (¬bad → memReadMany (.ordinary s.priv) 2 a s = .ok [v, w] s1 →
        load = .next (((writeBase ix base s1).setReg rd v).setReg (rd + 1#4) w).moveOn) ∧
      (s.plain = true → a.toNat % 8 = 0 → ∃ b, load =
        .next (((writeBase ix base { s with bus := b }).setReg rd (s.wordAt a)).setReg (rd + 1#4) (s.wordAt (a + 4#32))).moveOn)) ∧
    (rd.getLsbD 0 = false → s.ready (.strd c ix rd off) = true →
      (¬bad → memWriteMany (.ordinary s.priv) words a s = .ok () s1 → store = .next (writeBase ix base s1).moveOn) ∧
      (s.plain = true → a.toNat % 8 = 0 → ∃ b, store = .next (writeBase ix base { s with
        bus := b, mem := storeWords s.big s.cp15.pid words a s.mem }).moveOn)) ∧
    (rd.getLsbD 0 = false → s.runs (.ldrd c ix rd off) = true →
      (bad → load = .refused .misalignedDoubleword) ∧
      (s.alignOn = true → a.toNat % 4 ≠ 0 → ∃ t, load = .next t ∧ dataAborted s s ⟨a, 1#4, none⟩ t) ∧
      (¬bad → memReadMany (.ordinary s.priv) 2 a s = .abort e s1 → ∃ t, load = .next t ∧ dataAborted s s1 e t)) ∧
    (rd.getLsbD 0 = false → s.runs (.strd c ix rd off) = true →
      (bad → store = .refused .misalignedDoubleword) ∧
      (s.alignOn = true → a.toNat % 4 ≠ 0 → ∃ t, store = .next t ∧ dataAborted s s ⟨a, 1#4, none⟩ t) ∧
      (¬bad → memWriteMany (.ordinary s.priv) words a s = .abort e s1 → ∃ t, store = .next t ∧ dataAborted s s1 e t)) ∧
    (rd.getLsbD 0 = true → s.halted = false →
      let und : Outcome State := .next (takeException .undefined (s.pc + s.instrSize) s)
      (s.runs (.ldrd c ix rd off) = true → load = und) ∧ (s.runs (.strd c ix rd off) = true → store = und))) ∧
  (∀ (c : Cond) (rn rd rm : Reg) (z : BitVec 4) (s s1 : State) (v : Word) (e : AbortInfo),
    let a := s.reg rn
    let does : Instr → BusSize → (Word → Word) → Prop := fun i size f =>
      (s.ready i = true → memSwap a size (s.reg rm) s.priv s = .ok v s1 → exec i s = .next (s1.setReg rd (f v)).moveOn) ∧
      (s.ready i = true → s.plain = true → ∃ b, exec i s = .next ({ s with
        bus := b, mem := physWrite s.mem s.big size (relocate s.cp15.pid a) (s.reg rm) }.setReg rd
          (f (physRead s.mem s.big size (relocate s.cp15.pid a)))).moveOn) ∧
      (s.runs i = true → memSwap a size (s.reg rm) s.priv s = .abort e s1 →
        ∃ t, exec i s = .next t ∧ dataAborted s s1 e t)
    does (.swp c rn rd z rm) .word (fun x => x.rotateRight (8 * (a.toNat % 4))) ∧ does (.swpb c rn rd z rm) .byte id) ∧
  (∀ (u : Bool) (rn : Reg) (off : Off2) (s : State), s.ready (.pld u rn off) = true →
    let a := indexAddress ⟨true, u, false, rn⟩ (offset2 off s) s
    (s.mmuOn = false ∨ (s.dtlb.matching (relocate s.cp15.pid a)).length ≤ 1 →
      ∃ s1 : State, exec (.pld u rn off) s = .next s1.moveOn ∧ preload a s.priv s = .ok () s1 ∧
        s1.regs = s.regs ∧ s1.cpsr = s.cpsr ∧ s1.spsr = s.spsr ∧ s1.cp15 = s.cp15 ∧ s1.pc = s.pc ∧ s1.dbg = s.dbg) ∧
    (s.plain = true → exec (.pld u rn off) s = .next s.moveOn))

/-- LDM(1) without r15, LDM(2), Thumb LDMIA and POP without r15 (spec/44 R650-R652, R656, R658; spec/48 R808, R811): the words
read go to the listed registers in ascending order, of the current mode or for LDM(2) of User mode; with W the base is
written back; every other register and the status registers keep their values. (How a user-bank transfer accesses memory is
the model's reading, log 50.) -/
def Obligations.LoadMultiples : Prop :=
  ∀ (s s1 : State) (vs : List Word),
    let loaded : Bank → Index → BitVec 16 → Outcome State → Prop := fun b ix list x =>
      ∃ t, x = .next t ∧
        (∀ r : Reg, list.getLsbD r.toNat = true → t.regIn b r = vs.getD (rankIn list r) 0#32) ∧
        (ix.w = true → t.reg ix.rn = multipleBase ix list (s.reg ix.rn)) ∧
        (∀ k : Fin 30, (∀ r : Reg, list.getLsbD r.toNat = true → k ≠ regIndex b r) →
          (ix.w = true → k ≠ regIndex s.bank ix.rn) → t.regs[k] = s.regs[k]) ∧
        t = { s1.moveOn with regs := t.regs }
    let reads : Multiple → Index → BitVec 16 → Prop := fun m ix list => readList m ix list s = .ok vs s1
    (∀ (c : Cond) (ix : Index) (list : BitVec 16), list.getLsbD 15 = false → s.ready (.ldm1 c ix list) = true →
      reads (.ordinary s.priv) ix list → loaded s.bank ix list (exec (.ldm1 c ix list) s)) ∧
    (∀ (c : Cond) (ix : Index) (list : BitVec 15), s.hasSpsr = true → s.ready (.ldm2 c ix list) = true →
      reads (userTransfer s.priv) ix (0#1 ++ list) → loaded .usr ix (0#1 ++ list) (exec (.ldm2 c ix list) s)) ∧
    (∀ (rn : LoReg) (list : BitVec 8), s.ready (.tLdmia rn list) = true →
      let ix : Index := ⟨false, true, !list.getLsbD rn.toNat, lo rn⟩
      reads (.ordinary s.priv) ix (0#8 ++ list) → loaded s.bank ix (0#8 ++ list) (exec (.tLdmia rn list) s)) ∧
    (∀ (list : BitVec 8), s.ready (.tPop false list) = true →
      let ix : Index := ⟨false, true, true, regSp⟩
      reads (.ordinary s.priv) ix (popList false list) →
        loaded s.bank ix (popList false list) (exec (.tPop false list) s))

/-- LDM(3): as LDM(1) for the listed registers of the mode that executes it, and then the CPSR is restored from the SPSR and
the word for r15 goes to the pc, aligned for the restored T bit; without an SPSR LDM(2), LDM(3) and STM(2) are refused
(spec/44 R652, R653, R655, R656; spec/60 R875). -/
def Obligations.LoadMultipleWithReturn : Prop :=
  ∀ (c : Cond) (ix : Index) (list : BitVec 15) (list16 : BitVec 16) (s s1 : State) (vs : List Word) (v : Word),
    (s.runs (.ldm3 c ix list) = true → s.hasSpsr = true → legalMode (s.readSpsr.extractLsb' 0 5) = true →
      (s.reg ix.rn).toNat % 4 = 0 → readList (.ordinary s.priv) ix (1#1 ++ list) s = .ok (vs ++ [v]) s1 →
      exec (.ldm3 c ix list) s =
        .next ({ setRegs s.bank (if ix.w then s1.setReg ix.rn (multipleBase ix (1#1 ++ list) (s.reg ix.rn)) else s1)
            ((listRegs (1#1 ++ list)).zip vs) with cpsr := s.readSpsr }.branchTo
          (v &&& (if s.readSpsr.getLsbD 5 then 0xFFFFFFFE#32 else 0xFFFFFFFC#32)))) ∧
    (s.hasSpsr = false → s.runs (.ldm3 c ix list) = true → exec (.ldm3 c ix list) s = .refused .noSpsr) ∧
    (s.hasSpsr = false → s.runs (.ldm2 c ix list) = true → exec (.ldm2 c ix list) s = .refused .userBankTransfer) ∧
    (s.hasSpsr = false → s.runs (.stm2 c ix list16) = true → exec (.stm2 c ix list16) s = .refused .userBankTransfer)

/-- STM(1), STM(2), Thumb STMIA and PUSH: the listed registers, of the current mode or for STM(2) of User mode, are stored
in ascending order from the start address, and with W the base is written back. With W, a base in the list that is not its
lowest register stores a free value (spec/44 R650, R654-R656, R658; spec/48 R809, R810). (How a user-bank transfer accesses
memory is the model's reading, log 50.) -/
def Obligations.StoreMultiples : Prop :=
  ∀ (s s1 : State),
    let open1 : Index → BitVec 16 → Bool := fun ix list =>
      ix.w && list.getLsbD ix.rn.toNat && rankIn list ix.rn != 0
    let values : Index → BitVec 16 → List Word := fun ix list => (listRegs list).map fun r =>
      if open1 ix list = true ∧ r = ix.rn then s.freeVal else s.stored r
    let begun : Index → BitVec 16 → State := fun ix list => if open1 ix list then s.useFree else s
    let done : Index → BitVec 16 → Outcome State := fun ix list =>
      .next (if ix.w then s1.setReg ix.rn (multipleBase ix list (s.reg ix.rn)) else s1).moveOn
    (∀ (c : Cond) (ix : Index) (list : BitVec 16), s.ready (.stm1 c ix list) = true →
      memWriteMany (.ordinary s.priv) (values ix list) (multipleStart ix list (s.reg ix.rn)) (begun ix list) = .ok () s1 →
      exec (.stm1 c ix list) s = done ix list) ∧
    (∀ (c : Cond) (ix : Index) (list : BitVec 16), s.ready (.stm2 c ix list) = true → s.hasSpsr = true →
      memWriteMany (userTransfer s.priv) ((listRegs list).map fun r => if r = regPc then s.stored r else s.regIn .usr r)
        (multipleStart ix list (s.reg ix.rn)) s = .ok () s1 →
      exec (.stm2 c ix list) s = .next s1.moveOn) ∧
    (∀ (rn : LoReg) (list : BitVec 8), s.ready (.tStmia rn list) = true →
      let ix : Index := ⟨false, true, true, lo rn⟩
      memWriteMany (.ordinary s.priv) (values ix (0#8 ++ list)) (s.reg (lo rn)) (begun ix (0#8 ++ list)) = .ok () s1 →
      exec (.tStmia rn list) s = done ix (0#8 ++ list)) ∧
    (∀ (r : Bool) (list : BitVec 8), s.ready (.tPush r list) = true →
      let ix : Index := ⟨true, false, true, regSp⟩
      memWriteMany (.ordinary s.priv) ((listRegs (pushList r list)).map s.reg)
        (s.reg regSp - BitVec.ofNat 32 (4 * (listRegs (pushList r list)).length)) s = .ok () s1 →
      exec (.tPush r list) s = done ix (pushList r list))

/-- Memory without the DCache (spec/20 R202, R204, R205, R208, R210, R211; spec/21 R298; spec/70 R988), all of it RAM. (1) As right
after reset, with the MMU and alignment checking off: a read answers the bytes at the relocated address in the byte order of c1.B
and changes nothing but the bus record; a write puts the bytes there; several words go one after the other; and what is written is
read back. (2) With the MMU on, an access is made at the address that `translate` gives, as a read or as a write and with its
privilege; where it faults the access aborts with that status and domain and the address before relocation, which of a misaligned
access with A = 0 keeps its low bits: the model's choice, log 53. (3) A write of another bus master that is due after one
transaction lands between two words read one after the other, so that the second word shows it (how many transactions pass before
it lands is log 4), and only after both halves of a swap, which is locked (spec/20 R224). -/
def Obligations.PlainAccesses : Prop :=
  (∀ (s : State) (va v : Word) (size : BusSize) (priv : Bool) (m : Multiple), s.plain = true →
    let pa := relocate s.cp15.pid va
    (size ≠ .dword →
      (∃ r, memRead va size priv s = .ok (physRead s.mem s.big size pa) (s.record r)) ∧
      (∃ r, memWrite va size v priv s = .ok () { s.record r with mem := physWrite s.mem s.big size pa v }) ∧
      (∃ b, memSwap va size v priv s = .ok (physRead s.mem s.big size pa)
        { s with bus := b, mem := physWrite s.mem s.big size pa v }) ∧
      (Memory.wf s.mem = true → ∃ s1 s2, memWrite va size v priv s = .ok () s1 ∧
        memRead va size priv s1 = .ok (match size with
          | .byte => (v.extractLsb' 0 8).zeroExtend 32
          | .half => (v.extractLsb' 0 16).zeroExtend 32
          | _ => v) s2)) ∧
    (∀ n, ∃ b, memReadMany m n va s = .ok (wordsFrom s n va) { s with bus := b }) ∧
    (∀ vs, ∃ b, memWriteMany m vs va s = .ok () { s with bus := b, mem := storeWords s.big s.cp15.pid vs va s.mem })) ∧
  (∀ (s s1 : State) (va v pa : Word) (size : BusSize) (priv c b : Bool) (status : BitVec 4) (domain : Option (BitVec 4)),
    s.uncached = true → s.mmuOn = true → s.memMap = [] → s.noDebug = true → size ≠ .dword →
    s.alignOn = false ∨ misaligned size va = false →
    let mva := relocate s.cp15.pid va
    (translate .data mva false priv s = (.ok pa c b, s1) →
      ∃ r, memRead va size priv s = .ok (physRead s.mem s.big size pa) (s1.record r)) ∧
    (translate .data mva true priv s = (.ok pa c b, s1) →
      ∃ r, memWrite va size v priv s = .ok () { s1.record r with mem := physWrite s.mem s.big size pa v }) ∧
    (translate .data mva false priv s = (.fault status domain, s1) →
      memRead va size priv s = .abort ⟨va, status, domain⟩ s1) ∧
    (translate .data mva true priv s = (.fault status domain, s1) →
      memWrite va size v priv s = .abort ⟨va, status, domain⟩ s1)) ∧
  (∀ (s : State) (va v pa : Word) (b : Byte) (priv : Bool), ({ s with intruders := [] } : State).plain = true →
    s.intruders = [⟨0, pa, b⟩] →
    (va.getLsbD 2 = true → ∃ t, memReadMany (.ordinary priv) 2 va s =
        .ok [s.wordAt va, ({ s with mem := Memory.write s.mem pa.toNat b } : State).wordAt (va + 4#32)] t ∧
      t.mem = Memory.write s.mem pa.toNat b ∧ t.intruders = []) ∧
    (∃ t, memSwap va .word v priv s = .ok (s.wordAt va) t ∧ t.intruders = [] ∧
      t.mem = Memory.write (physWrite s.mem s.big .word (relocate s.cp15.pid va) v) pa.toNat b))

/-- A load or store whose access aborts (spec/43 R603; spec/44 R657; spec/46 R722; spec/60 R860, R866, R868; spec/21 R298): the
Data Abort is taken with r14_abt the address of the instruction plus 8; the fault status, address and domain are recorded; no other
register changes, the base included; memory is as the aborted access left it, which for several words means: the words before the
access that aborts, the k-th word or the pair from it on, are stored and no later one. In debug state no exception is taken and the
sticky bit is set (spec/61 R910). A misaligned access with A = 1 aborts with status 0001 and nothing done (spec/21 R290). (That an
aborted LDM writes no register of its list is the model's choice, log 18.) -/
def Obligations.AbortedAccesses : Prop :=
  (∀ (i : Instr) (s s1 : State) (a : Word) (size : BusSize) (p : Bool) (e : AbortInfo), s.runs i = true →
    ((loadTarget s i = some (a, size, p) ∧ memRead a size p s = .abort e s1) ∨
      (storeTarget s i = some (a, size, p) ∧ memWrite a size (storeData s i) p s = .abort e s1 ∧
        (size = .half ∨ condOf i = none → s.alignOn = true ∨ misaligned size a = false))) →
    ∃ t, exec i s = .next t ∧ dataAborted s s1 e t) ∧
  (∀ (i : Instr) (s s1 : State) (e : AbortInfo), s.runs i = true →
    (match i with
      | .ldm1 _ ix list => readList (.ordinary s.priv) ix list s = .abort e s1
      | .ldm2 _ ix list => s.hasSpsr = true ∧ readList (userTransfer s.priv) ix (0#1 ++ list) s = .abort e s1
      | .ldm3 _ ix list => s.hasSpsr = true ∧ readList (.ordinary s.priv) ix (1#1 ++ list) s = .abort e s1
      | .tLdmia rn list => memReadMany (.ordinary s.priv) (listRegs (0#8 ++ list)).length (s.reg (lo rn)) s = .abort e s1
      | .tPop r list => memReadMany (.ordinary s.priv) (listRegs (popList r list)).length (s.reg regSp) s = .abort e s1
      | .stm1 _ ix list => memWriteMany (.ordinary s.priv) ((listRegs list).map (stmValue ix list s))
          (multipleStart ix list (s.reg ix.rn)) (stmFree ix list s) = .abort e s1
      | .stm2 _ ix list => s.hasSpsr = true ∧ memWriteMany (userTransfer s.priv) ((listRegs list).map (storeValueIn s .usr))
          (multipleStart ix list (s.reg ix.rn)) s = .abort e s1
      | .tStmia rn list => memWriteMany (.ordinary s.priv) ((listRegs (0#8 ++ list)).map
          (stmValue ⟨false, true, true, lo rn⟩ (0#8 ++ list) s)) (s.reg (lo rn))
          (stmFree ⟨false, true, true, lo rn⟩ (0#8 ++ list) s) = .abort e s1
      | .tPush r list => memWriteMany (.ordinary s.priv) ((listRegs (pushList r list)).map s.reg)
          (s.reg regSp - BitVec.ofNat 32 (4 * (listRegs (pushList r list)).length)) s = .abort e s1
      | .ldc _ f => f.cp = 14#4 ∧ f.crd = 5#4 ∧ cpMemAllowed f = true ∧
          memReadMany (cpMultiple false s) 1 (cpStart f s) s = .abort e s1
      | .stc _ f => f.cp = 14#4 ∧ f.crd = 5#4 ∧ cpMemAllowed f = true ∧
          memWriteMany (cpMultiple false s) [s.dbg.rdtr] (cpStart f s) s = .abort e s1
      | _ => False) →
    ∃ t, exec i s = .next t ∧ dataAborted s s1 e t) ∧
  (∀ (s s1 : State) (m : Multiple) (vs : List Word) (va : Word) (e : AbortInfo), s.uncached = true →
    memWriteMany m vs va s = .abort e s1 →
    ∃ k s2, k < vs.length ∧ memWriteMany m (vs.take k) va s = .ok () s2 ∧ s1.mem = s2.mem ∧
      let a := va + BitVec.ofNat 32 (4 * k)
      let how := m.access (k == 0) a
      (if m.pairAt a = true ∧ k + 1 < vs.length then
        memWriteWide a .dword (vs.getD (k + 1) 0#32 ++ vs.getD k 0#32) how .single s2
      else memWriteWide a .word ((vs.getD k 0#32).zeroExtend 64) how .single s2) = .abort e s1) ∧
  (∀ (s : State) (a v : Word) (vs : List Word) (n : Nat) (m : Multiple) (size : BusSize) (p : Bool), s.alignOn = true →
    (size ≠ .dword → misaligned size a = true →
      memRead a size p s = .abort ⟨a, 1#4, none⟩ s ∧ memWrite a size v p s = .abort ⟨a, 1#4, none⟩ s ∧
      memSwap a size v p s = .abort ⟨a, 1#4, none⟩ s) ∧
    (misaligned .word a = true →
      memReadMany m (n + 1) a s = .abort ⟨a, 1#4, none⟩ s ∧ memWriteMany m (v :: vs) a s = .abort ⟨a, 1#4, none⟩ s))

/-- With the DCache off and nothing buffered, whatever the MMU does: (1) loads, single or multiple, and PLD store nothing: every
byte of memory reads as before, whether or not the access aborts; (2) a single store writes the bytes of the transfer at the
physical address that its address translates to and every other byte reads as before; if the translation gives no address,
every byte does (spec/20 R204, R210, R211; spec/43; spec/44; spec/48). -/
def Obligations.SingleAccessMemoryFrame : Prop :=
  (∀ (i : Instr) (s t : State), isLoad i = true → s.uncached = true → exec i s = .next t →
    ∀ x, Memory.read t.mem x = Memory.read s.mem x) ∧
  (∀ (i : Instr) (s t : State) (a : Word) (size : BusSize) (p : Bool), storeTarget s i = some (a, size, p) →
    s.uncached = true → exec i s = .next t →
    (∀ (loc : Located) (s1 : State), locate a true p s = .ok loc s1 →
      ∀ x, x ∉ storedBytes s.big size loc.pa → Memory.read t.mem x = Memory.read s.mem x) ∧
    ((∀ (loc : Located) (s1 : State), locate a true p s ≠ .ok loc s1) →
      ∀ x, Memory.read t.mem x = Memory.read s.mem x))

/-- Where a store of several words (STM, STRD, PUSH, the Thumb STMIA, STC of CP14) and a swap write, with the DCache off and nothing
buffered. (1) Whatever the MMU does: only the bytes of its transfers, each at the physical address that its own address translates
to when the transfers before it are done, up to one that aborts; every other byte of memory reads as before. (2) A swap writes
only the word, or the byte, at the physical address its address translates to after its read, and nothing if the read aborts or
the address does not translate. (3) With the MMU off these are the bytes of the words from the first address on, and of a byte
swap one byte (spec/20 R202, R204, R210, R211; spec/43 R625; spec/44 R650, R654; spec/45 R680, R681; spec/46 R722; spec/48 R809,
R810). -/
def Obligations.MultipleStoreFrame : Prop :=
  (∀ (i : Instr) (s s0 t : State) (m : Multiple) (vs : List Word) (a : Word), storeMany s i = some (m, vs, a, s0) →
    s.uncached = true → exec i s = .next t →
    ∀ x, x ∉ writtenBytes m vs true a s0 → Memory.read t.mem x = Memory.read s.mem x) ∧
  (∀ (c : Cond) (rn rd rm : Reg) (z : BitVec 4) (s t : State), s.uncached = true →
    let stored : BusSize → Nat → Prop := fun size x =>
      ∃ v s1 loc s2, memReadX (s.reg rn) size ⟨s.priv, s.priv, true, true⟩ s = .ok v s1 ∧
        locate (s.reg rn) true s.priv s1 = .ok loc s2 ∧ x ∈ storedBytes s.big size loc.pa
    (exec (.swp c rn rd z rm) s = .next t → ∀ x, ¬stored .word x → Memory.read t.mem x = Memory.read s.mem x) ∧
    (exec (.swpb c rn rd z rm) s = .next t → ∀ x, ¬stored .byte x → Memory.read t.mem x = Memory.read s.mem x)) ∧
  (∀ (i : Instr) (s s0 t : State) (m : Multiple) (vs : List Word) (a : Word), storeMany s i = some (m, vs, a, s0) →
    s.uncached = true → s.mmuOn = false → exec i s = .next t →
    ∀ x, x ∉ wordBytes s.big s.cp15.pid vs.length a → Memory.read t.mem x = Memory.read s.mem x) ∧
  (∀ (c : Cond) (rn rd rm : Reg) (z : BitVec 4) (s t : State), s.uncached = true → s.mmuOn = false →
    (exec (.swp c rn rd z rm) s = .next t → ∀ x, x ∉ storedBytes s.big .word (relocate s.cp15.pid (s.reg rn)) →
      Memory.read t.mem x = Memory.read s.mem x) ∧
    (exec (.swpb c rn rd z rm) s = .next t → ∀ x, x ∉ storedBytes s.big .byte (relocate s.cp15.pid (s.reg rn)) →
      Memory.read t.mem x = Memory.read s.mem x))

/-- The frame of loads and stores apart from memory itself (spec/43 R602, R603; spec/44 R651, R654, R657; spec/45 R680;
spec/48): only the destinations and the written-back base change, and r14_abt if the access aborts; of CP15 only the fault
registers, and of the debug unit only what a watchpoint, a caught vector or the sticky abort bit notes; where no exception
was taken, the CPSR, the SPSRs, CP15 and the DSCR keep their values. The memory map, the mailbox, the TAP, the pins, the
coprocessors' history, the run state and the inputs never change, and the counter of free values only grows. What is left is
the memory side: memory, caches, TLBs, buffers, the bus record and the waiting writes of other masters. -/
def Obligations.AccessRegisterFrame : Prop :=
  ∀ (i : Instr) (s t : State) (ds : List Reg), accessDests i = some ds → exec i s = .next t →
    (∀ k : Fin 30, (∀ d ∈ ds, k ≠ regIndex s.bank d) → k ≠ regIndex .abt regLr → t.regs[k] = s.regs[k]) ∧
    (∀ k : Fin 5, k ≠ 3 → t.spsr[k] = s.spsr[k]) ∧
    t.cp15 = { s.cp15 with dfsr := t.cp15.dfsr, dfar := t.cp15.dfar, ifar := t.cp15.ifar } ∧
    t.dbg = { s.dbg with dscr := t.dbg.dscr, watch := t.dbg.watch, catchAt := t.dbg.catchAt } ∧
    (∀ k, k ∉ [2, 3, 4, 5] → t.dbg.dscr.getLsbD k = s.dbg.dscr.getLsbD k) ∧
    (s.halted = false → t.dbg.dscr = s.dbg.dscr) ∧
    (s.halted = false → s.mode ≠ 0x17#5 → t.mode = s.mode →
      (∀ k : Fin 30, (∀ d ∈ ds, k ≠ regIndex s.bank d) → t.regs[k] = s.regs[k]) ∧
      t.cpsr = s.cpsr ∧ t.spsr = s.spsr ∧ t.cp15 = s.cp15 ∧ t.pc = s.moveOn.pc ∧ t.prefetch = s.prefetch ∧
      t.dbg.catchAt = s.dbg.catchAt ∧ (s.debugEnabled = false → t.dbg = s.dbg)) ∧
    t.memMap = s.memMap ∧ s.freeCount ≤ t.freeCount ∧ t.pm = s.pm ∧ t.tap = s.tap ∧ t.pins = s.pins ∧ t.run = s.run ∧
    t.cpHistory = s.cpHistory ∧ t.inputs = s.inputs

/-- MRS: the CPSR, or the SPSR of the current mode, with bits [26:8] and in the CPSR nothing else changed; the SPSR of User
and System mode is a free value (spec/10 R45, R46; spec/45 R670; U4). Where CPSR.T = 1, which only an instruction from the ITR can
meet, T reads as 1 (the model's choice, log 24). -/
def Obligations.StatusReads : Prop :=
  ∀ (c : Cond) (r : Bool) (o z1 z2 : BitVec 4) (rd : Reg) (s : State), s.ready (.mrs c r o rd z1 z2) = true →
    exec (.mrs c r o rd z1 z2) s =
      if r = false then .next (s.setReg rd (s.cpsr &&& 0xF80000FF#32)).moveOn
      else if s.hasSpsr = true then .next (s.setReg rd (s.readSpsr &&& 0xF80000FF#32)).moveOn
      else .next (s.useFree.setReg rd s.freeVal).moveOn

/-- MSR to the CPSR, register and immediate form (spec/30 R426, R431; spec/45 R671-R673): in the bytes the field mask
selects, the flags and Q, and in a privileged mode or in debug state I, F and the mode, take the operand's bits; every other
bit of the CPSR, and everything else, keeps its value. Setting T, and a mode number that is no mode, are refused. (Reserved
bits of the operand are ignored: spec/45 R673 (a) allows it; log 17. Where CPSR.T = 1, which only an instruction from the ITR can meet,
an operand with bit 5 = 0 is executed and T is kept: the model's choice, log 24.) -/
def Obligations.StatusWrites : Prop :=
  ∀ (c : Cond) (mask o z rot : BitVec 4) (rm : Reg) (imm8 : BitVec 8) (s : State) (i : Instr) (v : Word),
    (i = .msrReg c false mask o z rm ∧ v = s.reg rm) ∨
      (i = .msrImm c false mask o rot imm8 ∧ v = (shifterOperand (.imm rot imm8) s).value) →
    s.ready i = true →
    let allowed := s.priv || s.halted
    let sel : Nat → Bool := fun k => mask.getLsbD (k / 8) && (decide (27 ≤ k) || (allowed && decide (k < 8) && k != 5))
    let newMode : BitVec 5 := if allowed && mask.getLsbD 0 then v.extractLsb' 0 5 else s.mode
    (allowed = true → mask.getLsbD 0 = true → v.getLsbD 5 = true → exec i s = .refused .msrSetsT) ∧
    (¬(allowed = true ∧ mask.getLsbD 0 = true ∧ v.getLsbD 5 = true) → legalMode newMode = true →
      ∃ t : State, exec i s = .next t.moveOn ∧ t = { s with cpsr := t.cpsr } ∧
        ∀ k, k < 32 → t.cpsr.getLsbD k = if sel k then v.getLsbD k else s.cpsr.getLsbD k) ∧
    (allowed = true → ¬(mask.getLsbD 0 = true ∧ v.getLsbD 5 = true) → legalMode newMode = false →
      exec i s = .refused .illegalMode)

/-- MSR to the SPSR of the current mode, register and immediate form: in the bytes the field mask selects, every bit but
[26:8] takes the operand's; without an SPSR it is refused (spec/10 R45; spec/45 R671-R673; U4). -/
def Obligations.SavedStatusWrites : Prop :=
  ∀ (c : Cond) (mask o z rot : BitVec 4) (rm : Reg) (imm8 : BitVec 8) (s : State) (i : Instr) (v : Word),
    (i = .msrReg c true mask o z rm ∧ v = s.reg rm) ∨
      (i = .msrImm c true mask o rot imm8 ∧ v = (shifterOperand (.imm rot imm8) s).value) →
    s.ready i = true →
    (∀ k : Fin 5, spsrIndex s.bank = some k → ∃ w : Word, exec i s = .next { s with spsr := s.spsr.set k w }.moveOn ∧
      ∀ n, n < 32 → w.getLsbD n =
        if mask.getLsbD (n / 8) = true ∧ (n < 8 ∨ 27 ≤ n) then v.getLsbD n else s.spsr[k].getLsbD n) ∧
    (spsrIndex s.bank = none → exec i s = .refused .noSpsr)

/-- SWI takes the Software Interrupt exception with the next address as its link; its immediate has no effect. An
instruction of an UNDEFINED row takes the Undefined Instruction exception, likewise (spec/30 R434, R438, R439; spec/31 R490;
spec/45 R675; spec/48 R830, R832; spec/60 R862, R864, R866). -/
def Obligations.SoftwareTraps : Prop :=
  (∀ (c : Cond) (imm : BitVec 24) (s : State), s.passes c = true → s.halted = false →
    exec (.swi c imm) s = .next (takeException .swi (s.pc + s.instrSize) s)) ∧
  (∀ (imm : BitVec 8) (s : State), s.halted = false →
    exec (.tSwi imm) s = .next (takeException .swi (s.pc + s.instrSize) s)) ∧
  (∀ (i : Instr) (s : State), isUndefined i = true → s.condHolds i = true → s.halted = false →
    exec i s = .next (takeException .undefined (s.pc + s.instrSize) s))

/-- BKPT (spec/45 R676; spec/48 R831; spec/61 R909, R916; spec/60 R867): with debugging disabled, a Prefetch Abort with
status 0010 and r14_abt = A + 4; enabled in monitor mode, the same with MOE = 011; enabled in halt mode, debug state with
MOE = 011 and no register of CP15 written (spec/61 R905; spec/21 R299, D30; log 27). An ARM BKPT with a condition other than AL is
refused. (What else the IFSR holds after the Prefetch Abort is a free value, log 27. Choices of the spec: status 0010 with debugging
disabled, D19, and the pc a debugger finds, D20, log 20.) -/
def Obligations.Breakpoints : Prop :=
  ∀ (i : Instr) (s : State), ((∃ hi lo, i = .bkpt .al hi lo) ∨ ∃ imm, i = .tBkpt imm) → s.halted = false →
    ∃ t, exec i s = .next t ∧
      (s.debugEnabled = false ∨ s.haltMode = false →
        t.pc = vectorBase s + 0x0C#32 ∧ t.mode = 0x17#5 ∧ t.thumb = false ∧ t.cpsr.getLsbD 7 = true ∧
        t.regIn .abt regLr = s.pc + 4#32 ∧ t.spsr[3] = s.cpsr ∧ t.halted = false ∧
        (∀ k : Fin 30, k ≠ regIndex .abt regLr → t.regs[k] = s.regs[k]) ∧
        t.cp15.ifsr.extractLsb' 0 4 = 2#4 ∧ t.cp15.dfsr = s.cp15.dfsr ∧ t.cp15.dfar = s.cp15.dfar) ∧
      (s.debugEnabled = true → t.dbg.dscr.extractLsb' 2 3 = 3#3) ∧
      (s.debugEnabled = false → t.dbg.dscr = s.dbg.dscr) ∧
      (s.debugEnabled = true → s.haltMode = true → t.halted = true ∧ t.pc = s.pc ∧ t.cpsr = s.cpsr ∧ t.regs = s.regs ∧
        t.spsr = s.spsr ∧ t.cp15 = s.cp15) ∧
      t.mem = s.mem ∧
      ∀ c hi lo, c ≠ .al → exec (.bkpt c hi lo) s = .refused .conditionalBkpt

/-- Exception entry (spec/60 R840, R860, R861; spec/10 R32, R45): the link goes to r14 and the old CPSR to the SPSR of the
mode entered, T is cleared and I set, F set by Reset and FIQ only, the other CPSR bits and every other register kept; the pc
is the vector base c1.V selects plus the vector's offset, and the prefetch buffer is empty. -/
def Obligations.ExceptionEntry : Prop :=
  ∀ (e : Exc) (link : Word) (s : State),
    let t := takeException e link s
    let b := bankOf e.mode
    let offset : Word := match e with
      | .reset => 0x00#32 | .undefined => 0x04#32 | .swi => 0x08#32 | .prefetchAbort => 0x0C#32
      | .dataAbort => 0x10#32 | .irq => 0x18#32 | .fiq => 0x1C#32
    let mode : BitVec 5 := match e with
      | .reset => 0x13#5 | .undefined => 0x1B#5 | .swi => 0x13#5 | .prefetchAbort => 0x17#5
      | .dataAbort => 0x17#5 | .irq => 0x12#5 | .fiq => 0x11#5
    t.pc = (if s.highVectors then 0xFFFF0000#32 else 0#32) + offset ∧ t.mode = mode ∧ t.reg regLr = link ∧
    t.readSpsr = s.cpsr ∧ t.thumb = false ∧ t.cpsr.getLsbD 7 = true ∧
    t.cpsr.getLsbD 6 = (s.cpsr.getLsbD 6 || (e == .reset || e == .fiq)) ∧
    (∀ k, 8 ≤ k → t.cpsr.getLsbD k = s.cpsr.getLsbD k) ∧
    (∀ k : Fin 30, k ≠ regIndex b regLr → t.regs[k] = s.regs[k]) ∧
    (∀ k : Fin 5, some k ≠ spsrIndex b → t.spsr[k] = s.spsr[k]) ∧
    t.mem = s.mem ∧ t.cp15 = s.cp15 ∧ t.prefetch = []

/-- What a running processor does at an instruction boundary with no move of the outside world (spec/60 R852, R869, R870, R872;
spec/61 R905, R920; spec/70 R980): a debug request in halt mode first, with DBGACK HIGH, then a pending FIQ that F does not mask,
then a pending IRQ that I does not mask, each with the next address plus 4 as its link; while a reset pin is LOW, and in debug
state with no instruction of the ITR waiting, nothing happens. The model's choices are that a request is taken at this very
boundary and MOE when a JTAG HALT and EDBGRQ are both due (log 26; the spec gives no bound and no order), that a step in which
nothing happens is a next state with nothing changed (log 43), and the pc on entry to debug state (D20, log 20). -/
def Obligations.BoundaryEvents : Prop :=
  (∀ s : State, s.inputs = [] → s.pins.hresetn = false ∨ s.pins.sfresetn = false → step s = .next s) ∧
  (∀ s : State, s.inputs = [] → s.run = .running → s.pins.hresetn = true → s.pins.sfresetn = true → s.pm.pending = none →
    (s.halted = true → s.dbg.itrWait = false → step s = .next s) ∧
    (s.halted = false → s.debugEnabled = true → s.haltMode = true → s.pins.edbgrq = true ∨ s.dbg.haltReq = true →
      ∃ t, step s = .next t ∧ t.halted = true ∧ t.dbgack = true ∧
        t.dbg.dscr.extractLsb' 2 3 = (if s.dbg.haltReq then 0#3 else 4#3) ∧
        t.regs = s.regs ∧ t.cpsr = s.cpsr ∧ t.pc = s.pc ∧ t.mem = s.mem) ∧
    (s.halted = false → (s.pins.edbgrq = false ∧ s.dbg.haltReq = false) ∨ s.debugEnabled = false ∨ s.haltMode = false →
      (s.pins.nfiq = false → s.cpsr.getLsbD 6 = false → step s = .next (takeException .fiq (s.pc + 4#32) s)) ∧
      (s.pins.nfiq = true ∨ s.cpsr.getLsbD 6 = true → s.pins.nirq = false → s.cpsr.getLsbD 7 = false →
        step s = .next (takeException .irq (s.pc + 4#32) s))))

/-- Wait for interrupt (spec/60 R890; spec/11 R111; spec/22 R352): the MCR drains the buffers and, with no request pending, puts
the processor in STANDBY; with a request pending it drains and goes on. The processor stays in STANDBY until nFIQ or nIRQ
goes LOW, masked or not, or EDBGRQ goes HIGH with halt-mode debugging enabled; a pending FIQ, then a pending IRQ, that is not
masked is then taken first, even with EDBGRQ HIGH; else the processor goes on as a running one does, with the debug request or
the next instruction. Which requests wake it, and that a pending one means no wait, are D41, DESIGN CHOICE (log 22); that a
waiting step changes nothing is the model's choice (log 43). With Rd = r15 the word sent is a free value (log 30); a word that is
not zero is refused (spec/11 R110). -/
def Obligations.WaitForInterrupt : Prop :=
  (∀ (c : Cond) (rd : Reg) (u : State), u.priv = true → u.passes c = true → u.canAdvance = true →
    u.sent rd ≠ 0#32 → exec (.mcr c ⟨0#3, 7#4, rd, 15#4, 4#3, 0#4⟩) u = .refused .cp15ShouldBe) ∧
  (∀ (c : Cond) (rd : Reg) (u : State), u.priv = true → u.passes c = true → u.canAdvance = true → u.sent rd = 0#32 →
    let wait := exec (.mcr c ⟨0#3, 7#4, rd, 15#4, 4#3, 0#4⟩) u
    let s := u.sending rd
    (s.pins.nfiq = true → s.pins.nirq = true →
      s.pins.edbgrq = false ∨ s.haltMode = false ∨ s.debugEnabled = false →
      wait = .next { drainAll s with run := .standby }.moveOn) ∧
    (s.pins.nfiq = false ∨ s.pins.nirq = false ∨ (s.pins.edbgrq = true ∧ s.haltMode = true ∧ s.debugEnabled = true) →
      wait = .next (drainAll s).moveOn) ∧
    (drainAll s).wbuf = [] ∧ (drainAll s).castout = none) ∧
  (∀ s : State, s.inputs = [] → s.run = .standby → s.halted = false → s.pins.hresetn = true → s.pins.sfresetn = true →
    s.pm.pending = none →
    (s.pins.nfiq = true → s.pins.nirq = true →
      s.pins.edbgrq = false ∨ s.haltMode = false ∨ s.debugEnabled = false → step s = .next s) ∧
    (s.pins.nfiq = false → s.cpsr.getLsbD 6 = false →
      step s = .next (takeException .fiq (s.pc + 4#32) { s with run := .running })) ∧
    (s.pins.nfiq = true ∨ s.cpsr.getLsbD 6 = true →
      (s.pins.nirq = false → s.cpsr.getLsbD 7 = false →
        step s = .next (takeException .irq (s.pc + 4#32) { s with run := .running })) ∧
      (s.pins.nirq = true ∨ s.cpsr.getLsbD 7 = true →
        (s.pins.nfiq = false ∨ s.pins.nirq = false → step s = step { s with run := .running }) ∧
        (s.pins.edbgrq = true → s.haltMode = true → s.debugEnabled = true →
          step s = step { s with run := .running } ∧
          ∃ t, step s = .next t ∧ t.run = .running ∧ t.halted = true ∧ t.regs = s.regs ∧ t.cpsr = s.cpsr ∧ t.pc = s.pc))))

/-- MRC from CP15 in a privileged mode (spec/11 R82, R84, R86, R87, R103-R109, R122, R126, R132, R134, R141, R143, R146, R147;
spec/46 R706, R707, R721): what each register answers, nothing else changed. With Rd = r15 the top four bits go to the flags.
The bits [31:22] of c1 and [13:0] of c2, and the PMRDR with R = 0 (D10), are free values (logs 15, 30). The model's choices and
readings: bits [23:20] of the device ID are 0 (log 7), and it answers for the opcode_2 that are not listed (D4); should-be-zero
bits that keep no state read as zero (log 14, DEDUCED), the PLL register's bits [24:23] are the pins PCONFIGOUT (log 38), the PMSR
and the PMRDR without a power manager (log 42), and the memory of the bits of c1 last read (log 15). -/
def Obligations.SystemControlReads : Prop :=
  ∀ (c : Cond) (rd : Reg) (s : State), s.priv = true → s.passes c = true → s.canAdvance = true →
    let is : BitVec 4 → BitVec 4 → BitVec 3 → Word → Prop := fun crn crm op2 v =>
      exec (.mrc c ⟨0#3, crn, rd, 15#4, op2, crm⟩) s = .next (s.receive rd v).moveOn
    (∀ op2, op2 ≠ 1#3 → is 0#4 0#4 op2 (0x4105A200#32 ||| Config.revision.zeroExtend 32)) ∧
    is 0#4 0#4 1#3 0x0D1B21B2#32 ∧
    (∃ w : Word, exec (.mrc c ⟨0#3, 1#4, rd, 15#4, 0#3, 0#4⟩) s =
        .next ({ s.useFree with cp15 := { s.cp15 with ctlHigh := w.extractLsb' 22 10 } }.receive rd w).moveOn ∧
      ∀ k, k < 22 → w.getLsbD k = s.cp15.ctl.getLsbD k) ∧
    (∃ v : Word, exec (.mrc c ⟨0#3, 2#4, rd, 15#4, 0#3, 0#4⟩) s = .next (s.useFree.receive rd v).moveOn ∧
      ∀ k, 14 ≤ k → v.getLsbD k = s.cp15.ttbr.getLsbD k) ∧
    is 3#4 0#4 0#3 s.cp15.dacr ∧ is 5#4 0#4 0#3 (s.cp15.dfsr.zeroExtend 32) ∧ is 5#4 0#4 1#3 (s.cp15.ifsr.zeroExtend 32) ∧
    is 6#4 0#4 0#3 s.cp15.dfar ∧ is 6#4 0#4 1#3 s.cp15.ifar ∧
    is 9#4 0#4 0#3 (s.dcache.base.zeroExtend 32 <<< 26) ∧ is 9#4 0#4 1#3 (s.icache.base.zeroExtend 32 <<< 26) ∧
    is 10#4 0#4 0#3 ((s.dtlb.base.zeroExtend 32 <<< 26) ||| (s.dtlb.victim.zeroExtend 32 <<< 20) |||
      (if s.dtlb.preserve then 1#32 else 0#32)) ∧
    is 10#4 0#4 1#3 ((s.itlb.base.zeroExtend 32 <<< 26) ||| (s.itlb.victim.zeroExtend 32 <<< 20) |||
      (if s.itlb.preserve then 1#32 else 0#32)) ∧
    is 13#4 0#4 0#3 (s.cp15.pid.zeroExtend 32 <<< 25) ∧ is 13#4 0#4 1#3 s.cp15.contextId ∧
    is 15#4 12#4 0#3 ((s.cp15.pll &&& 0x007FCFFF#32) ||| (s.pins.pconfigout.zeroExtend 32 <<< 23)) ∧
    (s.pins.pmexists = true → is 15#4 14#4 0#3 (0x10000000#32 ||| (if s.pm.w then 2#32 else 0#32) |||
      (if s.pm.r then 1#32 else 0#32))) ∧
    (s.pins.pmexists = false → is 15#4 14#4 0#3 0x10000002#32) ∧
    (s.pins.pmexists = true → s.pm.r = true → exec (.mrc c ⟨0#3, 15#4, rd, 15#4, 1#3, 14#4⟩) s =
      .next ({ s with pm := { s.pm with r := false } }.receive rd
        ((if s.pm.rxEmul then 0x80000000#32 else 0#32) ||| (s.pm.rxState.zeroExtend 32 <<< 4))).moveOn) ∧
    (s.pins.pmexists = false ∨ s.pm.r = false → exec (.mrc c ⟨0#3, 15#4, rd, 15#4, 1#3, 14#4⟩) s =
      .next (s.useFree.receive rd s.freeVal).moveOn) ∧
    is 15#4 11#4 0#3 (s.cp15.cr2.zeroExtend 32)

/-- MCR to a register of CP15 in a privileged mode (spec/11 R82, R87, R102-R109, R122, R126, R132, R134, R141, R145, R147,
R150-R153; spec/21 R259; spec/46 R705, R721): a value that keeps the register's should-be fields is written, with the effects the
register's rule gives; a value that does not is refused. Bits [31:22] of c1 may be written with zeros or with the bits last read
there (R102; the memory of these bits is log 15). A TLB entry write puts the holding registers into the entry Rd[31:26] names: an
invalid entry with V = 0, and with a mask that is not listed or a section's size it is refused (spec/91 N13); another size code
that R152 does not list stays in the entry, whose page is then a free value (log 51). PMTDR with W = 0 is refused; without a power
manager a write of it has no effect (D42), of any value (log 42). The bits a write of the PLL register keeps are D7 (log 38). With
Rd = r15 the word sent is a free value (log 30). -/
def Obligations.SystemControlWrites : Prop :=
  ∀ (c : Cond) (rd : Reg) (u : State), u.priv = true → u.passes c = true → u.canAdvance = true →
    let v := u.sent rd
    let s := u.sending rd
    let write : BitVec 4 → BitVec 4 → BitVec 3 → Outcome State := fun crn crm op2 =>
      exec (.mcr c ⟨0#3, crn, rd, 15#4, op2, crm⟩) u
    let does : BitVec 4 → BitVec 4 → BitVec 3 → Word → State → Prop := fun crn crm op2 zero t =>
      write crn crm op2 = if v &&& zero = 0#32 then .next t.moveOn else .refused .cp15ShouldBe
    let size : BitVec 4 → PageSize := fun m =>
      if m = 7#4 then .kb64 else if m = 3#4 then .kb16 else if m = 1#4 then .kb4 else if m = 0#4 then .kb1 else .unlisted m
    let soft : BitVec 3 → Tlb → (Tlb → State) → Prop := fun op2 t put =>
      let at1 : Option TlbEntry → Outcome State := fun o =>
        .next (put { t with entries := t.entries.set (v.extractLsb' 26 6).toNat o (v.extractLsb' 26 6).isLt }).moveOn
      (t.camHold.getLsbD 27 = false → write 15#4 0#4 op2 = at1 none) ∧
      (t.camHold.getLsbD 27 = true →
        (t.camHold.extractLsb' 22 4 ∈ [7#4, 3#4, 1#4, 0#4] → t.paHold.extractLsb' 0 4 ≠ 15#4 →
          ∃ e : TlbEntry, write 15#4 0#4 op2 = at1 (some e) ∧ e.cmp = size (t.camHold.extractLsb' 22 4) ∧
            e.size = size (t.paHold.extractLsb' 0 4) ∧
            e.tag = t.camHold.extractLsb' 0 22 ∧ e.lock = t.camHold.getLsbD 26 ∧ e.pa = t.paHold.extractLsb' 4 22 ∧
            e.domain = t.protHold.extractLsb' 9 4 ∧ e.dfi = t.protHold.getLsbD 8 ∧
            e.apSelect = t.protHold.extractLsb' 4 4 ∧ e.c = t.protHold.getLsbD 3 ∧ e.b = t.protHold.getLsbD 2 ∧
            e.ncb = t.protHold.getLsbD 1 ∧ e.ncnb = t.protHold.getLsbD 0 ∧ e.preserved = t.preserve) ∧
        (t.camHold.extractLsb' 22 4 ∉ [7#4, 3#4, 1#4, 0#4] ∨ t.paHold.extractLsb' 0 4 = 15#4 →
          write 15#4 0#4 op2 = .refused .tlbFormat))
    let keeps : Prop := (v.extractLsb' 22 10 = 0#10 ∨ v.extractLsb' 22 10 = s.cp15.ctlHigh) ∧ v &&& 0x001F0400#32 = 0#32 ∧
      v &&& 0x70#32 = 0x70#32
    (keeps → write 1#4 0#4 0#3 = .next { s with cp15 := { s.cp15 with ctl := v &&& 0x003FFFFF#32 } }.moveOn) ∧
    (¬keeps → write 1#4 0#4 0#3 = .refused .cp15ShouldBe) ∧
    does 2#4 0#4 0#3 0x3FFF#32 { s with cp15 := { s.cp15 with ttbr := v } } ∧
    (∃ t, does 3#4 0#4 0#3 0#32 t ∧ t = { s with
        cp15 := { s.cp15 with dacr := v }
        itlb := { s.itlb with entries := t.itlb.entries }
        dtlb := { s.dtlb with entries := t.dtlb.entries } } ∧
      (∀ k : Fin 64, t.itlb.entries[k] = if k.val < s.itlb.base.toNat then s.itlb.entries[k] else none) ∧
      (∀ k : Fin 64, t.dtlb.entries[k] = if k.val < s.dtlb.base.toNat then s.dtlb.entries[k] else none)) ∧
    does 5#4 0#4 0#3 0xFFFFFF00#32 { s with cp15 := { s.cp15 with dfsr := v.extractLsb' 0 8 } } ∧
    does 5#4 0#4 1#3 0xFFFFFFF0#32 { s with cp15 := { s.cp15 with ifsr := v.extractLsb' 0 8 } } ∧
    does 6#4 0#4 0#3 0#32 { s with cp15 := { s.cp15 with dfar := v } } ∧
    does 6#4 0#4 1#3 0#32 { s with cp15 := { s.cp15 with ifar := v } } ∧
    (∃ t, does 9#4 0#4 0#3 0x03FFFFFF#32 { s with dcache := t } ∧ t.lines = s.dcache.lines ∧
      t.base = v.extractLsb' 26 6 ∧ ∀ g : Fin 16, t.victim[g] = v.extractLsb' 26 6) ∧
    (∃ t, does 9#4 0#4 1#3 0x03FFFFFF#32 { s with icache := t } ∧ t.lines = s.icache.lines ∧
      t.base = v.extractLsb' 26 6 ∧ ∀ g : Fin 16, t.victim[g] = v.extractLsb' 26 6) ∧
    does 10#4 0#4 0#3 0x000FFFFE#32 { s with
      dtlb := { s.dtlb with base := v.extractLsb' 26 6, victim := v.extractLsb' 20 6, preserve := v.getLsbD 0 } } ∧
    does 10#4 0#4 1#3 0x000FFFFE#32 { s with
      itlb := { s.itlb with base := v.extractLsb' 26 6, victim := v.extractLsb' 20 6, preserve := v.getLsbD 0 } } ∧
    does 13#4 0#4 0#3 0x01FFFFFF#32 { s with cp15 := { s.cp15 with pid := v.extractLsb' 25 7 } } ∧
    does 13#4 0#4 1#3 0#32 { s with cp15 := { s.cp15 with contextId := v } } ∧
    does 15#4 12#4 0#3 0xFE003000#32 { s with cp15 := { s.cp15 with pll := v &&& 0x007FCFFF#32 } } ∧
    does 15#4 11#4 0#3 0xFFFFFFE0#32 { s with cp15 := { s.cp15 with cr2 := v.extractLsb' 0 5 } } ∧
    (s.pins.pmexists = true → s.pm.w = true → does 15#4 14#4 1#3 0x7FFFFF0F#32 { s with
      pm := { s.pm with w := false, txReq := true, txEmul := v.getLsbD 31, txState := v.extractLsb' 4 4 } }) ∧
    (s.pins.pmexists = true → s.pm.w = false → v &&& 0x7FFFFF0F#32 = 0#32 → write 15#4 14#4 1#3 = .refused .pmtdrBusy) ∧
    (s.pins.pmexists = false → write 15#4 14#4 1#3 = .next s.moveOn) ∧
    does 15#4 8#4 1#3 0xF0000000#32 { s with itlb := { s.itlb with camHold := v } } ∧
    does 15#4 8#4 4#3 0xFFFFE000#32 { s with itlb := { s.itlb with protHold := v } } ∧
    does 15#4 8#4 6#3 0xFC000000#32 { s with itlb := { s.itlb with paHold := v } } ∧
    does 15#4 10#4 1#3 0xF0000000#32 { s with dtlb := { s.dtlb with camHold := v } } ∧
    does 15#4 10#4 4#3 0xFFFFE000#32 { s with dtlb := { s.dtlb with protHold := v } } ∧
    does 15#4 10#4 6#3 0xFC000000#32 { s with dtlb := { s.dtlb with paHold := v } } ∧
    soft 3#3 s.itlb (fun t => { s with itlb := t }) ∧ soft 5#3 s.dtlb (fun t => { s with dtlb := t })

/-- (1) The cache, TLB and write-buffer operations of CP15 c7 and c8 in a privileged mode (spec/11 R110-R120; spec/21 R257,
R258; spec/22 R343-R345, R350-R353, R380, R381): after invalidate all no address hits, the base and the victims stay; after an
invalidate by address that address does not, and every other line stays; a clean by address, or by segment and index after a drain
(log 52), queues a dirty write-back line for memory, the doubleword named first, and leaves it clean, or with invalidate drops it;
prefetch ICache line fills a line on a miss; a TLB keeps only its preserved entries, or all but those that matched the address (that
all go where two match is log 35); draining empties the write buffer and the castout buffer. Memory changes by a drain only. With
Rd = r15 the word sent is a free value (log 30); a word that is not as the format wants it is refused. (2) What one drain does: the
oldest entry goes to the bus with its address, size, data and HPROT, and its bytes to RAM in its byte order (that all its bytes
take the region kind of its first, and that one to ROM or a device changes no memory, is log 12); a castout that is next
goes in four doublewords, the named one first; every other byte stays. (3) A full drain is these drains, one after the other. (4) A
store that is buffered stands last, after as many drains as make room for it. (Where an older castout stands among the entries is
log 33; the castout's HPROT is free, log 11.) -/
def Obligations.CacheAndTlbOperations : Prop :=
  (∀ (c : Cond) (rd : Reg) (u : State), u.priv = true → u.passes c = true → u.canAdvance = true →
    let v := u.sent rd
    let s := u.sending rd
    let mva := relocate s.cp15.pid v
    let op : BitVec 4 → BitVec 4 → BitVec 3 → (State → Prop) → Prop := fun crn crm op2 post =>
      ∃ t, exec (.mcr c ⟨0#3, crn, rd, 15#4, op2, crm⟩) u = .next t.moveOn ∧ post t
    -- only the lines of the cache, only the entries of the TLB, are those after the operation
    let lines : Cache → Cache → Cache := fun a b => { a with lines := b.lines }
    let entries : Tlb → Tlb → Tlb := fun a b => { a with entries := b.entries }
    let kept : Tlb → Tlb → Prop := fun a b => ∀ k : Fin 64, b.entries[k] = (a.entries[k]).filter (fun e => e.preserved)
    let dropped : Tlb → Tlb → Prop := fun a b => ∀ k : Fin 64, b.entries[k] = (a.entries[k]).filter (fun e => !e.hits mva)
    let lineGone : Cache → Cache → Prop := fun a b => b.lookup mva = none ∧ b.base = a.base ∧ b.victim = a.victim ∧
      ∀ x, segOf x ≠ segOf mva ∨ tagOf x ≠ tagOf mva → b.lookup x = a.lookup x
    -- the line at segment g and index k, with its castout beginning at a doubleword, cleaned in s1
    let cleaned : Bool → BitVec 4 → BitVec 6 → CacheLine → BitVec 2 → State → State → Prop := fun drop g k l start s1 t =>
      (∀ h i, t.dcache.line h i =
        if h = g ∧ i = k then (if drop then none else some { l with dirty := false }) else s1.dcache.line h i) ∧
      t.regs = s.regs ∧ t.cpsr = s.cpsr ∧ t.icache = s.icache ∧ t.dcache.victim = s.dcache.victim ∧
      t.dcache.base = s.dcache.base ∧
      (∃ n, t = { drains n s1 with dcache := t.dcache, castout := t.castout } ∧ (s1.castout = none → n = 0)) ∧
      (l.dirty = true → l.wb = true →
        t.castout.map (fun x => (x.paTag, x.data, x.start)) = some (l.paTag, l.data, start) ∧
        (s1.castout = none → t.mem = s1.mem ∧ t.wbuf = s1.wbuf)) ∧
      (l.dirty = false ∨ l.wb = false → t = { s1 with dcache := t.dcache })
    let byAddress : Bool → State → Prop := fun drop t =>
      (s.dcache.lookup mva = none → t = s) ∧
      ∀ k l, s.dcache.lookup mva = some (k, l) → cleaned drop (segOf mva) k l (mva.extractLsb' 3 2) s t
    let byIndex : Bool → State → Prop := fun drop t =>
      let g : BitVec 4 := v.extractLsb' 5 4
      let k : BitVec 6 := v.extractLsb' 26 6
      (s.dcache.line g k = none → t = drainAll s) ∧
      ∀ l, s.dcache.line g k = some l → cleaned drop g k l (v.extractLsb' 3 2) (drainAll s) t
    (v = 0#32 →
      op 7#4 5#4 0#3 (fun t => t = { s with icache := lines s.icache t.icache } ∧ ∀ a, t.icache.lookup a = none) ∧
      op 7#4 6#4 0#3 (fun t => t = { s with dcache := lines s.dcache t.dcache } ∧ ∀ a, t.dcache.lookup a = none) ∧
      op 7#4 7#4 0#3 (fun t => t = { s with icache := lines s.icache t.icache, dcache := lines s.dcache t.dcache } ∧
        ∀ a, t.icache.lookup a = none ∧ t.dcache.lookup a = none) ∧
      op 7#4 10#4 4#3 (fun t => t = drainAll s ∧ t.wbuf = [] ∧ t.castout = none) ∧
      op 8#4 5#4 0#3 (fun t => t = { s with itlb := entries s.itlb t.itlb } ∧ kept s.itlb t.itlb) ∧
      op 8#4 6#4 0#3 (fun t => t = { s with dtlb := entries s.dtlb t.dtlb } ∧ kept s.dtlb t.dtlb) ∧
      op 8#4 7#4 0#3 (fun t => t = { s with itlb := entries s.itlb t.itlb, dtlb := entries s.dtlb t.dtlb } ∧
        kept s.itlb t.itlb ∧ kept s.dtlb t.dtlb)) ∧
    op 8#4 5#4 1#3 (fun t => t = { s with itlb := entries s.itlb t.itlb } ∧ dropped s.itlb t.itlb ∧
      t.itlb.matching mva = []) ∧
    op 8#4 6#4 1#3 (fun t => t = { s with dtlb := entries s.dtlb t.dtlb } ∧ dropped s.dtlb t.dtlb ∧
      t.dtlb.matching mva = []) ∧
    op 7#4 5#4 1#3 (fun t => t = { s with icache := t.icache } ∧ lineGone s.icache t.icache) ∧
    op 7#4 6#4 1#3 (fun t => t = { s with dcache := t.dcache } ∧ lineGone s.dcache t.dcache) ∧
    op 7#4 10#4 1#3 (byAddress false) ∧ op 7#4 14#4 1#3 (byAddress true) ∧
    (v &&& 0x03FFFE07#32 = 0#32 → op 7#4 10#4 2#3 (byIndex false) ∧ op 7#4 14#4 2#3 (byIndex true)) ∧
    (v &&& 0x03FFFE07#32 ≠ 0#32 → ∀ crm, crm = 10#4 ∨ crm = 14#4 →
      exec (.mcr c ⟨0#3, 7#4, rd, 15#4, 2#3, crm⟩) u = .refused .cp15ShouldBe) ∧
    (v ≠ 0#32 → ∀ k ∈ ([(7#4, 5#4, 0#3), (7#4, 6#4, 0#3), (7#4, 7#4, 0#3), (7#4, 10#4, 4#3), (8#4, 5#4, 0#3), (8#4, 6#4, 0#3),
        (8#4, 7#4, 0#3)] : List (BitVec 4 × BitVec 4 × BitVec 3)),
      exec (.mcr c ⟨0#3, k.1, rd, 15#4, k.2.2, k.2.1⟩) u = .refused .cp15ShouldBe) ∧
    (s.mmuOn = false → s.halted = false → s.memMap = [] → s.intruders = [] → op 7#4 13#4 1#3 (fun t =>
      (s.icacheOn = false ∨ (s.icache.lookup mva).isSome = true → t = s) ∧
      (s.icacheOn = true → s.icache.lookup mva = none →
        t = { s with icache := t.icache, bus := t.bus, freeCount := t.freeCount } ∧
        ∃ l, s.icache.filledWith t.icache s.roundRobin mva l ∧
          ∀ a : Word, a.toNat / 32 = mva.toNat / 32 → l.word a = physRead s.mem false .word a)))) ∧
  (∀ s : State, s.intruders = [] →
    let t := drainOne s
    (∀ e rest, s.wbuf = e :: rest → (∀ x, s.castout = some x → x.ahead ≠ 0) →
      let a := transferBase e.big e.size e.pa
      (∃ r : BusRecord, r.master = .dbiu ∧ r.write = true ∧ r.pa = e.pa ∧ r.size = e.size ∧ r.data = e.data ∧ r.hprot = e.prot ∧
        t = { s with
          wbuf := rest, castout := s.castout.map (fun x => { x with ahead := x.ahead - 1 })
          mem := t.mem, bus := r :: s.bus }) ∧
      (kindAt s.memMap e.pa.toNat = .ram →
        (Memory.wf s.mem = true → ∀ k, k < e.size.bytes → Memory.read t.mem (a + k) = e.data.extractLsb' (8 * k) 8) ∧
        ∀ x, x < a ∨ a + e.size.bytes ≤ x → Memory.read t.mem x = Memory.read s.mem x) ∧
      (kindAt s.memMap e.pa.toNat ≠ .ram → t.mem = s.mem)) ∧
    (∀ x, s.castout = some x → s.wbuf = [] ∨ x.ahead = 0 →
      let line : Word := x.paTag ++ 0#5
      t = { s with castout := none, mem := t.mem, bus := t.bus, freeCount := t.freeCount } ∧
      (∃ r : Fin 4 → BusRecord, t.bus = r 3 :: r 2 :: r 1 :: r 0 :: s.bus ∧ ∀ k : Fin 4,
        let d : Fin 4 := ⟨(x.start.toNat + k.val) % 4, Nat.mod_lt _ (by decide)⟩
        (r k).master = .dbiu ∧ (r k).write = true ∧ (r k).size = .dword ∧ (r k).burst = .wrap4 ∧
        (r k).pa = line + BitVec.ofNat 32 (8 * d.val) ∧
        (r k).data = x.data[2 * d.val + 1] ++ x.data[2 * d.val]) ∧
      (s.memMap = [] →
        (Memory.wf s.mem = true → ∀ k : Fin 8, physRead t.mem false .word (line + BitVec.ofNat 32 (4 * k.val)) = x.data[k]) ∧
        ∀ y, y / 32 ≠ x.paTag.toNat → Memory.read t.mem y = Memory.read s.mem y))) ∧
  (∀ s : State, drainAll s = drains (s.wbuf.length + (if s.castout.isSome then 1 else 0)) s ∧
    ∀ rest, s.inputs = .drain :: rest → s.run ≠ .poweredDown → step s = .next (drainOne { s with inputs := rest })) ∧
  (∀ (s : State) (e : WriteEntry), ∃ n,
    bufferWrite e s = { drains n s with wbuf := (drains n s).wbuf ++ [e] } ∧
    (bufferWrite e s).wbuf.length ≤ max s.wbuf.length (if s.fastInt then 4 else 8) ∧
    (s.wbuf.length < (if s.fastInt then 4 else 8) → n = 0) ∧
    ((if s.fastInt then 4 else 8) ≤ s.wbuf.length → (bufferWrite e s).wbuf.length = if s.fastInt then 4 else 8))

/-- CP15 and CP14 in User mode, registers that are not there, and accesses the spec does not list (spec/11 R81, R82, R116;
spec/12 R161; spec/46 R720-R722): an MRC or MCR to CP15 in User mode, or in any mode to c4, c11, c12 or c14, is Undefined, as
are every CDP, LDC, STC, MCRR and MRRC of CP15, the reserved registers of CP14 and in User mode its breakpoint and watchpoint
registers; an access to CP15 that is not listed, whatever its opcode_1, is refused (D3). The spec's own choices among these: the
MCRR and MRRC of CP15 (D2), and of CP14 the reserved registers, the registers barred to User mode, CDP, MCRR, MRRC and the other
forms of LDC and STC (D12; spec/12 R163, by analogy with CP15). -/
def Obligations.InternalCoprocessorTraps : Prop :=
  ∀ (c : Cond) (s : State), s.passes c = true → s.halted = false →
    let und : Outcome State := .next (takeException .undefined (s.pc + s.instrSize) s)
    let both : List (Nat × Nat × Nat) := [(1, 0, 0), (2, 0, 0), (3, 0, 0), (5, 0, 0), (5, 0, 1), (6, 0, 0), (6, 0, 1),
      (9, 0, 0), (9, 0, 1), (10, 0, 0), (10, 0, 1), (13, 0, 0), (13, 0, 1), (15, 11, 0), (15, 12, 0), (15, 14, 1)]
    let reads := both ++ (List.range 8).map (fun k => (0, 0, k)) ++ [(15, 14, 0)]
    let writes := both ++ [(7, 0, 4), (7, 5, 0), (7, 5, 1), (7, 6, 0), (7, 6, 1), (7, 7, 0), (7, 10, 1), (7, 10, 2),
      (7, 10, 4), (7, 13, 1), (7, 14, 1), (7, 14, 2), (8, 5, 0), (8, 5, 1), (8, 6, 0), (8, 6, 1), (8, 7, 0), (15, 0, 3),
      (15, 0, 5), (15, 8, 1), (15, 8, 4), (15, 8, 6), (15, 10, 1), (15, 10, 4), (15, 10, 6)]
    let name : CpReg → Nat × Nat × Nat := fun f => (f.crn.toNat, f.crm.toNat, f.op2.toNat)
    (∀ f : CpReg, f.cp = 15#4 → (s.priv = false ∨ f.crn ∈ [4#4, 11#4, 12#4, 14#4]) →
      exec (.mcr c f) s = und ∧ exec (.mrc c f) s = und) ∧
    (∀ f : CpReg, f.cp = 15#4 → s.priv = true → f.crn ∉ [4#4, 11#4, 12#4, 14#4] →
      (f.op1 ≠ 0#3 ∨ name f ∉ writes → exec (.mcr c f) s = .refused .cp15Unlisted) ∧
      (f.op1 ≠ 0#3 ∨ name f ∉ reads → exec (.mrc c f) s = .refused .cp15Unlisted)) ∧
    (∀ f : CpMem, f.cp = 15#4 → exec (.ldc c f) s = und ∧ exec (.stc c f) s = und) ∧
    (∀ f : CpMem, f.cp = 14#4 → f.crd ≠ 5#4 → exec (.ldc c f) s = und ∧ exec (.stc c f) s = und) ∧
    (∀ f : CpOp, f.cp = 14#4 ∨ f.cp = 15#4 → exec (.cdp c f) s = und ∧ exec (.cdp2 f) s = und) ∧
    (∀ f : CpMem, f.cp = 14#4 ∨ f.cp = 15#4 → exec (.ldc2 f) s = und ∧ exec (.stc2 f) s = und) ∧
    (∀ f : CpReg, f.cp = 14#4 ∨ f.cp = 15#4 → exec (.mcr2 f) s = und ∧ exec (.mrc2 f) s = und) ∧
    (∀ (rn rd : Reg) (cp opc crm : BitVec 4), cp = 14#4 ∨ cp = 15#4 →
      exec (.mcrr c rn rd cp opc crm) s = und ∧ exec (.mrrc c rn rd cp opc crm) s = und) ∧
    (∀ f : CpReg, f.cp = 14#4 → (f.op1 ≠ 0#3 ∨ f.crn ≠ 0#4 ∨ f.op2 ∈ [1#3, 2#3, 3#3] ∨
        (f.op2 = 0#3 ∧ f.crm ∉ [0#4, 1#4, 5#4]) ∨ (f.op2 ∈ [4#3, 5#3] ∧ 6 ≤ f.crm.toNat) ∨
        (f.op2 ∈ [6#3, 7#3] ∧ 2 ≤ f.crm.toNat) ∨ (s.priv = false ∧ f.op2 ∈ [4#3, 5#3, 6#3, 7#3])) →
      exec (.mcr c f) s = und ∧ exec (.mrc c f) s = und)

/-- MRC, MCR, LDC and STC of CP14 (spec/12 R161-R185; spec/46 R722; spec/61 R925): the ID register, the DSCR with its reserved bits
free, the DTRs with their full and empty bits, which the outputs COMMRX and COMMTX show, and the breakpoint and watchpoint
registers, which in halt mode only the debugger writes; a control value the spec does not list is refused; an MCR to the DSCR
writes GE and can clear the sticky abort bit; an MCR to the read-only ID register is Undefined; an LDC or STC whose operands are
barred is refused. The model's choices and readings: that User mode may name the ID register, the DSCR and the DTRs (log 45,
DEDUCED), the free reserved bits (log 37), that the breakpoint and watchpoint control registers read with zeros above their bits
(log 14), the word an MCR of r15 sends (log 30), the write to the ID register (D12), that a locked-out write and the DTR accesses
when full or empty go through without effect on anything else (D15, D14). -/
def Obligations.DebugCoprocessor : Prop :=
  ∀ (c : Cond) (rd : Reg) (s : State), s.passes c = true → s.canAdvance = true →
    let v := s.sent rd
    let u := s.sending rd
    let mrc : BitVec 3 → BitVec 4 → Outcome State := fun op2 crm => exec (.mrc c ⟨0#3, 0#4, rd, 14#4, op2, crm⟩) s
    let mcr : BitVec 3 → BitVec 4 → Outcome State := fun op2 crm => exec (.mcr c ⟨0#3, 0#4, rd, 14#4, op2, crm⟩) s
    let dbg : Debug → State := fun d => { u with dbg := d }
    mrc 0#3 0#4 = .next (s.receive rd 0x41006201#32).moveOn ∧
    (s.halted = false → mcr 0#3 0#4 = .next (takeException .undefined (u.pc + u.instrSize) u)) ∧
    (∃ w : Word, mrc 0#3 1#4 = .next (s.useFree.receive rd w).moveOn ∧
      ∀ k, k < 32 → k ∈ [31, 30, 29, 28, 23, 22, 20, 19, 18, 17, 16, 7, 6, 4, 3, 2] → w.getLsbD k = s.dbg.dscr.getLsbD k) ∧
    (∃ d : Word, mcr 0#3 1#4 = .next (dbg { s.dbg with dscr := d }).moveOn ∧ d.getLsbD 31 = v.getLsbD 31 ∧
      d.getLsbD 5 = (s.dbg.dscr.getLsbD 5 && v.getLsbD 5) ∧
      ∀ k, k ≠ 31 → k ≠ 5 → d.getLsbD k = s.dbg.dscr.getLsbD k) ∧
    mrc 0#3 5#4 =
      .next ({ s with dbg := { s.dbg with dscr := s.dbg.dscr &&& 0xFFFFFF7F#32 } }.receive rd s.dbg.rdtr).moveOn ∧
    mcr 0#3 5#4 = .next (dbg { s.dbg with wdtr := v, dscr := s.dbg.dscr &&& 0xFFFFFFBF#32 }).moveOn ∧
    (∀ t, mrc 0#3 5#4 = .next t → t.commrx = false ∧ t.commtx = s.dbg.dscr.getLsbD 6) ∧
    (∀ t, mcr 0#3 5#4 = .next t → t.commtx = false ∧ t.commrx = s.dbg.dscr.getLsbD 7) ∧
    (s.priv = true →
      (∀ k : Fin 6, mrc 4#3 (BitVec.ofNat 4 k) = .next (s.receive rd s.dbg.ba[k]).moveOn ∧
        mrc 5#3 (BitVec.ofNat 4 k) = .next (s.receive rd (s.dbg.bc[k].zeroExtend 32)).moveOn) ∧
      (∀ k : Fin 2, mrc 6#3 (BitVec.ofNat 4 k) = .next (s.receive rd s.dbg.wa[k]).moveOn ∧
        mrc 7#3 (BitVec.ofNat 4 k) = .next (s.receive rd (s.dbg.wc[k].zeroExtend 32)).moveOn) ∧
      (s.haltMode = false ∨ s.halted = true →
        (∀ k : Fin 6, mcr 4#3 (BitVec.ofNat 4 k) = .next (dbg { s.dbg with ba := s.dbg.ba.set k v }).moveOn ∧
          mcr 5#3 (BitVec.ofNat 4 k) = if v &&& 0xFFFFFFE0#32 = 0#32 ∧ v &&& 0x18#32 ≠ 0#32 ∧ v &&& 6#32 ≠ 0#32
            then .next (dbg { s.dbg with bc := s.dbg.bc.set k (v.extractLsb' 0 5) }).moveOn else .refused .cp14ShouldBe) ∧
        (∀ k : Fin 2, mcr 6#3 (BitVec.ofNat 4 k) = .next (dbg { s.dbg with wa := s.dbg.wa.set k v }).moveOn ∧
          mcr 7#3 (BitVec.ofNat 4 k) = if v &&& 0xFFFFF900#32 = 0#32 ∧ v &&& 0xE0#32 ≠ 0#32 ∧ v &&& 0x18#32 ≠ 0#32 ∧
              v &&& 6#32 ≠ 0#32
            then .next (dbg { s.dbg with wc := s.dbg.wc.set k (v.extractLsb' 0 11) }).moveOn else .refused .cp14ShouldBe)) ∧
      (s.haltMode = true → s.halted = false →
        (∀ k : Fin 6, mcr 4#3 (BitVec.ofNat 4 k) = .next u.moveOn ∧ mcr 5#3 (BitVec.ofNat 4 k) = .next u.moveOn) ∧
        (∀ k : Fin 2, mcr 6#3 (BitVec.ofNat 4 k) = .next u.moveOn ∧ mcr 7#3 (BitVec.ofNat 4 k) = .next u.moveOn))) ∧
    (∀ (f : CpMem), f.cp = 14#4 → f.crd = 5#4 → cpMemAllowed f = false →
      exec (.ldc c f) s = .refused .operandRestriction ∧ exec (.stc c f) s = .refused .operandRestriction) ∧
    (∀ (f : CpMem), f.cp = 14#4 → f.crd = 5#4 → cpMemAllowed f = true →
      let back : State → State := fun t => if f.w then t.setReg f.rn (cpBase f s) else t
      (∀ (s1 : State) (w : Word), memReadMany (cpMultiple false s) 1 (cpStart f s) s = .ok [w] s1 →
        exec (.ldc c f) s = .next (back { s1 with
          dbg := { s1.dbg with wdtr := w, dscr := s1.dbg.dscr &&& 0xFFFFFFBF#32 } }).moveOn) ∧
      (∀ s1 : State, memWriteMany (cpMultiple false s) [s.dbg.rdtr] (cpStart f s) s = .ok () s1 →
        exec (.stc c f) s = .next (back { s1 with
          dbg := { s1.dbg with dscr := s1.dbg.dscr &&& 0xFFFFFF7F#32 } }).moveOn))

/-- CDP, MCR, MRC, MCRR, MRRC and their cond = 1111 forms with an external coprocessor (spec/23 R404, R405; spec/46 R700, R702,
R703, R705-R707, R709-R711): absent, Undefined; busy, the processor waits with nothing changed; else the coprocessor is
offered the instruction, with CPSUPER and CPBIGEND, and if it accepts, it receives the registers an MCR or MCRR sends, or an MRC
or MRRC writes what it supplies to the registers (an MRC to r15 the flags); if it does not, Undefined. (A coprocessor is an
oracle: log 8.) -/
def Obligations.ExternalCoprocessors : Prop :=
  ∀ (c : Cond) (s : State) (n : BitVec 4), n ≠ 14#4 → n ≠ 15#4 → s.passes c = true → s.canAdvance = true → s.halted = false →
    let und : State → State := takeException .undefined (s.pc + s.instrSize)
    let offered : Instr → Bool → Bool → State := fun i u a => cpTell (cpOffer n (codeBits i) u s.priv s.big a) s
    let accepts : Instr → Bool → Bool := fun i u => Config.cpAccepts n (codeBits i) u s.priv s.big s.cpHistory
    -- what the instruction i, in the form u, does if it is accepted
    let does : Instr → Bool → (State → State) → Prop := fun i u k =>
      (cpPresent n s = false → exec i s = .next (und s)) ∧
      (cpPresent n s = true → s.pins.cpbusye = true → exec i s = .next s) ∧
      (cpPresent n s = true → s.pins.cpbusye = false →
        exec i s = .next (if accepts i u then (k (offered i u true)).moveOn else und (offered i u false)))
    (∀ f : CpOp, f.cp = n → does (.cdp c f) false id ∧ does (.cdp2 f) true id) ∧
    (∀ f : CpReg, f.cp = n → f.rd ≠ regPc →
      does (.mcr c f) false (cpTell [s.reg f.rd]) ∧ does (.mcr2 f) true (cpTell [s.reg f.rd]) ∧
      does (.mrc c f) false (fun t => t.setReg f.rd (Config.cpSupplies n (codeBits (.mrc c f)) t.cpHistory 0)) ∧
      does (.mrc2 f) true (fun t => t.setReg f.rd (Config.cpSupplies n (codeBits (.mrc2 f)) t.cpHistory 0))) ∧
    (∀ f : CpReg, f.cp = n → f.rd = regPc →
      does (.mcr c f) false (fun t => cpTell [t.freeVal] t.useFree) ∧
      does (.mcr2 f) true (fun t => cpTell [t.freeVal] t.useFree) ∧
      let flags : Word → State → State := fun v t =>
        t.setNZCV (v.getLsbD 31) (v.getLsbD 30) (v.getLsbD 29) (v.getLsbD 28)
      does (.mrc c f) false (fun t => flags (Config.cpSupplies n (codeBits (.mrc c f)) t.cpHistory 0) t) ∧
      does (.mrc2 f) true (fun t => flags (Config.cpSupplies n (codeBits (.mrc2 f)) t.cpHistory 0) t)) ∧
    (∀ (rn rd : Reg) (opc crm : BitVec 4), rn ≠ regPc → rd ≠ regPc →
      does (.mcrr c rn rd n opc crm) false (cpTell [s.reg rd, s.reg rn]) ∧
      (rn ≠ rd → does (.mrrc c rn rd n opc crm) false (fun t =>
        (t.setReg rd (Config.cpSupplies n (codeBits (.mrrc c rn rd n opc crm)) t.cpHistory 0)).setReg rn
          (Config.cpSupplies n (codeBits (.mrrc c rn rd n opc crm)) t.cpHistory 1)))) ∧
    (∀ (rn rd : Reg) (opc crm : BitVec 4), cpPresent n s = true → s.pins.cpbusye = false →
      let barred : Instr → Prop := fun i => exec i s =
        if accepts i false then .refused .operandRestriction else .next (und (offered i false false))
      (rn = regPc ∨ rd = regPc → barred (.mcrr c rn rd n opc crm)) ∧
      (rn = regPc ∨ rd = regPc ∨ rn = rd → barred (.mrrc c rn rd n opc crm)))

/-- LDC, STC, LDC2 and STC2 with an external coprocessor (spec/23 R404, R408, R418; spec/46 R701, R702, R704, R708, R711):
absent, Undefined; busy, the processor waits; else, in plain memory, if the coprocessor accepts, as many words as it asks for go
from memory to it, or from it to memory, from the start address up, the words of each 64-bit transfer exchanged where it asks
for that, and the base is written back with W; if it does not accept, Undefined. An access that aborts is a Data Abort that
leaves the base; of an LDC the coprocessor has the words read before, and free words for the rest (log 41). (A coprocessor is
an oracle: log 8.) -/
def Obligations.ExternalTransfers : Prop :=
  ∀ (c : Cond) (s : State) (f : CpMem), f.cp ≠ 14#4 → f.cp ≠ 15#4 → s.passes c = true → cpMemAllowed f = true →
    let accepts : Instr → Bool → Bool := fun i u => Config.cpAccepts f.cp (codeBits i) u s.priv s.big s.cpHistory
    let offered : Instr → Bool → Bool → State := fun i u a => cpTell (cpOffer f.cp (codeBits i) u s.priv s.big a) s
    let order : Instr → State → List Word → List Word := fun i s1 l => cpOrder f.cp (codeBits i) s1.cpHistory (cpStart f s) l
    let length : Instr → State → Nat := fun i s1 => (Config.cpLength f.cp (codeBits i) s1.cpHistory).val + 1
    let sent : Instr → State → List Word := fun i s1 =>
      order i s1 ((List.range (length i s1)).map (Config.cpSupplies f.cp (codeBits i) s1.cpHistory))
    let ready : Prop := cpPresent f.cp s = true ∧ s.pins.cpbusye = false
    (s.canAdvance = true → s.plain = true →
      let und : State → State := takeException .undefined (s.pc + s.instrSize)
      let does : Instr → Bool → (State → State → Prop) → Prop := fun i u k =>
        (cpPresent f.cp s = false → exec i s = .next (und s)) ∧
        (cpPresent f.cp s = true → s.pins.cpbusye = true → exec i s = .next s) ∧
        (ready → ∃ t, exec i s = .next t ∧ (accepts i u = false → t = und (offered i u false)) ∧
          (accepts i u = true → k (offered i u true) t))
      let based : State → State := fun t => if f.w then t.setReg f.rn (cpBase f s) else t
      let loads : Instr → State → State → Prop := fun i s1 t =>
        ∃ b, t = (based (cpTell (order i s1 (wordsFrom s (length i s1) (cpStart f s))) { s1 with bus := b })).moveOn
      let stores : Instr → State → State → Prop := fun i s1 t =>
        ∃ b, t = (based { s1 with
          bus := b, mem := storeWords s.big s.cp15.pid (sent i s1) (cpStart f s) s.mem }).moveOn
      does (.ldc c f) false (loads (.ldc c f)) ∧ does (.ldc2 f) true (loads (.ldc2 f)) ∧
      does (.stc c f) false (stores (.stc c f)) ∧ does (.stc2 f) true (stores (.stc2 f))) ∧
    (∀ (i : Instr) (u : Bool) (s2 : State) (ws : List Word) (e : AbortInfo), ready → accepts i u = true →
      let s1 := offered i u true
      let m := externalMultiple f (codeBits i) s1
      ((i = .ldc c f ∧ u = false) ∨ (i = .ldc2 f ∧ u = true) →
        readRun m (length i s1) true (cpStart f s) s1 = (ws, .abort e s2) →
        ∃ t lost, exec i s = .next t ∧ dataAborted s s2 e t ∧ lost.length + ws.length = length i s1 ∧
          t.cpHistory = (order i s1 ws ++ lost).reverse ++ s1.cpHistory) ∧
      ((i = .stc c f ∧ u = false) ∨ (i = .stc2 f ∧ u = true) →
        memWriteMany m (sent i s1) (cpStart f s) s1 = .abort e s2 → ∃ t, exec i s = .next t ∧ dataAborted s s2 e t))

/-- Thumb ADD, SUB, ADC, SBC, NEG, CMP and CMN (spec/47 R742-R748, R754-R759, R774): the exact integer result is narrowed into
Rd (the comparisons write no register); N and Z are the result's, C is the carry out or the absence of a borrow, V says that
narrowing changed the signed result. -/
def Obligations.ThumbArithmetic : Prop :=
  ∀ (rd rn rm : LoReg) (hm hn : Reg) (i3 : BitVec 3) (i8 : BitVec 8) (s : State), s.canAdvance = true →
    let n := s.reg (lo rn)
    let m := s.reg (lo rm)
    let d := s.reg (lo rd)
    let cy : Nat := if s.flagC then 1 else 0
    let plus : Word → Nat → Nat → Outcome State := fun a b c =>
      .next (s.writeExact true (lo rd) (a.toInt + (BitVec.ofNat 32 b).toInt + c) (decide (4294967296 ≤ a.toNat + b + c))).moveOn
    let minus : Word → Nat → Nat → Outcome State := fun a b c =>
      .next (s.writeExact true (lo rd) (a.toInt - (BitVec.ofNat 32 b).toInt - c) (decide (b + c ≤ a.toNat))).moveOn
    let compare : Word → Nat → Outcome State := fun a b =>
      .next (s.compareExact (a.toInt - (BitVec.ofNat 32 b).toInt) (decide (b ≤ a.toNat))).moveOn
    exec (.tAddReg rm rn rd) s = plus n m.toNat 0 ∧ exec (.tAddImm3 i3 rn rd) s = plus n i3.toNat 0 ∧
    exec (.tAddImm8 rd i8) s = plus d i8.toNat 0 ∧ exec (.tAdc rm rd) s = plus d m.toNat cy ∧
    exec (.tSubReg rm rn rd) s = minus n m.toNat 0 ∧ exec (.tSubImm3 i3 rn rd) s = minus n i3.toNat 0 ∧
    exec (.tSubImm8 rd i8) s = minus d i8.toNat 0 ∧ exec (.tSbc rm rd) s = minus d m.toNat (1 - cy) ∧
    exec (.tNeg rm rd) s = minus 0#32 m.toNat 0 ∧
    exec (.tCmpImm rn i8) s = compare n i8.toNat ∧ exec (.tCmpReg rm rn) s = compare n m.toNat ∧
    (s.runs (.tCmpHi hm hn) = true → exec (.tCmpHi hm hn) s = compare (s.reg hn) (s.reg hm).toNat) ∧
    exec (.tCmn rm rn) s =
      .next (s.compareExact (n.toInt + m.toInt) (decide (4294967296 ≤ n.toNat + m.toNat))).moveOn

/-- Thumb MOV (immediate), AND, EOR, ORR, BIC, MVN, MUL and TST write N and Z and leave C and V; the shifts write N, Z and the
shifter's carry and leave V; all but TST write Rd (spec/47 R740, R760-R774; the shifter's results as spec/30 R427, R428). -/
def Obligations.ThumbLogicAndShifts : Prop :=
  ∀ (rd rm : LoReg) (i5 : BitVec 5) (i8 : BitVec 8) (s : State), s.canAdvance = true →
    let m := s.reg (lo rm)
    let d := s.reg (lo rd)
    let put : Word → Outcome State := fun v => .next (s.write true (lo rd) v s.flagC s.flagV).moveOn
    let shifted : Op2 → Outcome State := fun op =>
      .next (s.write true (lo rd) (shifterOperand op s).value (shifterOperand op s).carry s.flagV).moveOn
    exec (.tMovImm rd i8) s = put (BitVec.ofNat 32 i8.toNat) ∧ exec (.tAnd rm rd) s = put (d &&& m) ∧
    exec (.tEor rm rd) s = put (d ^^^ m) ∧ exec (.tOrr rm rd) s = put (d ||| m) ∧
    exec (.tBic rm rd) s = put (d &&& ~~~m) ∧ exec (.tMvn rm rd) s = put (~~~m) ∧
    exec (.tMul rm rd) s = put (BitVec.ofNat 32 (d.toNat * m.toNat)) ∧
    exec (.tTst rm rd) s = .next (s.setNZCV (d &&& m).msb (d &&& m == 0#32) s.flagC s.flagV).moveOn ∧
    exec (.tLslImm i5 rm rd) s = shifted (.shiftImm i5 .lsl (lo rm)) ∧
    exec (.tLsrImm i5 rm rd) s = shifted (.shiftImm i5 .lsr (lo rm)) ∧
    exec (.tAsrImm i5 rm rd) s = shifted (.shiftImm i5 .asr (lo rm)) ∧
    exec (.tLslReg rm rd) s = shifted (.shiftReg (lo rm) .lsl (lo rd)) ∧
    exec (.tLsrReg rm rd) s = shifted (.shiftReg (lo rm) .lsr (lo rd)) ∧
    exec (.tAsrReg rm rd) s = shifted (.shiftReg (lo rm) .asr (lo rd)) ∧
    exec (.tRor rm rd) s = shifted (.shiftReg (lo rm) .ror (lo rd))

/-- Thumb ADD and MOV with a high register, and ADD with the pc and the stack pointer: no flag changes; a result for r15 is a
branch that leaves T alone and clears bit 0, and bit 1 too where CPSR.T = 0, which only an instruction from the ITR can meet (the
model's choice, log 24); the pc of an address is that of the instruction plus 4 with bit 1 cleared (spec/10 R37; spec/20 R207;
spec/47 R741, R749-R753). -/
def Obligations.ThumbHighAndAddresses : Prop :=
  ∀ (hm hd : Reg) (rd : LoReg) (i8 : BitVec 8) (i7 : BitVec 7) (s : State),
    let mask : Word := if s.thumb then 0xFFFFFFFE#32 else 0xFFFFFFFC#32
    (s.runs (.tAddHi hm regPc) = true →
      exec (.tAddHi hm regPc) s = .next (s.branchTo ((s.reg regPc + s.reg hm) &&& mask))) ∧
    (s.runs (.tMovHi hm regPc) = true → exec (.tMovHi hm regPc) s = .next (s.branchTo (s.reg hm &&& mask))) ∧
    (s.canAdvance = true →
      (s.runs (.tAddHi hm hd) = true → hd ≠ regPc →
        exec (.tAddHi hm hd) s = .next (s.setReg hd (s.reg hd + s.reg hm)).moveOn) ∧
      (s.runs (.tMovHi hm hd) = true → hd ≠ regPc → exec (.tMovHi hm hd) s = .next (s.setReg hd (s.reg hm)).moveOn) ∧
      exec (.tAddPc rd i8) s =
        .next (s.setReg (lo rd) (((s.pc + 4#32) &&& 0xFFFFFFFC#32) + BitVec.ofNat 32 (4 * i8.toNat))).moveOn ∧
      exec (.tAddSpRd rd i8) s = .next (s.setReg (lo rd) (s.reg regSp + BitVec.ofNat 32 (4 * i8.toNat))).moveOn ∧
      exec (.tAddSp i7) s = .next (s.setReg regSp (s.reg regSp + BitVec.ofNat 32 (4 * i7.toNat))).moveOn ∧
      exec (.tSubSp i7) s = .next (s.setReg regSp (s.reg regSp - BitVec.ofNat 32 (4 * i7.toNat))).moveOn)

/-- (1) The ten Thumb loads: the address of each form, and what goes to Rd where the access answers v: a word, or a byte or
halfword zero- or sign-extended; what a misaligned word or halfword gives with A = 0 is a free value. (2) The seven Thumb
stores: the address of each form; where the access answers, only memory has changed; a misaligned word or halfword store with
A = 0 is refused (spec/48 R790-R806; spec/93 U6). -/
def Obligations.ThumbTransfers : Prop :=
  (∀ (rd rn rm : LoReg) (i5 : BitVec 5) (i8 : BitVec 8) (s s1 : State) (v : Word), s.canAdvance = true →
    let n := s.reg (lo rn)
    let m := s.reg (lo rm)
    let off : Nat → Word := fun k => BitVec.ofNat 32 k
    let does : Instr → BusSize → Word → Word → Prop := fun i size a x =>
      memRead a size s.priv s = .ok v s1 →
      exec i s = if misaligned size a then .next (s1.useFree.setReg (lo rd) s1.freeVal).moveOn
        else .next (s1.setReg (lo rd) x).moveOn
    does (.tLdrImm i5 rn rd) .word (n + off (4 * i5.toNat)) v ∧
    does (.tLdrhImm i5 rn rd) .half (n + off (2 * i5.toNat)) v ∧
    does (.tLdrbImm i5 rn rd) .byte (n + off i5.toNat) v ∧
    does (.tLdrReg rm rn rd) .word (n + m) v ∧ does (.tLdrhReg rm rn rd) .half (n + m) v ∧
    does (.tLdrbReg rm rn rd) .byte (n + m) v ∧
    does (.tLdrsbReg rm rn rd) .byte (n + m) ((v.extractLsb' 0 8).signExtend 32) ∧
    does (.tLdrshReg rm rn rd) .half (n + m) ((v.extractLsb' 0 16).signExtend 32) ∧
    does (.tLdrPc rd i8) .word (((s.pc + 4#32) &&& 0xFFFFFFFC#32) + off (4 * i8.toNat)) v ∧
    does (.tLdrSp rd i8) .word (s.reg regSp + off (4 * i8.toNat)) v) ∧
  (∀ (rd rn rm : LoReg) (i5 : BitVec 5) (i8 : BitVec 8) (s s1 : State),
    let n := s.reg (lo rn)
    let m := s.reg (lo rm)
    let off : Nat → Word := fun k => BitVec.ofNat 32 k
    let does : Instr → BusSize → Word → Prop := fun i size a =>
      (s.canAdvance = true → s.alignOn = true ∨ misaligned size a = false →
        memWrite a size (s.reg (lo rd)) s.priv s = .ok () s1 → exec i s = .next s1.moveOn) ∧
      (s.alignOn = false → misaligned size a = true → exec i s = .refused .misalignedThumbStore)
    does (.tStrImm i5 rn rd) .word (n + off (4 * i5.toNat)) ∧ does (.tStrhImm i5 rn rd) .half (n + off (2 * i5.toNat)) ∧
    does (.tStrbImm i5 rn rd) .byte (n + off i5.toNat) ∧ does (.tStrReg rm rn rd) .word (n + m) ∧
    does (.tStrhReg rm rn rd) .half (n + m) ∧ does (.tStrbReg rm rn rd) .byte (n + m) ∧
    does (.tStrSp rd i8) .word (s.reg regSp + off (4 * i8.toNat)))

/-- The modified virtual address: with the top seven bits zero, the process ID takes their place; any other address stays
(spec/11 R132). -/
def Obligations.ProcessRelocation : Prop :=
  ∀ (pid : BitVec 7) (va : Word), (relocate pid va).toNat =
    if va.toNat < 33554432 then pid.toNat * 33554432 + va.toNat else va.toNat

/-- (1) The access permission table for client domains (spec/21 R280); S = R = 1 with AP = 00 gives no access (the model's choice,
D29). (2) An access by an entry of a client domain: it is translated if the table permits it, and is a permission fault of the
entry's domain otherwise, with status 1101 for a section and 1111 for a page. (3) An instruction fetch is checked as a read: one
that its entry does not permit is such a fault. (4) The physical address an entry gives: the page of its size with the rest of the
address (spec/11 R152). (For a size code that R152 does not list both the page and the choice of status are free values: log 51.) -/
def Obligations.PermissionTable : Prop :=
  (∀ s r priv write : Bool,
    apPermits 0#2 false false priv write = false ∧
    (apPermits 0#2 true false priv write = true ↔ priv = true ∧ write = false) ∧
    (apPermits 0#2 false true priv write = true ↔ write = false) ∧
    apPermits 0#2 true true priv write = false ∧
    (apPermits 1#2 s r priv write = true ↔ priv = true) ∧
    (apPermits 2#2 s r priv write = true ↔ priv = true ∨ write = false) ∧
    apPermits 3#2 s r priv write = true) ∧
  (∀ (s : State) (e : TlbEntry) (mva : Word) (write priv : Bool) (ap : BitVec 2), e.dfi = false →
    e.apSelect = 1#4 <<< ap.toNat → checkEntry s e mva write priv =
      if apPermits ap s.sysProt s.romProt priv write then .ok (e.physical mva) e.c e.b
      else .fault (if e.isSection then 13#4 else 15#4) (some e.domain)) ∧
  (∀ (s : State) (e : TlbEntry) (va : Word) (thumb priv : Bool) (ap : BitVec 2), s.mmuOn = true →
    s.itlb.matching (relocate s.cp15.pid va) = [e] → e.dfi = false → e.apSelect = 1#4 <<< ap.toNat →
    apPermits ap s.sysProt s.romProt priv false = false →
    fetch va thumb priv s = .got (.abort (if e.isSection then 13#4 else 15#4)) s) ∧
  (∀ (e : TlbEntry) (mva : Word), (∀ code, e.size ≠ .unlisted code) →
    (e.isSection = true ↔ e.size = .mb1) ∧
    ∃ n, n = (match e.size with | .mb1 => 20 | .kb64 => 16 | .kb16 => 14 | .kb4 => 12 | _ => 10) ∧
      e.physical mva = (((e.pa ++ 0#10 : Word) >>> n) <<< n) ||| (mva &&& ((1#32 <<< n) - 1#32)))

/-- Translation of a data access or an instruction fetch on a TLB miss with the hardware walk, from tables in RAM, a data access
after the drain of the buffers and a fetch without one (spec/21 R251, R253-R255, R260-R268, R278, R280, R293-R295; spec/20 R214):
the level 1 descriptor at TTBR:mva[31:20]; a section gives its base with mva[19:0]; a coarse table has its level 2 descriptor at
mva[19:12], a fine one at mva[19:10]; a large, small or tiny page gives its base with the rest of the address, with the AP bits of
the subpage. Invalid descriptors are translation faults. The answer has the C and B of the descriptor, if its domain is a manager,
or a client whose AP permits the access; else it is a domain or permission fault. The entry goes into the TLB at the victim, which
advances, also where the check then fails (D26), and the address then hits with the same answer. (With S = R = 1, AP = 00 gives no
access: D29.) -/
def Obligations.TableTranslation : Prop :=
  ∀ (side : Side) (mva : Word) (write priv : Bool) (s : State), (s.tlb side).matching mva = [] →
    s.cp15.cr2.getLsbD 4 = false → s.memMap = [] → s.intruders = [] →
    let m := if side = .data then (drainAll s).mem else s.mem
    let at1 : Word → Word := fun a => physRead m s.big .word a
    let d := at1 ((s.cp15.ttbr &&& 0xFFFFC000#32) ||| ((mva >>> 20) <<< 2))
    let dom : BitVec 4 := d.extractLsb' 5 4
    let access := (s.cp15.dacr >>> (2 * dom.toNat)).toNat % 4
    let r := translate side mva write priv s
    -- the fault, where there is no mapping; the TLB stays
    let unmapped : BitVec 4 → Option (BitVec 4) → Prop := fun status domain =>
      r.1 = .fault status domain ∧ r.2.tlb side = s.tlb side
    -- the answer of a mapping with n low address bits, permission ap and the descriptor's word w
    let mapped : Bool → Nat → BitVec 2 → Word → Prop := fun sect n ap w =>
      (access = 0 ∨ access = 2 → r.1 = .fault (if sect then 9#4 else 11#4) (some dom)) ∧
      (access = 1 → apPermits ap s.sysProt s.romProt priv write = false →
        r.1 = .fault (if sect then 13#4 else 15#4) (some dom)) ∧
      (access = 3 ∨ (access = 1 ∧ apPermits ap s.sysProt s.romProt priv write = true) →
        r.1 = .ok (((w >>> n) <<< n) ||| (mva &&& ((1#32 <<< n) - 1#32))) (w.getLsbD 3) (w.getLsbD 2)) ∧
      (∃ e : TlbEntry, (r.2.tlb side).entries =
          (s.tlb side).entries.set (s.tlb side).victim.toNat (some e) (s.tlb side).victim.isLt ∧
        e.hits mva = true ∧ e.tag = mva.extractLsb' 10 22 ∧ (e.size = .mb1 ↔ sect = true) ∧ e.domain = dom ∧
        e.c = w.getLsbD 3 ∧ e.b = w.getLsbD 2 ∧ e.preserved = (s.tlb side).preserve ∧
        e.physical mva = ((w >>> n) <<< n) ||| (mva &&& ((1#32 <<< n) - 1#32))) ∧
      (r.2.tlb side).victim = (if (s.tlb side).victim = 63#6 then (s.tlb side).base else (s.tlb side).victim + 1#6) ∧
      (r.2.tlb side).base = (s.tlb side).base ∧
      translate side mva write priv r.2 = r
    let page : Word → Bool → Prop := fun a fine =>
      let w := at1 a
      (w.toNat % 4 = 0 → unmapped 7#4 (some dom)) ∧
      (w.toNat % 4 = 1 → mapped false 16 ((w >>> (4 + 2 * (mva.toNat / 16384 % 4))).extractLsb' 0 2) w) ∧
      (w.toNat % 4 = 2 → mapped false 12 ((w >>> (4 + 2 * (mva.toNat / 1024 % 4))).extractLsb' 0 2) w) ∧
      (w.toNat % 4 = 3 → if fine then mapped false 10 (w.extractLsb' 4 2) w else unmapped 7#4 (some dom))
    (d.toNat % 4 = 0 → unmapped 5#4 none) ∧
    (d.toNat % 4 = 2 → mapped true 20 (d.extractLsb' 10 2) d) ∧
    (d.toNat % 4 = 1 → page ((d &&& 0xFFFFFC00#32) ||| ((mva.extractLsb' 12 8).zeroExtend 32 <<< 2)) false) ∧
    (d.toNat % 4 = 3 → page ((d &&& 0xFFFFF000#32) ||| ((mva.extractLsb' 10 10).zeroExtend 32 <<< 2)) true) ∧
    r.2.mem = m ∧
    (side = .data → r.2.itlb = s.itlb ∧ r.2.wbuf = [] ∧ r.2.castout = none) ∧
    (side = .instr → r.2.dtlb = s.dtlb ∧ r.2.wbuf = s.wbuf ∧ r.2.castout = s.castout)

/-- The DCache (spec/22 R321, R325, R326, R330, R340, R341, R343, R344, R350, R353; spec/11 R111; spec/20 R222): with the DCache
on, a load that hits answers the line's word and touches neither memory nor the line; a write-back store that hits changes the
line's word, marks it dirty and leaves memory alone (also where that line was filled as write-through: log 54); cleaning a dirty
write-back line by address queues it for memory, the doubleword of the address first, and leaves it valid and clean. A load that
misses drains the buffers (an inference the spec marks as its own, R222 and R350), fills the line of the victim from memory,
answers its word, and casts out the line that was there, through the castout buffer, if it was dirty and write-back (the doubleword
it starts at is left open here, log 33), every other line and the base as they were; a write-back store that misses goes to the
write buffer and allocates no line. The MMU is off, so c15 gives the region its type. -/
def Obligations.DataCacheHits : Prop :=
  ∀ (s : State) (va v : Word) (priv : Bool),
    let mva := relocate s.cp15.pid va
    s.dcacheOn = true → s.mmuOn = false → s.cp15.cr2.getLsbD 1 = true → s.noDebug = true → va.toNat % 4 = 0 →
    (∀ (k : BitVec 6) (l : CacheLine), s.dcache.lookup mva = some (k, l) →
      memRead va .word priv s = .ok (l.word mva) s ∧
      (s.cp15.cr2.getLsbD 0 = true → s.wbufOn = true →
        ∃ t l1, memWrite va .word v priv s = .ok () t ∧ t = { s with dcache := t.dcache } ∧
          t.dcache.lookup mva = some (k, l1) ∧ l1.word mva = v ∧ l1.dirty = true ∧
          ∀ b, wordOf b ≠ wordOf mva → l1.word b = l.word b) ∧
      (l.dirty = true → l.wb = true → ∃ l1 n,
        (cleanByVa va false s).castout = some ⟨l.paTag, l.data, mva.extractLsb' 3 2, n⟩ ∧
        (cleanByVa va false s).dcache.lookup mva = some (k, l1) ∧ l1.data = l.data ∧ l1.dirty = false)) ∧
    (s.dcache.lookup mva = none → s.memMap = [] →
      (s.intruders = [] → ∃ t l, memRead va .word priv s = .ok (physRead (drainAll s).mem false .word mva) t ∧
        t.mem = (drainAll s).mem ∧ t.wbuf = [] ∧ t.regs = s.regs ∧ t.cpsr = s.cpsr ∧ t.cp15 = s.cp15 ∧
        t = { drainAll s with
          dcache := t.dcache, castout := t.castout, bus := t.bus, freeCount := t.freeCount, hum := t.hum } ∧
        s.dcache.filledWith t.dcache s.roundRobin mva l ∧
        t.dcache.lookup mva = some (s.dcache.victim[(segOf mva).toNat]'(segOf mva).isLt, l) ∧ l.dirty = false ∧
        l.wb = s.cp15.cr2.getLsbD 0 ∧ l.paTag = mva.extractLsb' 5 27 ∧
        (∀ a : Word, a.toNat / 32 = mva.toNat / 32 → l.word a = physRead (drainAll s).mem false .word a) ∧
        (∀ g k, ¬(g = segOf mva ∧ k = s.dcache.victim[(segOf mva).toNat]'(segOf mva).isLt) →
          t.dcache.line g k = s.dcache.line g k) ∧
        (∀ o, s.dcache.occupant mva = some o → o.dirty = true → o.wb = true →
          ∃ start n, t.castout = some ⟨o.paTag, o.data, start, n⟩) ∧
        ((∀ o, s.dcache.occupant mva = some o → o.dirty = false ∨ o.wb = false) → t.castout = none)) ∧
      (s.cp15.cr2.getLsbD 0 = true → s.wbufOn = true →
        ∃ t, memWrite va .word v priv s = .ok () t ∧ t.dcache = s.dcache ∧
          ∃ e, t.wbuf.getLast? = some e ∧ e.pa = mva ∧ e.size = .word ∧ e.data = v.zeroExtend 64 ∧ e.big = s.big))

/-- Breakpoints, watchpoints and vector catches (spec/12 R171, R180-R184; spec/61 R905-R908, R916; spec/11 R106-R109). (1) A
breakpoint comparator matches exactly when it is enabled, the address agrees (to the word in ARM state, to the halfword in Thumb
state), and the supported states and privileges include the instruction's. (2) A fetched instruction is marked exactly when
debugging is enabled and some comparator matches; an instruction that is not in the prefetch buffer is fetched so (that the
comparison is made at the fetch is the model's reading, log 34). (3) A marked instruction is not executed: debug state is entered
in halt mode, with no register of CP15 written (D30, log 27), a Prefetch Abort is taken in monitor mode, with status 0010 in the
IFSR, and MOE = 001 (the pc a debugger finds is D17, D20). (4) A watchpoint comparator; an access is noted exactly when debugging
is enabled outside debug state (that none is compared in debug state is log 21) and a comparator matches it, at its address with
the low bits kept, also of a misaligned access with A = 0 (log 53). (5) When the instruction is complete (WP_SKID = 0, D18, log 21)
the event writes DFSR (the domain where one was noted; with the MMU off it is free, log 21), DFAR and IFAR, and debug state is
entered or the Data Abort taken, with MOE = 010. (6) Taking an exception whose catch bit is set arms the catch of its vector (that
it stays armed until it is reached is log 29), and before the vector's first instruction the event comes with MOE = 101 (that a
breakpoint there comes first, and disarms the catch, is log 29). -/
def Obligations.DebugEvents : Prop :=
  (∀ (ba pc : Word) (bc : BitVec 5) (priv : Bool),
    (breakMatches ba bc pc false priv = true ↔ bc.getLsbD 0 = true ∧ ba.toNat / 4 = pc.toNat / 4 ∧ bc.getLsbD 4 = true ∧
      (if priv then bc.getLsbD 2 else bc.getLsbD 1) = true) ∧
    (breakMatches ba bc pc true priv = true ↔ bc.getLsbD 0 = true ∧ ba.toNat / 2 = pc.toNat / 2 ∧ bc.getLsbD 3 = true ∧
      (if priv then bc.getLsbD 2 else bc.getLsbD 1) = true)) ∧
  (∀ (s s1 : State) (prev : Option Prefetched) (pc : Word) (thumb : Bool) (p : Prefetched),
    fetchEntry prev pc thumb s = .ok (p, s1) → p.addr = pc ∧ p.thumb = thumb ∧
      (p.breakpoint = true ↔ s.debugEnabled = true ∧
        ∃ k : Fin 6, breakMatches s.dbg.ba[k] s.dbg.bc[k] pc thumb s.priv = true)) ∧
  (∀ s : State, s.prefetch = [] → nextInstruction s = fetchEntry none s.pc s.thumb s) ∧
  (∀ (s s1 : State) (p : Prefetched) (w : Word), s.inputs = [] → s.inReset = false → s.pm.pending = none →
    s.run = .running → s.halted = false → debugRequest s = false → fiqPending s = false → irqPending s = false →
    nextInstruction s = .ok (p, s1) → granted s s1 = true → p.what = .word w →
    let caught : BitVec 3 → Prop := fun moe =>
      ∃ t, step s = .next t ∧ t.mem = s1.mem ∧ t.dbg.dscr.extractLsb' 2 3 = moe ∧
        (s.haltMode = true → t.halted = true ∧ t.pc = s.pc ∧ t.regs = s.regs ∧ t.cpsr = s.cpsr ∧ t.cp15 = s.cp15 ∧
          s.pc ∉ t.dbg.catchAt) ∧
        (s.haltMode = false → t.cp15.ifsr.extractLsb' 0 4 = 2#4 ∧ t.pc = vectorBase s + 0x0C#32 ∧
          t.regIn .abt regLr = s.pc + 4#32 ∧ t.spsr[3] = s.cpsr)
    (p.breakpoint = true → caught 1#3) ∧
    (p.breakpoint = false → s.debugEnabled = true → s.pc ∈ s.dbg.catchAt → caught 5#3)) ∧
  (∀ (wa va : Word) (wc : BitVec 11) (size : BusSize) (load priv : Bool), size ≠ .dword →
    (watchMatches wa wc va size load priv = true ↔ wc.getLsbD 0 = true ∧ va.toNat / 4 = wa.toNat / 4 ∧
      (wc.getLsbD 10 = false → va.getLsbD 1 = wa.getLsbD 1) ∧ (wc.getLsbD 9 = false → va.getLsbD 0 = wa.getLsbD 0) ∧
      (size = .byte → wc.getLsbD 5 = true) ∧ (size = .half → wc.getLsbD 6 = true) ∧ (size = .word → wc.getLsbD 7 = true) ∧
      (if load then wc.getLsbD 4 else wc.getLsbD 3) = true ∧ (if priv then wc.getLsbD 2 else wc.getLsbD 1) = true)) ∧
  (∀ (s s1 : State) (va v : Word) (size : BusSize) (priv : Bool), size ≠ .dword → s.dbg.watch = none →
    let noted : Bool → Prop := fun load =>
      if s.debugEnabled = true ∧ s.halted = false ∧
          ∃ k : Fin 2, watchMatches s.dbg.wa[k] s.dbg.wc[k] va size load priv = true then
        ∃ h, s1.dbg.watch = some h ∧ h.addr = va ∧ h.pc = s.pc ∧ h.thumb = s.thumb
      else s1.dbg.watch = none
    (memRead va size priv s = .ok v s1 → noted true) ∧ (memWrite va size v priv s = .ok () s1 → noted false)) ∧
  (∀ (t : State) (h : WatchHit), t.dbg.watch = some h →
    let u := settleWatch t
    u.mem = t.mem ∧ u.cp15.dfar = h.addr ∧ u.cp15.ifar = h.pc + (if h.thumb then 4#32 else 8#32) ∧
    u.cp15.dfsr.extractLsb' 0 4 = 2#4 ∧ (∀ d, h.domain = some d → u.cp15.dfsr.extractLsb' 4 4 = d) ∧
    u.dbg.dscr.extractLsb' 2 3 = 2#3 ∧ u.dbg.watch = none ∧
    (t.haltMode = true → u.halted = true ∧ u.pc = t.pc ∧ u.regs = t.regs ∧ u.cpsr = t.cpsr) ∧
    (t.haltMode = false → u.pc = vectorBase t + 0x10#32 ∧ u.regIn .abt regLr = t.pc + 8#32 ∧ u.spsr[3] = t.cpsr)) ∧
  (∀ (e : Exc) (link : Word) (s : State), s.debugEnabled = true →
    s.dbg.dscr.getLsbD (match e with
      | .reset => 16 | .undefined => 17 | .swi => 18 | .prefetchAbort => 19 | .dataAbort => 20 | .irq => 22 | .fiq => 23) = true →
    (takeException e link s).pc ∈ (takeException e link s).dbg.catchAt)

/-- The TAP controller (spec/61 R905, R911, R913, R921, R925, R926, R930-R932; spec/12 R162, R165, R173, R176, R177, R188-R191):
(1) from any state, five rising edges of TCK with TMS = 1 leave it in Test-Logic-Reset, and (2) so does NTRST LOW, with IDCODE and
scan chain 3 and the JTAG-owned bits [30:27], [23:16] and [5] of the DSCR clear; registers, memory and GE are untouched.
(3) Capture-DR, left either way, loads the chain: the ID, the DSCR with RF and WE inverted, the ITR with its completion bit, or under
INTEST the wDTR with its flag, then marked read (COMMTX HIGH), and under EXTEST the rDTR with the inverse of RF; IDCODE the TAP ID,
SCAN_N 10000. (4) Shift-DR moves the chain one place towards bit 0, which TDO shows, with TDI coming in at its length; a scan may
pause. (5) Update-DR from Exit1-DR or Exit2-DR writes under EXTEST the DSCR's JTAG-owned bits from chain 1, the ITR from chain 4, the
rDTR from chain 5 if its bit 0 was captured HIGH (COMMRX HIGH), both from chain 2, and under SCAN_N the scan chain; under INTEST,
IDCODE and BYPASS nothing. (6) The instruction register: Capture-IR loads 0001, Shift-IR shifts it, Update-IR makes it current.
(7) Run-Test/Idle entered from Update-DR or Update-IR in debug state: with DSCR[29] set, under EXTEST or INTEST the instruction in
the ITR is executed, as ARM or Thumb by DSCR[28], and ITR bit 0 set; RESTART leaves debug state, DBGACK LOW; outside it HALT asks for
it. The model's choices and readings (log 24): the sixteen states are those of IEEE 1149.1, a Thumb instruction lies in the low half
of the ITR, chain 2 holds the ITR above the DTR, an external chain is one bit, RESTART abandons a held ITR instruction, and one that
a busy coprocessor holds or the bus is not granted for waits with ITR bit 0 LOW. -/
def Obligations.TapReset : Prop :=
  ∀ (s : State) (tms tdi : Bool) (rest : List Event),
    let done : State → Prop := fun t =>
      t.tap.state = .reset ∧ t.tap.ir = 14#4 ∧ t.tap.chain = 3#5 ∧ t.dbg.dscr.extractLsb' 27 4 = 0#4 ∧
      t.dbg.dscr.extractLsb' 16 8 = 0#8 ∧ t.dbg.dscr.getLsbD 5 = false ∧
      t.regs = s.regs ∧ t.cpsr = s.cpsr ∧ t.pc = s.pc ∧ t.mem = s.mem ∧
      t.dbg.dscr.getLsbD 31 = s.dbg.dscr.getLsbD 31 ∧ t.inputs = rest
    let moved : TapState → State := fun st => { s with inputs := rest, tap := { s.tap with state := st } }
    let shift := s.tap.drShift
    let scans := s.tap.ir = 0#4 ∨ s.tap.ir = 12#4
    -- the length of the data register
    let len := if s.tap.ir = 0#4 ∨ s.tap.ir = 12#4 then
        (if s.tap.chain = 0#5 ∨ s.tap.chain = 1#5 then 32 else if s.tap.chain = 2#5 then 65
          else if s.tap.chain = 4#5 ∨ s.tap.chain = 5#5 then 33 else 1)
      else if s.tap.ir = 2#4 then 5 else if s.tap.ir = 14#4 then 32 else 1
    (s.run ≠ .poweredDown → s.pins.ntrst = true → s.inputs = List.replicate 5 (Event.tck true tdi) ++ rest →
      ∃ s1 s2 s3 s4 t, step s = .next s1 ∧ step s1 = .next s2 ∧ step s2 = .next s3 ∧ step s3 = .next s4 ∧
        step s4 = .next t ∧ done t) ∧
    (s.inputs = .ntrst :: rest ∨ s.inputs = .ntrstPin false :: rest → ∃ t, step s = .next t ∧ done t) ∧
    (s.run ≠ .poweredDown → s.pins.ntrst = true → s.inputs = .tck tms tdi :: rest →
      -- the shift stage after the capture is `w`, and `t` the state but for it
      let captures : (BitVec 66 → Prop) → State → Prop := fun holds u =>
        ∃ t, step s = .next t ∧ holds t.tap.drShift ∧ (tms = false → t.tap.tdo = t.tap.drShift.getLsbD 0) ∧
          t = { u with tap := { u.tap with drShift := t.tap.drShift, tdo := t.tap.tdo } }
      let left := moved (if tms then .exit1Dr else .shiftDr)
      (s.tap.state = .captureDr →
        (scans → s.tap.chain = 0#5 → captures (fun w => w.extractLsb' 0 32 = 0x41006201#32) left) ∧
        (scans → s.tap.chain = 1#5 → captures (fun w => ∀ k, k < 32 →
          w.getLsbD k = if k = 7 ∨ k = 6 then !s.dbg.dscr.getLsbD k else s.dbg.dscr.getLsbD k) left) ∧
        (scans → s.tap.chain = 4#5 →
          captures (fun w => w.extractLsb' 1 32 = s.dbg.itr ∧ w.getLsbD 0 = s.dbg.itrDone) left) ∧
        (s.tap.ir = 12#4 → s.tap.chain = 5#5 ∨ s.tap.chain = 2#5 →
          captures (fun w => w.extractLsb' 1 32 = s.dbg.wdtr ∧ (s.tap.chain = 2#5 → w.extractLsb' 33 32 = s.dbg.itr) ∧
              w.getLsbD 0 = (if s.dbg.dscr.getLsbD 27 then !s.dbg.dscr.getLsbD 6 else s.dbg.itrDone))
            { left with dbg := { s.dbg with dscr := s.dbg.dscr ||| 0x40#32 } } ∧
          ∀ t, step s = .next t → t.commtx = true ∧ t.commrx = s.commrx) ∧
        (s.tap.ir = 0#4 → s.tap.chain = 5#5 ∨ s.tap.chain = 2#5 →
          captures (fun w => w.extractLsb' 1 32 = s.dbg.rdtr ∧ (s.tap.chain = 2#5 → w.extractLsb' 33 32 = s.dbg.itr) ∧
              w.getLsbD 0 = !s.dbg.dscr.getLsbD 7)
            { left with tap := { left.tap with rxReady := !s.dbg.dscr.getLsbD 7 } }) ∧
        (s.tap.ir = 14#4 → captures (fun w => w.extractLsb' 0 32 = s.pins.tapid) left) ∧
        (s.tap.ir = 2#4 → captures (fun w => w.extractLsb' 0 5 = 0b10000#5) left) ∧
        (s.tap.ir = 15#4 → captures (fun w => w.getLsbD 0 = false) left)) ∧
      (s.tap.state = .shiftDr → captures (fun w => ∀ k, k < len →
        w.getLsbD k = if k + 1 = len then tdi else shift.getLsbD (k + 1)) left) ∧
      (s.tap.state = .pauseDr → step s = .next (moved (if tms then .exit2Dr else .pauseDr))) ∧
      (s.tap.state = .captureIr ∨ s.tap.state = .shiftIr → ∃ t, step s = .next t ∧
        (tms = false → t.tap.tdo = t.tap.irShift.getLsbD 0) ∧
        t = { s with
          inputs := rest
          tap := { s.tap with
            state := if tms then .exit1Ir else .shiftIr, tdo := t.tap.tdo
            irShift := if s.tap.state = .captureIr then 1#4 else BitVec.ofBool tdi ++ s.tap.irShift.extractLsb' 1 3 } }) ∧
      (tms = true → s.tap.state = .exit1Ir ∨ s.tap.state = .exit2Ir → step s = .next { s with
        inputs := rest, tap := { s.tap with state := .updateIr, ir := s.tap.irShift } }) ∧
      (tms = true → s.tap.state = .exit1Dr ∨ s.tap.state = .exit2Dr →
        let written := moved .updateDr
        let rdtr : Debug := if s.tap.rxReady then
          { s.dbg with rdtr := shift.extractLsb' 1 32, dscr := s.dbg.dscr ||| 0x80#32 } else s.dbg
        (s.tap.ir = 0#4 →
          (s.tap.chain = 1#5 → ∃ w : Word, step s = .next { written with dbg := { s.dbg with dscr := w } } ∧
            ∀ k, k < 32 → w.getLsbD k =
              if k ∈ [30, 29, 28, 27, 23, 22, 20, 19, 18, 17, 16] then shift.getLsbD k else s.dbg.dscr.getLsbD k) ∧
          (s.tap.chain = 4#5 → step s = .next { written with
            dbg := { s.dbg with itr := shift.extractLsb' 1 32, itrDone := false, itrWait := false } }) ∧
          (s.tap.chain = 5#5 → step s = .next { written with dbg := rdtr }) ∧
          (s.tap.chain = 2#5 → step s = .next { written with
            dbg := { rdtr with itr := shift.extractLsb' 33 32, itrDone := false, itrWait := false } }) ∧
          (s.tap.chain = 5#5 ∨ s.tap.chain = 2#5 → s.tap.rxReady = true → ∀ t, step s = .next t → t.commrx = true)) ∧
        (s.tap.ir = 2#4 → step s = .next { written with tap := { written.tap with chain := shift.extractLsb' 0 5 } }) ∧
        (s.tap.ir = 12#4 ∨ s.tap.ir = 14#4 ∨ s.tap.ir = 15#4 → step s = .next written)) ∧
      (tms = false → s.tap.state = .updateDr ∨ s.tap.state = .updateIr →
        let s1 := moved .idle
        (scans → s.halted = true → s.dbg.dscr.getLsbD 29 = true →
          let i := decode (if s.dbg.dscr.getLsbD 28 then .thumb (s.dbg.itr.extractLsb' 0 16) else .arm s.dbg.itr)
          let waits : State := { s1 with dbg := { s.dbg with itrDone := false, itrWait := true } }
          (busyWaits i s = true → step s = .next waits) ∧
          (busyWaits i s = false → step s = match exec i s1 with
            | .next t => if granted s1 t then
                .next (complete { t with dbg := { t.dbg with itrDone := true, itrWait := false } }) else .next waits
            | .fault f => .fault f
            | .refused r => .refused r)) ∧
        (s.tap.ir = 4#4 → s.halted = true → ∃ d : Word,
          step s = .next { s1 with dbg := { s.dbg with dscr := d, itrWait := false } } ∧
          (∀ k, k < 32 → d.getLsbD k = if k = 0 then false else if k = 1 then true else s.dbg.dscr.getLsbD k) ∧
          ∀ t, step s = .next t → t.halted = false ∧ t.dbgack = false) ∧
        (s.tap.ir = 8#4 → s.halted = false → s.debugEnabled = true → s.haltMode = true →
          step s = .next { s1 with dbg := { s.dbg with haltReq := true } })))

/-- The power manager's mailbox (spec/11 R143-R146; spec/60 R891; spec/62 R952, R953, R955, R960; spec/20 R222): an acknowledgement
of the command sent makes W 1 again, and puts the processor in STANDBY if the command was IDLE and nothing waits in the buffers;
with the bus not granted the entry waits for the buffers; after DORMANT or SHUTDOWN the host may remove the power, and no event but
a reset ends that; an acknowledgement that comes while the removal waits for the buffers leaves it waiting. After a DORMANT command
SFRESETN may go LOW before the power goes and rise when it is back (R960): the Reset vector, with the caches' lines as they were. A
message posted for an outstanding request makes R 1 and is what PMRDR then shows. The model's choices (log 23): STANDBY on an
acknowledged IDLE (D43), one receive event after a reset, that a reset pin held LOW as the power goes acts when it rises, and that
an acknowledgement, a message or a removal of power that nothing asked for is a fault (D43, D44). -/
def Obligations.PowerManagerMailbox : Prop :=
  ∀ (s : State) (rest : List Event) (st : BitVec 4) (e : Bool),
    (s.inputs = .pmTxAck :: rest → s.pm.txReq = true →
      ∃ t, step s = .next t ∧ t.pm.w = true ∧ t.pm.txReq = false ∧ t.regs = s.regs ∧ t.cpsr = s.cpsr ∧ t.pc = s.pc ∧
        (s.run = .poweredDown ∨ s.pm.pending = some .poweredDown →
          t.run = s.run ∧ t.pm.pending = s.pm.pending ∧ t.mem = s.mem) ∧
        (s.run ≠ .poweredDown → s.pm.pending ≠ some .poweredDown → s.pm.txState.extractLsb' 2 2 ≠ 2#2 →
          t.run = s.run ∧ t.mem = s.mem ∧ (s.pm.txState.getLsbD 3 = false → t.pm.powerOff = true)) ∧
        (s.run ≠ .poweredDown → s.pm.pending ≠ some .poweredDown → s.pm.txState.extractLsb' 2 2 = 2#2 →
          (s.wbuf = [] → s.castout = none → t.run = .standby ∧ t.mem = s.mem) ∧
          (s.pins.hgrantd = true → t.run = .standby ∧ t.wbuf = [] ∧ t.castout = none) ∧
          (s.pins.hgrantd = false → s.wbuf ≠ [] → t.run = s.run ∧ t.pm.pending = some .standby ∧ t.mem = s.mem))) ∧
    (s.inputs = .pmTxAck :: rest → s.pm.txReq = false → step s = .fault .ackWithoutCommand) ∧
    (s.inputs = .powerOff :: rest → s.pm.powerOff = true → s.wbuf = [] → s.castout = none →
      ∃ t, step s = .next t ∧ t.run = .poweredDown ∧ t.mem = s.mem) ∧
    (s.inputs = .powerOff :: rest → s.pm.powerOff = false → step s = .fault .powerOffWithoutCommand) ∧
    (s.inputs = .resetPins true false :: .powerOff :: .resetPins true true :: rest → s.pins.hresetn = true →
      s.pins.sfresetn = true → s.run ≠ .poweredDown → s.pm.powerOff = true → s.pm.ackState.extractLsb' 2 2 = 1#2 →
      ∃ s1 s2 t, step s = .next s1 ∧ step s1 = .next s2 ∧ step s2 = .next t ∧ s1.run = .running ∧ s2.run = .poweredDown ∧
        t.run = .running ∧ t.pc = (if s.pins.hivecsinit then 0xFFFF0000#32 else 0#32) ∧ t.mode = 0x13#5 ∧
        t.icache.lines = s.icache.lines ∧ t.dcache.lines = s.dcache.lines ∧ t.mem = s.mem ∧ t.pm.powerOff = false ∧
        t.inputs = rest) ∧
    (s.inputs = [] → s.run = .poweredDown → s.pm.pending = none → step s = .next s) ∧
    (∀ t : State, s.run = .poweredDown → s.pm.pending = none ∨ s.pm.pending = some .poweredDown → step s = .next t →
      (∀ later, s.inputs ≠ .powerOnReset :: later ∧ s.inputs ≠ .softReset :: later ∧
        ∀ hresetn sfresetn, s.inputs ≠ .resetPins hresetn sfresetn :: later) →
      t.run = .poweredDown ∧ (t.pm.pending = none ∨ t.pm.pending = some .poweredDown)) ∧
    (s.inputs = .pmRxAck st e :: rest → s.pm.rxReq = true →
      step s = .next { s with
        inputs := rest
        pm := { s.pm with rxReq := false, r := true, rxState := st, rxEmul := e } }) ∧
    (s.inputs = .pmRxAck st e :: rest → s.pm.rxReq = false → step s = .fault .dataWithoutRequest)
end

