-- ==== Sys2Proof/Laws/State.lean ====
section
/-!
SUPPORT. What each update of the state leaves alone, field by field, and the small laws of the registers and the status
register: no later proof unfolds a record update.
-/
namespace Sys2Proof.Machine

@[simp] theorem State.useFree_regs (s : State) : s.useFree.regs = s.regs := rfl
@[simp] theorem State.useFree_pc (s : State) : s.useFree.pc = s.pc := rfl
@[simp] theorem State.useFree_cpsr (s : State) : s.useFree.cpsr = s.cpsr := rfl
@[simp] theorem State.useFree_spsr (s : State) : s.useFree.spsr = s.spsr := rfl
@[simp] theorem State.useFree_cp15 (s : State) : s.useFree.cp15 = s.cp15 := rfl
@[simp] theorem State.useFree_itlb (s : State) : s.useFree.itlb = s.itlb := rfl
@[simp] theorem State.useFree_dtlb (s : State) : s.useFree.dtlb = s.dtlb := rfl
@[simp] theorem State.useFree_icache (s : State) : s.useFree.icache = s.icache := rfl
@[simp] theorem State.useFree_dcache (s : State) : s.useFree.dcache = s.dcache := rfl
@[simp] theorem State.useFree_wbuf (s : State) : s.useFree.wbuf = s.wbuf := rfl
@[simp] theorem State.useFree_castout (s : State) : s.useFree.castout = s.castout := rfl
@[simp] theorem State.useFree_hum (s : State) : s.useFree.hum = s.hum := rfl
@[simp] theorem State.useFree_prefetch (s : State) : s.useFree.prefetch = s.prefetch := rfl
@[simp] theorem State.useFree_mem (s : State) : s.useFree.mem = s.mem := rfl
@[simp] theorem State.useFree_memMap (s : State) : s.useFree.memMap = s.memMap := rfl
@[simp] theorem State.useFree_pm (s : State) : s.useFree.pm = s.pm := rfl
@[simp] theorem State.useFree_dbg (s : State) : s.useFree.dbg = s.dbg := rfl
@[simp] theorem State.useFree_tap (s : State) : s.useFree.tap = s.tap := rfl
@[simp] theorem State.useFree_pins (s : State) : s.useFree.pins = s.pins := rfl
@[simp] theorem State.useFree_run (s : State) : s.useFree.run = s.run := rfl
@[simp] theorem State.useFree_bus (s : State) : s.useFree.bus = s.bus := rfl
@[simp] theorem State.useFree_cpHistory (s : State) : s.useFree.cpHistory = s.cpHistory := rfl
@[simp] theorem State.useFree_freeCount (s : State) : s.useFree.freeCount = s.freeCount + 1 := rfl
@[simp] theorem State.useFree_inputs (s : State) : s.useFree.inputs = s.inputs := rfl
@[simp] theorem State.useFree_intruders (s : State) : s.useFree.intruders = s.intruders := rfl

/-- What writes of other bus masters change: memory, and the writes still to come. -/
theorem intrude_eq (l : List Intrusion) (s : State) : ∃ m i, intrude l s = { s with mem := m, intruders := i } := by
  induction l generalizing s with
  | nil => exact ⟨s.mem, s.intruders, rfl⟩
  | cons x rest ih =>
    unfold intrude otherMasterWrite
    split
    · split
      · exact ih _
      · exact ih s
    · exact ih _

/-- What a recorded bus transaction changes: the bus records and, by other masters, memory. -/
theorem State.record_eq (s : State) (r : BusRecord) :
    ∃ m i, s.record r = { s with bus := r :: s.bus, mem := m, intruders := i } := by
  unfold State.record
  split
  · exact ⟨s.mem, s.intruders, rfl⟩
  · exact intrude_eq _ _

/-- With no write of another master to come a transaction changes the bus records only. -/
theorem State.record_quiet {s : State} (h : s.intruders = []) (r : BusRecord) :
    s.record r = { s with bus := r :: s.bus } := by
  unfold State.record
  split
  · rfl
  · rw [h]
    simp [intrude, ← h]

@[simp] theorem State.record_regs (s : State) (r : BusRecord) : (s.record r).regs = s.regs := by obtain ⟨m, i, h⟩ := s.record_eq r; rw [h]
@[simp] theorem State.record_pc (s : State) (r : BusRecord) : (s.record r).pc = s.pc := by obtain ⟨m, i, h⟩ := s.record_eq r; rw [h]
@[simp] theorem State.record_cpsr (s : State) (r : BusRecord) : (s.record r).cpsr = s.cpsr := by obtain ⟨m, i, h⟩ := s.record_eq r; rw [h]
@[simp] theorem State.record_spsr (s : State) (r : BusRecord) : (s.record r).spsr = s.spsr := by obtain ⟨m, i, h⟩ := s.record_eq r; rw [h]
@[simp] theorem State.record_cp15 (s : State) (r : BusRecord) : (s.record r).cp15 = s.cp15 := by obtain ⟨m, i, h⟩ := s.record_eq r; rw [h]
@[simp] theorem State.record_itlb (s : State) (r : BusRecord) : (s.record r).itlb = s.itlb := by obtain ⟨m, i, h⟩ := s.record_eq r; rw [h]
@[simp] theorem State.record_dtlb (s : State) (r : BusRecord) : (s.record r).dtlb = s.dtlb := by obtain ⟨m, i, h⟩ := s.record_eq r; rw [h]
@[simp] theorem State.record_icache (s : State) (r : BusRecord) : (s.record r).icache = s.icache := by obtain ⟨m, i, h⟩ := s.record_eq r; rw [h]
@[simp] theorem State.record_dcache (s : State) (r : BusRecord) : (s.record r).dcache = s.dcache := by obtain ⟨m, i, h⟩ := s.record_eq r; rw [h]
@[simp] theorem State.record_wbuf (s : State) (r : BusRecord) : (s.record r).wbuf = s.wbuf := by obtain ⟨m, i, h⟩ := s.record_eq r; rw [h]
@[simp] theorem State.record_castout (s : State) (r : BusRecord) : (s.record r).castout = s.castout := by obtain ⟨m, i, h⟩ := s.record_eq r; rw [h]
@[simp] theorem State.record_hum (s : State) (r : BusRecord) : (s.record r).hum = s.hum := by obtain ⟨m, i, h⟩ := s.record_eq r; rw [h]
@[simp] theorem State.record_prefetch (s : State) (r : BusRecord) : (s.record r).prefetch = s.prefetch := by obtain ⟨m, i, h⟩ := s.record_eq r; rw [h]
@[simp] theorem State.record_memMap (s : State) (r : BusRecord) : (s.record r).memMap = s.memMap := by obtain ⟨m, i, h⟩ := s.record_eq r; rw [h]
@[simp] theorem State.record_pm (s : State) (r : BusRecord) : (s.record r).pm = s.pm := by obtain ⟨m, i, h⟩ := s.record_eq r; rw [h]
@[simp] theorem State.record_dbg (s : State) (r : BusRecord) : (s.record r).dbg = s.dbg := by obtain ⟨m, i, h⟩ := s.record_eq r; rw [h]
@[simp] theorem State.record_tap (s : State) (r : BusRecord) : (s.record r).tap = s.tap := by obtain ⟨m, i, h⟩ := s.record_eq r; rw [h]
@[simp] theorem State.record_pins (s : State) (r : BusRecord) : (s.record r).pins = s.pins := by obtain ⟨m, i, h⟩ := s.record_eq r; rw [h]
@[simp] theorem State.record_run (s : State) (r : BusRecord) : (s.record r).run = s.run := by obtain ⟨m, i, h⟩ := s.record_eq r; rw [h]
@[simp] theorem State.record_bus (s : State) (r : BusRecord) : (s.record r).bus = r :: s.bus := by obtain ⟨m, i, h⟩ := s.record_eq r; rw [h]
@[simp] theorem State.record_cpHistory (s : State) (r : BusRecord) : (s.record r).cpHistory = s.cpHistory := by obtain ⟨m, i, h⟩ := s.record_eq r; rw [h]
@[simp] theorem State.record_freeCount (s : State) (r : BusRecord) : (s.record r).freeCount = s.freeCount := by obtain ⟨m, i, h⟩ := s.record_eq r; rw [h]
@[simp] theorem State.record_inputs (s : State) (r : BusRecord) : (s.record r).inputs = s.inputs := by obtain ⟨m, i, h⟩ := s.record_eq r; rw [h]

@[simp] theorem State.setNZCV_regs (s : State) (n z c v : Bool) : (s.setNZCV n z c v).regs = s.regs := rfl
@[simp] theorem State.setNZCV_pc (s : State) (n z c v : Bool) : (s.setNZCV n z c v).pc = s.pc := rfl
@[simp] theorem State.setNZCV_spsr (s : State) (n z c v : Bool) : (s.setNZCV n z c v).spsr = s.spsr := rfl
@[simp] theorem State.setNZCV_cp15 (s : State) (n z c v : Bool) : (s.setNZCV n z c v).cp15 = s.cp15 := rfl
@[simp] theorem State.setNZCV_itlb (s : State) (n z c v : Bool) : (s.setNZCV n z c v).itlb = s.itlb := rfl
@[simp] theorem State.setNZCV_dtlb (s : State) (n z c v : Bool) : (s.setNZCV n z c v).dtlb = s.dtlb := rfl
@[simp] theorem State.setNZCV_icache (s : State) (n z c v : Bool) : (s.setNZCV n z c v).icache = s.icache := rfl
@[simp] theorem State.setNZCV_dcache (s : State) (n z c v : Bool) : (s.setNZCV n z c v).dcache = s.dcache := rfl
@[simp] theorem State.setNZCV_wbuf (s : State) (n z c v : Bool) : (s.setNZCV n z c v).wbuf = s.wbuf := rfl
@[simp] theorem State.setNZCV_castout (s : State) (n z c v : Bool) : (s.setNZCV n z c v).castout = s.castout := rfl
@[simp] theorem State.setNZCV_hum (s : State) (n z c v : Bool) : (s.setNZCV n z c v).hum = s.hum := rfl
@[simp] theorem State.setNZCV_prefetch (s : State) (n z c v : Bool) : (s.setNZCV n z c v).prefetch = s.prefetch := rfl
@[simp] theorem State.setNZCV_mem (s : State) (n z c v : Bool) : (s.setNZCV n z c v).mem = s.mem := rfl
@[simp] theorem State.setNZCV_memMap (s : State) (n z c v : Bool) : (s.setNZCV n z c v).memMap = s.memMap := rfl
@[simp] theorem State.setNZCV_pm (s : State) (n z c v : Bool) : (s.setNZCV n z c v).pm = s.pm := rfl
@[simp] theorem State.setNZCV_dbg (s : State) (n z c v : Bool) : (s.setNZCV n z c v).dbg = s.dbg := rfl
@[simp] theorem State.setNZCV_tap (s : State) (n z c v : Bool) : (s.setNZCV n z c v).tap = s.tap := rfl
@[simp] theorem State.setNZCV_pins (s : State) (n z c v : Bool) : (s.setNZCV n z c v).pins = s.pins := rfl
@[simp] theorem State.setNZCV_run (s : State) (n z c v : Bool) : (s.setNZCV n z c v).run = s.run := rfl
@[simp] theorem State.setNZCV_bus (s : State) (n z c v : Bool) : (s.setNZCV n z c v).bus = s.bus := rfl
@[simp] theorem State.setNZCV_cpHistory (s : State) (n z c v : Bool) : (s.setNZCV n z c v).cpHistory = s.cpHistory := rfl
@[simp] theorem State.setNZCV_freeCount (s : State) (n z c v : Bool) : (s.setNZCV n z c v).freeCount = s.freeCount := rfl
@[simp] theorem State.setNZCV_inputs (s : State) (n z c v : Bool) : (s.setNZCV n z c v).inputs = s.inputs := rfl
@[simp] theorem State.setNZCV_intruders (s : State) (n z c v : Bool) : (s.setNZCV n z c v).intruders = s.intruders := rfl

@[simp] theorem State.setQ_regs (s : State) (q : Bool) : (s.setQ q).regs = s.regs := rfl
@[simp] theorem State.setQ_pc (s : State) (q : Bool) : (s.setQ q).pc = s.pc := rfl
@[simp] theorem State.setQ_spsr (s : State) (q : Bool) : (s.setQ q).spsr = s.spsr := rfl
@[simp] theorem State.setQ_cp15 (s : State) (q : Bool) : (s.setQ q).cp15 = s.cp15 := rfl
@[simp] theorem State.setQ_itlb (s : State) (q : Bool) : (s.setQ q).itlb = s.itlb := rfl
@[simp] theorem State.setQ_dtlb (s : State) (q : Bool) : (s.setQ q).dtlb = s.dtlb := rfl
@[simp] theorem State.setQ_icache (s : State) (q : Bool) : (s.setQ q).icache = s.icache := rfl
@[simp] theorem State.setQ_dcache (s : State) (q : Bool) : (s.setQ q).dcache = s.dcache := rfl
@[simp] theorem State.setQ_wbuf (s : State) (q : Bool) : (s.setQ q).wbuf = s.wbuf := rfl
@[simp] theorem State.setQ_castout (s : State) (q : Bool) : (s.setQ q).castout = s.castout := rfl
@[simp] theorem State.setQ_hum (s : State) (q : Bool) : (s.setQ q).hum = s.hum := rfl
@[simp] theorem State.setQ_prefetch (s : State) (q : Bool) : (s.setQ q).prefetch = s.prefetch := rfl
@[simp] theorem State.setQ_mem (s : State) (q : Bool) : (s.setQ q).mem = s.mem := rfl
@[simp] theorem State.setQ_memMap (s : State) (q : Bool) : (s.setQ q).memMap = s.memMap := rfl
@[simp] theorem State.setQ_pm (s : State) (q : Bool) : (s.setQ q).pm = s.pm := rfl
@[simp] theorem State.setQ_dbg (s : State) (q : Bool) : (s.setQ q).dbg = s.dbg := rfl
@[simp] theorem State.setQ_tap (s : State) (q : Bool) : (s.setQ q).tap = s.tap := rfl
@[simp] theorem State.setQ_pins (s : State) (q : Bool) : (s.setQ q).pins = s.pins := rfl
@[simp] theorem State.setQ_run (s : State) (q : Bool) : (s.setQ q).run = s.run := rfl
@[simp] theorem State.setQ_bus (s : State) (q : Bool) : (s.setQ q).bus = s.bus := rfl
@[simp] theorem State.setQ_cpHistory (s : State) (q : Bool) : (s.setQ q).cpHistory = s.cpHistory := rfl
@[simp] theorem State.setQ_freeCount (s : State) (q : Bool) : (s.setQ q).freeCount = s.freeCount := rfl
@[simp] theorem State.setQ_inputs (s : State) (q : Bool) : (s.setQ q).inputs = s.inputs := rfl
@[simp] theorem State.setQ_intruders (s : State) (q : Bool) : (s.setQ q).intruders = s.intruders := rfl

@[simp] theorem State.setThumb_regs (s : State) (b : Bool) : (s.setThumb b).regs = s.regs := rfl
@[simp] theorem State.setThumb_pc (s : State) (b : Bool) : (s.setThumb b).pc = s.pc := rfl
@[simp] theorem State.setThumb_spsr (s : State) (b : Bool) : (s.setThumb b).spsr = s.spsr := rfl
@[simp] theorem State.setThumb_cp15 (s : State) (b : Bool) : (s.setThumb b).cp15 = s.cp15 := rfl
@[simp] theorem State.setThumb_itlb (s : State) (b : Bool) : (s.setThumb b).itlb = s.itlb := rfl
@[simp] theorem State.setThumb_dtlb (s : State) (b : Bool) : (s.setThumb b).dtlb = s.dtlb := rfl
@[simp] theorem State.setThumb_icache (s : State) (b : Bool) : (s.setThumb b).icache = s.icache := rfl
@[simp] theorem State.setThumb_dcache (s : State) (b : Bool) : (s.setThumb b).dcache = s.dcache := rfl
@[simp] theorem State.setThumb_wbuf (s : State) (b : Bool) : (s.setThumb b).wbuf = s.wbuf := rfl
@[simp] theorem State.setThumb_castout (s : State) (b : Bool) : (s.setThumb b).castout = s.castout := rfl
@[simp] theorem State.setThumb_hum (s : State) (b : Bool) : (s.setThumb b).hum = s.hum := rfl
@[simp] theorem State.setThumb_prefetch (s : State) (b : Bool) : (s.setThumb b).prefetch = s.prefetch := rfl
@[simp] theorem State.setThumb_mem (s : State) (b : Bool) : (s.setThumb b).mem = s.mem := rfl
@[simp] theorem State.setThumb_memMap (s : State) (b : Bool) : (s.setThumb b).memMap = s.memMap := rfl
@[simp] theorem State.setThumb_pm (s : State) (b : Bool) : (s.setThumb b).pm = s.pm := rfl
@[simp] theorem State.setThumb_dbg (s : State) (b : Bool) : (s.setThumb b).dbg = s.dbg := rfl
@[simp] theorem State.setThumb_tap (s : State) (b : Bool) : (s.setThumb b).tap = s.tap := rfl
@[simp] theorem State.setThumb_pins (s : State) (b : Bool) : (s.setThumb b).pins = s.pins := rfl
@[simp] theorem State.setThumb_run (s : State) (b : Bool) : (s.setThumb b).run = s.run := rfl
@[simp] theorem State.setThumb_bus (s : State) (b : Bool) : (s.setThumb b).bus = s.bus := rfl
@[simp] theorem State.setThumb_cpHistory (s : State) (b : Bool) : (s.setThumb b).cpHistory = s.cpHistory := rfl
@[simp] theorem State.setThumb_freeCount (s : State) (b : Bool) : (s.setThumb b).freeCount = s.freeCount := rfl
@[simp] theorem State.setThumb_inputs (s : State) (b : Bool) : (s.setThumb b).inputs = s.inputs := rfl
@[simp] theorem State.setThumb_intruders (s : State) (b : Bool) : (s.setThumb b).intruders = s.intruders := rfl

@[simp] theorem State.branchTo_regs (s : State) (a : Word) : (s.branchTo a).regs = s.regs := rfl
@[simp] theorem State.branchTo_pc (s : State) (a : Word) : (s.branchTo a).pc = a := rfl
@[simp] theorem State.branchTo_cpsr (s : State) (a : Word) : (s.branchTo a).cpsr = s.cpsr := rfl
@[simp] theorem State.branchTo_spsr (s : State) (a : Word) : (s.branchTo a).spsr = s.spsr := rfl
@[simp] theorem State.branchTo_cp15 (s : State) (a : Word) : (s.branchTo a).cp15 = s.cp15 := rfl
@[simp] theorem State.branchTo_itlb (s : State) (a : Word) : (s.branchTo a).itlb = s.itlb := rfl
@[simp] theorem State.branchTo_dtlb (s : State) (a : Word) : (s.branchTo a).dtlb = s.dtlb := rfl
@[simp] theorem State.branchTo_icache (s : State) (a : Word) : (s.branchTo a).icache = s.icache := rfl
@[simp] theorem State.branchTo_dcache (s : State) (a : Word) : (s.branchTo a).dcache = s.dcache := rfl
@[simp] theorem State.branchTo_wbuf (s : State) (a : Word) : (s.branchTo a).wbuf = s.wbuf := rfl
@[simp] theorem State.branchTo_castout (s : State) (a : Word) : (s.branchTo a).castout = s.castout := rfl
@[simp] theorem State.branchTo_hum (s : State) (a : Word) : (s.branchTo a).hum = s.hum := rfl
@[simp] theorem State.branchTo_prefetch (s : State) (a : Word) : (s.branchTo a).prefetch = [] := rfl
@[simp] theorem State.branchTo_mem (s : State) (a : Word) : (s.branchTo a).mem = s.mem := rfl
@[simp] theorem State.branchTo_memMap (s : State) (a : Word) : (s.branchTo a).memMap = s.memMap := rfl
@[simp] theorem State.branchTo_pm (s : State) (a : Word) : (s.branchTo a).pm = s.pm := rfl
@[simp] theorem State.branchTo_dbg (s : State) (a : Word) : (s.branchTo a).dbg = s.dbg := rfl
@[simp] theorem State.branchTo_tap (s : State) (a : Word) : (s.branchTo a).tap = s.tap := rfl
@[simp] theorem State.branchTo_pins (s : State) (a : Word) : (s.branchTo a).pins = s.pins := rfl
@[simp] theorem State.branchTo_run (s : State) (a : Word) : (s.branchTo a).run = s.run := rfl
@[simp] theorem State.branchTo_bus (s : State) (a : Word) : (s.branchTo a).bus = s.bus := rfl
@[simp] theorem State.branchTo_cpHistory (s : State) (a : Word) : (s.branchTo a).cpHistory = s.cpHistory := rfl
@[simp] theorem State.branchTo_freeCount (s : State) (a : Word) : (s.branchTo a).freeCount = s.freeCount := rfl
@[simp] theorem State.branchTo_inputs (s : State) (a : Word) : (s.branchTo a).inputs = s.inputs := rfl
@[simp] theorem State.branchTo_intruders (s : State) (a : Word) : (s.branchTo a).intruders = s.intruders := rfl

@[simp] theorem State.moveOn_regs (s : State) : s.moveOn.regs = s.regs := rfl
@[simp] theorem State.moveOn_pc (s : State) : s.moveOn.pc = if s.halted then s.pc else s.pc + s.instrSize := rfl
@[simp] theorem State.moveOn_cpsr (s : State) : s.moveOn.cpsr = s.cpsr := rfl
@[simp] theorem State.moveOn_spsr (s : State) : s.moveOn.spsr = s.spsr := rfl
@[simp] theorem State.moveOn_cp15 (s : State) : s.moveOn.cp15 = s.cp15 := rfl
@[simp] theorem State.moveOn_itlb (s : State) : s.moveOn.itlb = s.itlb := rfl
@[simp] theorem State.moveOn_dtlb (s : State) : s.moveOn.dtlb = s.dtlb := rfl
@[simp] theorem State.moveOn_icache (s : State) : s.moveOn.icache = s.icache := rfl
@[simp] theorem State.moveOn_dcache (s : State) : s.moveOn.dcache = s.dcache := rfl
@[simp] theorem State.moveOn_wbuf (s : State) : s.moveOn.wbuf = s.wbuf := rfl
@[simp] theorem State.moveOn_castout (s : State) : s.moveOn.castout = s.castout := rfl
@[simp] theorem State.moveOn_hum (s : State) : s.moveOn.hum = s.hum := rfl
@[simp] theorem State.moveOn_prefetch (s : State) : s.moveOn.prefetch = s.prefetch := rfl
@[simp] theorem State.moveOn_mem (s : State) : s.moveOn.mem = s.mem := rfl
@[simp] theorem State.moveOn_memMap (s : State) : s.moveOn.memMap = s.memMap := rfl
@[simp] theorem State.moveOn_pm (s : State) : s.moveOn.pm = s.pm := rfl
@[simp] theorem State.moveOn_dbg (s : State) : s.moveOn.dbg = s.dbg := rfl
@[simp] theorem State.moveOn_tap (s : State) : s.moveOn.tap = s.tap := rfl
@[simp] theorem State.moveOn_pins (s : State) : s.moveOn.pins = s.pins := rfl
@[simp] theorem State.moveOn_run (s : State) : s.moveOn.run = s.run := rfl
@[simp] theorem State.moveOn_bus (s : State) : s.moveOn.bus = s.bus := rfl
@[simp] theorem State.moveOn_cpHistory (s : State) : s.moveOn.cpHistory = s.cpHistory := rfl
@[simp] theorem State.moveOn_freeCount (s : State) : s.moveOn.freeCount = s.freeCount := rfl
@[simp] theorem State.moveOn_inputs (s : State) : s.moveOn.inputs = s.inputs := rfl
@[simp] theorem State.moveOn_intruders (s : State) : s.moveOn.intruders = s.intruders := rfl

@[simp] theorem State.setRegIn_pc (s : State) (b : Bank) (r : Reg) (v : Word) : (s.setRegIn b r v).pc = s.pc := by unfold State.setRegIn; split <;> rfl
@[simp] theorem State.setRegIn_cpsr (s : State) (b : Bank) (r : Reg) (v : Word) : (s.setRegIn b r v).cpsr = s.cpsr := by unfold State.setRegIn; split <;> rfl
@[simp] theorem State.setRegIn_spsr (s : State) (b : Bank) (r : Reg) (v : Word) : (s.setRegIn b r v).spsr = s.spsr := by unfold State.setRegIn; split <;> rfl
@[simp] theorem State.setRegIn_cp15 (s : State) (b : Bank) (r : Reg) (v : Word) : (s.setRegIn b r v).cp15 = s.cp15 := by unfold State.setRegIn; split <;> rfl
@[simp] theorem State.setRegIn_itlb (s : State) (b : Bank) (r : Reg) (v : Word) : (s.setRegIn b r v).itlb = s.itlb := by unfold State.setRegIn; split <;> rfl
@[simp] theorem State.setRegIn_dtlb (s : State) (b : Bank) (r : Reg) (v : Word) : (s.setRegIn b r v).dtlb = s.dtlb := by unfold State.setRegIn; split <;> rfl
@[simp] theorem State.setRegIn_icache (s : State) (b : Bank) (r : Reg) (v : Word) : (s.setRegIn b r v).icache = s.icache := by unfold State.setRegIn; split <;> rfl
@[simp] theorem State.setRegIn_dcache (s : State) (b : Bank) (r : Reg) (v : Word) : (s.setRegIn b r v).dcache = s.dcache := by unfold State.setRegIn; split <;> rfl
@[simp] theorem State.setRegIn_wbuf (s : State) (b : Bank) (r : Reg) (v : Word) : (s.setRegIn b r v).wbuf = s.wbuf := by unfold State.setRegIn; split <;> rfl
@[simp] theorem State.setRegIn_castout (s : State) (b : Bank) (r : Reg) (v : Word) : (s.setRegIn b r v).castout = s.castout := by unfold State.setRegIn; split <;> rfl
@[simp] theorem State.setRegIn_hum (s : State) (b : Bank) (r : Reg) (v : Word) : (s.setRegIn b r v).hum = s.hum := by unfold State.setRegIn; split <;> rfl
@[simp] theorem State.setRegIn_prefetch (s : State) (b : Bank) (r : Reg) (v : Word) : (s.setRegIn b r v).prefetch = s.prefetch := by unfold State.setRegIn; split <;> rfl
@[simp] theorem State.setRegIn_mem (s : State) (b : Bank) (r : Reg) (v : Word) : (s.setRegIn b r v).mem = s.mem := by unfold State.setRegIn; split <;> rfl
@[simp] theorem State.setRegIn_memMap (s : State) (b : Bank) (r : Reg) (v : Word) : (s.setRegIn b r v).memMap = s.memMap := by unfold State.setRegIn; split <;> rfl
@[simp] theorem State.setRegIn_pm (s : State) (b : Bank) (r : Reg) (v : Word) : (s.setRegIn b r v).pm = s.pm := by unfold State.setRegIn; split <;> rfl
@[simp] theorem State.setRegIn_dbg (s : State) (b : Bank) (r : Reg) (v : Word) : (s.setRegIn b r v).dbg = s.dbg := by unfold State.setRegIn; split <;> rfl
@[simp] theorem State.setRegIn_tap (s : State) (b : Bank) (r : Reg) (v : Word) : (s.setRegIn b r v).tap = s.tap := by unfold State.setRegIn; split <;> rfl
@[simp] theorem State.setRegIn_pins (s : State) (b : Bank) (r : Reg) (v : Word) : (s.setRegIn b r v).pins = s.pins := by unfold State.setRegIn; split <;> rfl
@[simp] theorem State.setRegIn_run (s : State) (b : Bank) (r : Reg) (v : Word) : (s.setRegIn b r v).run = s.run := by unfold State.setRegIn; split <;> rfl
@[simp] theorem State.setRegIn_bus (s : State) (b : Bank) (r : Reg) (v : Word) : (s.setRegIn b r v).bus = s.bus := by unfold State.setRegIn; split <;> rfl
@[simp] theorem State.setRegIn_cpHistory (s : State) (b : Bank) (r : Reg) (v : Word) : (s.setRegIn b r v).cpHistory = s.cpHistory := by unfold State.setRegIn; split <;> rfl
@[simp] theorem State.setRegIn_freeCount (s : State) (b : Bank) (r : Reg) (v : Word) : (s.setRegIn b r v).freeCount = s.freeCount := by unfold State.setRegIn; split <;> rfl
@[simp] theorem State.setRegIn_inputs (s : State) (b : Bank) (r : Reg) (v : Word) : (s.setRegIn b r v).inputs = s.inputs := by unfold State.setRegIn; split <;> rfl
@[simp] theorem State.setRegIn_intruders (s : State) (b : Bank) (r : Reg) (v : Word) : (s.setRegIn b r v).intruders = s.intruders := by unfold State.setRegIn; split <;> rfl

@[simp] theorem State.setReg_pc (s : State) (r : Reg) (v : Word) : (s.setReg r v).pc = s.pc := State.setRegIn_pc s s.bank r v
@[simp] theorem State.setReg_cpsr (s : State) (r : Reg) (v : Word) : (s.setReg r v).cpsr = s.cpsr := State.setRegIn_cpsr s s.bank r v
@[simp] theorem State.setReg_spsr (s : State) (r : Reg) (v : Word) : (s.setReg r v).spsr = s.spsr := State.setRegIn_spsr s s.bank r v
@[simp] theorem State.setReg_cp15 (s : State) (r : Reg) (v : Word) : (s.setReg r v).cp15 = s.cp15 := State.setRegIn_cp15 s s.bank r v
@[simp] theorem State.setReg_itlb (s : State) (r : Reg) (v : Word) : (s.setReg r v).itlb = s.itlb := State.setRegIn_itlb s s.bank r v
@[simp] theorem State.setReg_dtlb (s : State) (r : Reg) (v : Word) : (s.setReg r v).dtlb = s.dtlb := State.setRegIn_dtlb s s.bank r v
@[simp] theorem State.setReg_icache (s : State) (r : Reg) (v : Word) : (s.setReg r v).icache = s.icache := State.setRegIn_icache s s.bank r v
@[simp] theorem State.setReg_dcache (s : State) (r : Reg) (v : Word) : (s.setReg r v).dcache = s.dcache := State.setRegIn_dcache s s.bank r v
@[simp] theorem State.setReg_wbuf (s : State) (r : Reg) (v : Word) : (s.setReg r v).wbuf = s.wbuf := State.setRegIn_wbuf s s.bank r v
@[simp] theorem State.setReg_castout (s : State) (r : Reg) (v : Word) : (s.setReg r v).castout = s.castout := State.setRegIn_castout s s.bank r v
@[simp] theorem State.setReg_hum (s : State) (r : Reg) (v : Word) : (s.setReg r v).hum = s.hum := State.setRegIn_hum s s.bank r v
@[simp] theorem State.setReg_prefetch (s : State) (r : Reg) (v : Word) : (s.setReg r v).prefetch = s.prefetch := State.setRegIn_prefetch s s.bank r v
@[simp] theorem State.setReg_mem (s : State) (r : Reg) (v : Word) : (s.setReg r v).mem = s.mem := State.setRegIn_mem s s.bank r v
@[simp] theorem State.setReg_memMap (s : State) (r : Reg) (v : Word) : (s.setReg r v).memMap = s.memMap := State.setRegIn_memMap s s.bank r v
@[simp] theorem State.setReg_pm (s : State) (r : Reg) (v : Word) : (s.setReg r v).pm = s.pm := State.setRegIn_pm s s.bank r v
@[simp] theorem State.setReg_dbg (s : State) (r : Reg) (v : Word) : (s.setReg r v).dbg = s.dbg := State.setRegIn_dbg s s.bank r v
@[simp] theorem State.setReg_tap (s : State) (r : Reg) (v : Word) : (s.setReg r v).tap = s.tap := State.setRegIn_tap s s.bank r v
@[simp] theorem State.setReg_pins (s : State) (r : Reg) (v : Word) : (s.setReg r v).pins = s.pins := State.setRegIn_pins s s.bank r v
@[simp] theorem State.setReg_run (s : State) (r : Reg) (v : Word) : (s.setReg r v).run = s.run := State.setRegIn_run s s.bank r v
@[simp] theorem State.setReg_bus (s : State) (r : Reg) (v : Word) : (s.setReg r v).bus = s.bus := State.setRegIn_bus s s.bank r v
@[simp] theorem State.setReg_cpHistory (s : State) (r : Reg) (v : Word) : (s.setReg r v).cpHistory = s.cpHistory := State.setRegIn_cpHistory s s.bank r v
@[simp] theorem State.setReg_freeCount (s : State) (r : Reg) (v : Word) : (s.setReg r v).freeCount = s.freeCount := State.setRegIn_freeCount s s.bank r v
@[simp] theorem State.setReg_inputs (s : State) (r : Reg) (v : Word) : (s.setReg r v).inputs = s.inputs := State.setRegIn_inputs s s.bank r v
@[simp] theorem State.setReg_intruders (s : State) (r : Reg) (v : Word) : (s.setReg r v).intruders = s.intruders := State.setRegIn_intruders s s.bank r v

@[simp] theorem State.setSpsrIn_regs (s : State) (b : Bank) (v : Word) : (s.setSpsrIn b v).regs = s.regs := by unfold State.setSpsrIn; split <;> rfl
@[simp] theorem State.setSpsrIn_pc (s : State) (b : Bank) (v : Word) : (s.setSpsrIn b v).pc = s.pc := by unfold State.setSpsrIn; split <;> rfl
@[simp] theorem State.setSpsrIn_cpsr (s : State) (b : Bank) (v : Word) : (s.setSpsrIn b v).cpsr = s.cpsr := by unfold State.setSpsrIn; split <;> rfl
@[simp] theorem State.setSpsrIn_cp15 (s : State) (b : Bank) (v : Word) : (s.setSpsrIn b v).cp15 = s.cp15 := by unfold State.setSpsrIn; split <;> rfl
@[simp] theorem State.setSpsrIn_itlb (s : State) (b : Bank) (v : Word) : (s.setSpsrIn b v).itlb = s.itlb := by unfold State.setSpsrIn; split <;> rfl
@[simp] theorem State.setSpsrIn_dtlb (s : State) (b : Bank) (v : Word) : (s.setSpsrIn b v).dtlb = s.dtlb := by unfold State.setSpsrIn; split <;> rfl
@[simp] theorem State.setSpsrIn_icache (s : State) (b : Bank) (v : Word) : (s.setSpsrIn b v).icache = s.icache := by unfold State.setSpsrIn; split <;> rfl
@[simp] theorem State.setSpsrIn_dcache (s : State) (b : Bank) (v : Word) : (s.setSpsrIn b v).dcache = s.dcache := by unfold State.setSpsrIn; split <;> rfl
@[simp] theorem State.setSpsrIn_wbuf (s : State) (b : Bank) (v : Word) : (s.setSpsrIn b v).wbuf = s.wbuf := by unfold State.setSpsrIn; split <;> rfl
@[simp] theorem State.setSpsrIn_castout (s : State) (b : Bank) (v : Word) : (s.setSpsrIn b v).castout = s.castout := by unfold State.setSpsrIn; split <;> rfl
@[simp] theorem State.setSpsrIn_hum (s : State) (b : Bank) (v : Word) : (s.setSpsrIn b v).hum = s.hum := by unfold State.setSpsrIn; split <;> rfl
@[simp] theorem State.setSpsrIn_prefetch (s : State) (b : Bank) (v : Word) : (s.setSpsrIn b v).prefetch = s.prefetch := by unfold State.setSpsrIn; split <;> rfl
@[simp] theorem State.setSpsrIn_mem (s : State) (b : Bank) (v : Word) : (s.setSpsrIn b v).mem = s.mem := by unfold State.setSpsrIn; split <;> rfl
@[simp] theorem State.setSpsrIn_memMap (s : State) (b : Bank) (v : Word) : (s.setSpsrIn b v).memMap = s.memMap := by unfold State.setSpsrIn; split <;> rfl
@[simp] theorem State.setSpsrIn_pm (s : State) (b : Bank) (v : Word) : (s.setSpsrIn b v).pm = s.pm := by unfold State.setSpsrIn; split <;> rfl
@[simp] theorem State.setSpsrIn_dbg (s : State) (b : Bank) (v : Word) : (s.setSpsrIn b v).dbg = s.dbg := by unfold State.setSpsrIn; split <;> rfl
@[simp] theorem State.setSpsrIn_tap (s : State) (b : Bank) (v : Word) : (s.setSpsrIn b v).tap = s.tap := by unfold State.setSpsrIn; split <;> rfl
@[simp] theorem State.setSpsrIn_pins (s : State) (b : Bank) (v : Word) : (s.setSpsrIn b v).pins = s.pins := by unfold State.setSpsrIn; split <;> rfl
@[simp] theorem State.setSpsrIn_run (s : State) (b : Bank) (v : Word) : (s.setSpsrIn b v).run = s.run := by unfold State.setSpsrIn; split <;> rfl
@[simp] theorem State.setSpsrIn_bus (s : State) (b : Bank) (v : Word) : (s.setSpsrIn b v).bus = s.bus := by unfold State.setSpsrIn; split <;> rfl
@[simp] theorem State.setSpsrIn_cpHistory (s : State) (b : Bank) (v : Word) : (s.setSpsrIn b v).cpHistory = s.cpHistory := by unfold State.setSpsrIn; split <;> rfl
@[simp] theorem State.setSpsrIn_freeCount (s : State) (b : Bank) (v : Word) : (s.setSpsrIn b v).freeCount = s.freeCount := by unfold State.setSpsrIn; split <;> rfl
@[simp] theorem State.setSpsrIn_inputs (s : State) (b : Bank) (v : Word) : (s.setSpsrIn b v).inputs = s.inputs := by unfold State.setSpsrIn; split <;> rfl
@[simp] theorem State.setSpsrIn_intruders (s : State) (b : Bank) (v : Word) : (s.setSpsrIn b v).intruders = s.intruders := by unfold State.setSpsrIn; split <;> rfl

@[simp] theorem caughtHere_regs (s : State) : (caughtHere s).regs = s.regs := rfl
@[simp] theorem caughtHere_pc (s : State) : (caughtHere s).pc = s.pc := rfl
@[simp] theorem caughtHere_cpsr (s : State) : (caughtHere s).cpsr = s.cpsr := rfl
@[simp] theorem caughtHere_spsr (s : State) : (caughtHere s).spsr = s.spsr := rfl
@[simp] theorem caughtHere_cp15 (s : State) : (caughtHere s).cp15 = s.cp15 := rfl
@[simp] theorem caughtHere_itlb (s : State) : (caughtHere s).itlb = s.itlb := rfl
@[simp] theorem caughtHere_dtlb (s : State) : (caughtHere s).dtlb = s.dtlb := rfl
@[simp] theorem caughtHere_icache (s : State) : (caughtHere s).icache = s.icache := rfl
@[simp] theorem caughtHere_dcache (s : State) : (caughtHere s).dcache = s.dcache := rfl
@[simp] theorem caughtHere_wbuf (s : State) : (caughtHere s).wbuf = s.wbuf := rfl
@[simp] theorem caughtHere_castout (s : State) : (caughtHere s).castout = s.castout := rfl
@[simp] theorem caughtHere_hum (s : State) : (caughtHere s).hum = s.hum := rfl
@[simp] theorem caughtHere_prefetch (s : State) : (caughtHere s).prefetch = s.prefetch := rfl
@[simp] theorem caughtHere_mem (s : State) : (caughtHere s).mem = s.mem := rfl
@[simp] theorem caughtHere_memMap (s : State) : (caughtHere s).memMap = s.memMap := rfl
@[simp] theorem caughtHere_pm (s : State) : (caughtHere s).pm = s.pm := rfl
@[simp] theorem caughtHere_tap (s : State) : (caughtHere s).tap = s.tap := rfl
@[simp] theorem caughtHere_pins (s : State) : (caughtHere s).pins = s.pins := rfl
@[simp] theorem caughtHere_run (s : State) : (caughtHere s).run = s.run := rfl
@[simp] theorem caughtHere_bus (s : State) : (caughtHere s).bus = s.bus := rfl
@[simp] theorem caughtHere_cpHistory (s : State) : (caughtHere s).cpHistory = s.cpHistory := rfl
@[simp] theorem caughtHere_freeCount (s : State) : (caughtHere s).freeCount = s.freeCount := rfl
@[simp] theorem caughtHere_inputs (s : State) : (caughtHere s).inputs = s.inputs := rfl
@[simp] theorem caughtHere_intruders (s : State) : (caughtHere s).intruders = s.intruders := rfl
@[simp] theorem caughtHere_dscr (s : State) : (caughtHere s).dbg.dscr = s.dbg.dscr := rfl
@[simp] theorem caughtHere_catchAt (s : State) : (caughtHere s).dbg.catchAt = s.dbg.catchAt.filter (· != s.pc) := rfl

@[simp] theorem hold_regs (p : Prefetched) (s : State) : (hold p s).regs = s.regs := rfl
@[simp] theorem hold_pc (p : Prefetched) (s : State) : (hold p s).pc = s.pc := rfl
@[simp] theorem hold_cpsr (p : Prefetched) (s : State) : (hold p s).cpsr = s.cpsr := rfl
@[simp] theorem hold_spsr (p : Prefetched) (s : State) : (hold p s).spsr = s.spsr := rfl
@[simp] theorem hold_cp15 (p : Prefetched) (s : State) : (hold p s).cp15 = s.cp15 := rfl
@[simp] theorem hold_itlb (p : Prefetched) (s : State) : (hold p s).itlb = s.itlb := rfl
@[simp] theorem hold_dtlb (p : Prefetched) (s : State) : (hold p s).dtlb = s.dtlb := rfl
@[simp] theorem hold_icache (p : Prefetched) (s : State) : (hold p s).icache = s.icache := rfl
@[simp] theorem hold_dcache (p : Prefetched) (s : State) : (hold p s).dcache = s.dcache := rfl
@[simp] theorem hold_wbuf (p : Prefetched) (s : State) : (hold p s).wbuf = s.wbuf := rfl
@[simp] theorem hold_castout (p : Prefetched) (s : State) : (hold p s).castout = s.castout := rfl
@[simp] theorem hold_hum (p : Prefetched) (s : State) : (hold p s).hum = s.hum := rfl
@[simp] theorem hold_prefetch (p : Prefetched) (s : State) : (hold p s).prefetch = p :: s.prefetch := rfl
@[simp] theorem hold_mem (p : Prefetched) (s : State) : (hold p s).mem = s.mem := rfl
@[simp] theorem hold_memMap (p : Prefetched) (s : State) : (hold p s).memMap = s.memMap := rfl
@[simp] theorem hold_pm (p : Prefetched) (s : State) : (hold p s).pm = s.pm := rfl
@[simp] theorem hold_dbg (p : Prefetched) (s : State) : (hold p s).dbg = s.dbg := rfl
@[simp] theorem hold_tap (p : Prefetched) (s : State) : (hold p s).tap = s.tap := rfl
@[simp] theorem hold_pins (p : Prefetched) (s : State) : (hold p s).pins = s.pins := rfl
@[simp] theorem hold_run (p : Prefetched) (s : State) : (hold p s).run = s.run := rfl
@[simp] theorem hold_bus (p : Prefetched) (s : State) : (hold p s).bus = s.bus := rfl
@[simp] theorem hold_cpHistory (p : Prefetched) (s : State) : (hold p s).cpHistory = s.cpHistory := rfl
@[simp] theorem hold_freeCount (p : Prefetched) (s : State) : (hold p s).freeCount = s.freeCount := rfl
@[simp] theorem hold_inputs (p : Prefetched) (s : State) : (hold p s).inputs = s.inputs := rfl
@[simp] theorem hold_intruders (p : Prefetched) (s : State) : (hold p s).intruders = s.intruders := rfl

@[simp] theorem useMany_regs (n : Nat) (s : State) : (useMany n s).regs = s.regs := rfl
@[simp] theorem useMany_pc (n : Nat) (s : State) : (useMany n s).pc = s.pc := rfl
@[simp] theorem useMany_cpsr (n : Nat) (s : State) : (useMany n s).cpsr = s.cpsr := rfl
@[simp] theorem useMany_spsr (n : Nat) (s : State) : (useMany n s).spsr = s.spsr := rfl
@[simp] theorem useMany_cp15 (n : Nat) (s : State) : (useMany n s).cp15 = s.cp15 := rfl
@[simp] theorem useMany_itlb (n : Nat) (s : State) : (useMany n s).itlb = s.itlb := rfl
@[simp] theorem useMany_dtlb (n : Nat) (s : State) : (useMany n s).dtlb = s.dtlb := rfl
@[simp] theorem useMany_icache (n : Nat) (s : State) : (useMany n s).icache = s.icache := rfl
@[simp] theorem useMany_dcache (n : Nat) (s : State) : (useMany n s).dcache = s.dcache := rfl
@[simp] theorem useMany_wbuf (n : Nat) (s : State) : (useMany n s).wbuf = s.wbuf := rfl
@[simp] theorem useMany_castout (n : Nat) (s : State) : (useMany n s).castout = s.castout := rfl
@[simp] theorem useMany_hum (n : Nat) (s : State) : (useMany n s).hum = s.hum := rfl
@[simp] theorem useMany_prefetch (n : Nat) (s : State) : (useMany n s).prefetch = s.prefetch := rfl
@[simp] theorem useMany_mem (n : Nat) (s : State) : (useMany n s).mem = s.mem := rfl
@[simp] theorem useMany_memMap (n : Nat) (s : State) : (useMany n s).memMap = s.memMap := rfl
@[simp] theorem useMany_pm (n : Nat) (s : State) : (useMany n s).pm = s.pm := rfl
@[simp] theorem useMany_dbg (n : Nat) (s : State) : (useMany n s).dbg = s.dbg := rfl
@[simp] theorem useMany_tap (n : Nat) (s : State) : (useMany n s).tap = s.tap := rfl
@[simp] theorem useMany_pins (n : Nat) (s : State) : (useMany n s).pins = s.pins := rfl
@[simp] theorem useMany_run (n : Nat) (s : State) : (useMany n s).run = s.run := rfl
@[simp] theorem useMany_bus (n : Nat) (s : State) : (useMany n s).bus = s.bus := rfl
@[simp] theorem useMany_cpHistory (n : Nat) (s : State) : (useMany n s).cpHistory = s.cpHistory := rfl
@[simp] theorem useMany_freeCount (n : Nat) (s : State) : (useMany n s).freeCount = s.freeCount + n := rfl
@[simp] theorem useMany_inputs (n : Nat) (s : State) : (useMany n s).inputs = s.inputs := rfl
@[simp] theorem useMany_intruders (n : Nat) (s : State) : (useMany n s).intruders = s.intruders := rfl

/-- What an MCR sends, and the state it is carried out in (spec/46 R705). -/
theorem mcrValue_eq (rd : Reg) (s : State) : mcrValue rd s = (s.sent rd, s.sending rd) := by
  unfold mcrValue State.sent State.sending
  split <;> rfl

/-- Where the answer of an MRC goes (spec/46 R706, R707). -/
theorem mrcResult_eq (rd : Reg) (v : Word) (s : State) : mrcResult rd v s = advance (s.receive rd v) := by
  unfold mrcResult State.receive
  split <;> rfl

/-- A sent word uses up at most a free value. -/
theorem State.sending_eq (s : State) (rd : Reg) : ∃ n, s.sending rd = { s with freeCount := n } := by
  unfold State.sending
  split
  · exact ⟨_, rfl⟩
  · exact ⟨s.freeCount, rfl⟩

@[simp] theorem State.sending_regs (s : State) (rd : Reg) : (s.sending rd).regs = s.regs := by obtain ⟨n, h⟩ := s.sending_eq rd; rw [h]
@[simp] theorem State.sending_pc (s : State) (rd : Reg) : (s.sending rd).pc = s.pc := by obtain ⟨n, h⟩ := s.sending_eq rd; rw [h]
@[simp] theorem State.sending_cpsr (s : State) (rd : Reg) : (s.sending rd).cpsr = s.cpsr := by obtain ⟨n, h⟩ := s.sending_eq rd; rw [h]
@[simp] theorem State.sending_spsr (s : State) (rd : Reg) : (s.sending rd).spsr = s.spsr := by obtain ⟨n, h⟩ := s.sending_eq rd; rw [h]
@[simp] theorem State.sending_cp15 (s : State) (rd : Reg) : (s.sending rd).cp15 = s.cp15 := by obtain ⟨n, h⟩ := s.sending_eq rd; rw [h]
@[simp] theorem State.sending_itlb (s : State) (rd : Reg) : (s.sending rd).itlb = s.itlb := by obtain ⟨n, h⟩ := s.sending_eq rd; rw [h]
@[simp] theorem State.sending_dtlb (s : State) (rd : Reg) : (s.sending rd).dtlb = s.dtlb := by obtain ⟨n, h⟩ := s.sending_eq rd; rw [h]
@[simp] theorem State.sending_icache (s : State) (rd : Reg) : (s.sending rd).icache = s.icache := by obtain ⟨n, h⟩ := s.sending_eq rd; rw [h]
@[simp] theorem State.sending_dcache (s : State) (rd : Reg) : (s.sending rd).dcache = s.dcache := by obtain ⟨n, h⟩ := s.sending_eq rd; rw [h]
@[simp] theorem State.sending_wbuf (s : State) (rd : Reg) : (s.sending rd).wbuf = s.wbuf := by obtain ⟨n, h⟩ := s.sending_eq rd; rw [h]
@[simp] theorem State.sending_castout (s : State) (rd : Reg) : (s.sending rd).castout = s.castout := by obtain ⟨n, h⟩ := s.sending_eq rd; rw [h]
@[simp] theorem State.sending_mem (s : State) (rd : Reg) : (s.sending rd).mem = s.mem := by obtain ⟨n, h⟩ := s.sending_eq rd; rw [h]
@[simp] theorem State.sending_memMap (s : State) (rd : Reg) : (s.sending rd).memMap = s.memMap := by obtain ⟨n, h⟩ := s.sending_eq rd; rw [h]
@[simp] theorem State.sending_pm (s : State) (rd : Reg) : (s.sending rd).pm = s.pm := by obtain ⟨n, h⟩ := s.sending_eq rd; rw [h]
@[simp] theorem State.sending_dbg (s : State) (rd : Reg) : (s.sending rd).dbg = s.dbg := by obtain ⟨n, h⟩ := s.sending_eq rd; rw [h]
@[simp] theorem State.sending_pins (s : State) (rd : Reg) : (s.sending rd).pins = s.pins := by obtain ⟨n, h⟩ := s.sending_eq rd; rw [h]
@[simp] theorem State.sending_run (s : State) (rd : Reg) : (s.sending rd).run = s.run := by obtain ⟨n, h⟩ := s.sending_eq rd; rw [h]
@[simp] theorem State.sending_cpHistory (s : State) (rd : Reg) : (s.sending rd).cpHistory = s.cpHistory := by obtain ⟨n, h⟩ := s.sending_eq rd; rw [h]
@[simp] theorem State.sending_intruders (s : State) (rd : Reg) : (s.sending rd).intruders = s.intruders := by obtain ⟨n, h⟩ := s.sending_eq rd; rw [h]

/-- `resolve` changes the prefetch buffer only (spec/22 R375). -/
theorem resolve_eq (pr : Prediction) (rest : List Prefetched) (t : State) :
    resolve pr rest t = { t with prefetch := (resolve pr rest t).prefetch } := by
  cases pr <;> rfl

/-- An unpredicted instruction leaves the prefetch buffer as its meaning left it (spec/22 R375). -/
@[simp] theorem resolve_unpredicted (rest : List Prefetched) (t : State) : resolve .unpredicted rest t = t := rfl

/-! The outputs DBGACK, COMMRX and COMMTX after each event that moves them (spec/61 R905, R913, R925, R926). -/

theorem State.dbgack_eq (s : State) : s.dbgack = s.dbg.dscr.getLsbD 0 := rfl
theorem State.commrx_eq (s : State) : s.commrx = s.dbg.dscr.getLsbD 7 := rfl
theorem State.commtx_eq (s : State) : s.commtx = s.dbg.dscr.getLsbD 6 := rfl

@[simp] theorem enterDebug_dbgack (moe : BitVec 3) (s : State) : (enterDebug moe s).dbgack = true := by
  exact BitVec.getLsbD_append

@[simp] theorem State.restart_dbgack (s : State) : s.restart.dbgack = false := by
  exact BitVec.getLsbD_append

@[simp] theorem readDtr_commrx (s : State) : (readDtr s).commrx = false := by
  simp [State.commrx_eq, readDtr]

@[simp] theorem readDtr_commtx (s : State) : (readDtr s).commtx = s.commtx := by
  simp [State.commtx_eq, readDtr]

@[simp] theorem writeDtr_commtx (v : Word) (s : State) : (writeDtr v s).commtx = false := by
  simp [State.commtx_eq, writeDtr]

@[simp] theorem writeDtr_commrx (v : Word) (s : State) : (writeDtr v s).commrx = s.commrx := by
  simp [State.commrx_eq, writeDtr]

@[simp] theorem State.clearWdtr_commtx (s : State) : s.clearWdtr.commtx = true := by
  simp [State.commtx_eq, State.clearWdtr]

@[simp] theorem State.clearWdtr_commrx (s : State) : s.clearWdtr.commrx = s.commrx := by
  simp [State.commrx_eq, State.clearWdtr]

@[simp] theorem State.jtagRdtr_commrx (s : State) (v : Word) : (s.jtagRdtr v).commrx = (s.commrx || s.tap.rxReady) := by
  unfold State.jtagRdtr
  cases s.tap.rxReady <;> simp [State.commrx_eq]

@[simp] theorem State.jtagRdtr_commtx (s : State) (v : Word) : (s.jtagRdtr v).commtx = s.commtx := by
  unfold State.jtagRdtr
  cases s.tap.rxReady <;> simp [State.commtx_eq]

end Sys2Proof.Machine
end

