-- ==== Sys2Proof/Laws/Registers.lean ====
section
/-!
SUPPORT. The register banks (spec/10 R31, R32), the status register's fields (R40 to R46), and what the shared
operations of Machine/Ops.lean can do.
-/
namespace Sys2Proof.Machine

/-- The bits of a status register after an NZCV write (spec/10 R40). -/
theorem getLsbD_nzcv (n z c v : Bool) (w : Word) (i : Nat) :
    (BitVec.ofBool n ++ BitVec.ofBool z ++ BitVec.ofBool c ++ BitVec.ofBool v ++ w.extractLsb' 0 28 : Word).getLsbD i
      = if i < 28 then w.getLsbD i
        else (BitVec.ofBool n ++ BitVec.ofBool z ++ BitVec.ofBool c ++ BitVec.ofBool v).getLsbD (i - 28) := by
  refine (BitVec.getLsbD_append (x := BitVec.ofBool n ++ BitVec.ofBool z ++ BitVec.ofBool c ++ BitVec.ofBool v)
    (y := w.extractLsb' 0 28)).trans ?_
  split <;> simp_all

/-- The low 28 bits of the CPSR are not touched by an NZCV write. -/
theorem State.setNZCV_getLsbD (s : State) (n z c v : Bool) (i : Nat) (h : i < 28) :
    (s.setNZCV n z c v).cpsr.getLsbD i = s.cpsr.getLsbD i :=
  (getLsbD_nzcv n z c v s.cpsr i).trans (if_pos h)

@[simp] theorem State.setNZCV_flagN (s : State) (n z c v : Bool) : (s.setNZCV n z c v).flagN = n :=
  (getLsbD_nzcv n z c v s.cpsr 31).trans (by cases n <;> cases z <;> cases c <;> cases v <;> rfl)

@[simp] theorem State.setNZCV_flagZ (s : State) (n z c v : Bool) : (s.setNZCV n z c v).flagZ = z :=
  (getLsbD_nzcv n z c v s.cpsr 30).trans (by cases n <;> cases z <;> cases c <;> cases v <;> rfl)

@[simp] theorem State.setNZCV_flagC (s : State) (n z c v : Bool) : (s.setNZCV n z c v).flagC = c :=
  (getLsbD_nzcv n z c v s.cpsr 29).trans (by cases n <;> cases z <;> cases c <;> cases v <;> rfl)

@[simp] theorem State.setNZCV_flagV (s : State) (n z c v : Bool) : (s.setNZCV n z c v).flagV = v :=
  (getLsbD_nzcv n z c v s.cpsr 28).trans (by cases n <;> cases z <;> cases c <;> cases v <;> rfl)

@[simp] theorem State.setNZCV_flagQ (s : State) (n z c v : Bool) : (s.setNZCV n z c v).flagQ = s.flagQ :=
  s.setNZCV_getLsbD n z c v 27 (by decide)

@[simp] theorem State.setNZCV_thumb (s : State) (n z c v : Bool) : (s.setNZCV n z c v).thumb = s.thumb :=
  s.setNZCV_getLsbD n z c v 5 (by decide)

@[simp] theorem State.setNZCV_mode (s : State) (n z c v : Bool) : (s.setNZCV n z c v).mode = s.mode := by
  ext i hi
  have h := s.setNZCV_getLsbD n z c v i (by omega)
  simpa [State.mode] using h

/-- Setting Q changes no bit but bit 27. -/
theorem State.setQ_getLsbD (s : State) (q : Bool) (i : Nat) (h : i ≠ 27) :
    (s.setQ q).cpsr.getLsbD i = s.cpsr.getLsbD i := by
  unfold State.setQ
  cases q
  · rfl
  · rcases Nat.lt_or_ge i 32 with hi | hi
    · interval_cases i <;> simp_all
    · simp [BitVec.getLsbD_of_ge _ _ hi]

@[simp] theorem State.setQ_flagN (s : State) (q : Bool) : (s.setQ q).flagN = s.flagN := s.setQ_getLsbD q 31 (by decide)
@[simp] theorem State.setQ_flagZ (s : State) (q : Bool) : (s.setQ q).flagZ = s.flagZ := s.setQ_getLsbD q 30 (by decide)
@[simp] theorem State.setQ_flagC (s : State) (q : Bool) : (s.setQ q).flagC = s.flagC := s.setQ_getLsbD q 29 (by decide)
@[simp] theorem State.setQ_flagV (s : State) (q : Bool) : (s.setQ q).flagV = s.flagV := s.setQ_getLsbD q 28 (by decide)
@[simp] theorem State.setQ_thumb (s : State) (q : Bool) : (s.setQ q).thumb = s.thumb := s.setQ_getLsbD q 5 (by decide)

@[simp] theorem State.setQ_flagQ (s : State) (q : Bool) : (s.setQ q).flagQ = (s.flagQ || q) := by
  cases q <;> simp [State.flagQ, State.setQ]

@[simp] theorem State.setQ_mode (s : State) (q : Bool) : (s.setQ q).mode = s.mode := by
  ext i hi
  have h := s.setQ_getLsbD q i (by omega)
  simpa [State.mode] using h

/-- Setting T changes no bit but bit 5. -/
theorem State.setThumb_getLsbD (s : State) (b : Bool) (i : Nat) (h : i ≠ 5) :
    (s.setThumb b).cpsr.getLsbD i = s.cpsr.getLsbD i := by
  rcases Nat.lt_or_ge i 32 with hi | hi
  · cases b <;> unfold State.setThumb <;> interval_cases i <;> simp_all
  · simp [BitVec.getLsbD_of_ge _ _ hi]

@[simp] theorem State.setThumb_thumb (s : State) (b : Bool) : (s.setThumb b).thumb = b := by
  cases b <;> simp [State.thumb, State.setThumb]

@[simp] theorem State.setThumb_mode (s : State) (b : Bool) : (s.setThumb b).mode = s.mode := by
  ext i hi
  have h := s.setThumb_getLsbD b i (by omega)
  simpa [State.mode] using h

/-- A state with the same CPSR has the same mode, bank, T bit and flags. -/
theorem State.mode_congr {s t : State} (h : t.cpsr = s.cpsr) : t.mode = s.mode := by simp [State.mode, h]

theorem State.thumb_congr {s t : State} (h : t.cpsr = s.cpsr) : t.thumb = s.thumb := by simp [State.thumb, h]

theorem State.bank_congr {s t : State} (h : t.mode = s.mode) : t.bank = s.bank := by simp [State.bank, h]

@[simp] theorem State.setNZCV_bank (s : State) (n z c v : Bool) : (s.setNZCV n z c v).bank = s.bank :=
  State.bank_congr (s.setNZCV_mode n z c v)

@[simp] theorem State.setQ_bank (s : State) (q : Bool) : (s.setQ q).bank = s.bank := State.bank_congr (s.setQ_mode q)

@[simp] theorem State.setThumb_bank (s : State) (b : Bool) : (s.setThumb b).bank = s.bank :=
  State.bank_congr (s.setThumb_mode b)

@[simp] theorem State.setReg_thumb (s : State) (r : Reg) (v : Word) : (s.setReg r v).thumb = s.thumb :=
  State.thumb_congr (by simp)

@[simp] theorem State.setReg_mode (s : State) (r : Reg) (v : Word) : (s.setReg r v).mode = s.mode :=
  State.mode_congr (by simp)

@[simp] theorem State.setReg_bank (s : State) (r : Reg) (v : Word) : (s.setReg r v).bank = s.bank :=
  State.bank_congr (by simp)

@[simp] theorem State.branchTo_thumb (s : State) (a : Word) : (s.branchTo a).thumb = s.thumb := rfl
@[simp] theorem State.branchTo_mode (s : State) (a : Word) : (s.branchTo a).mode = s.mode := rfl
@[simp] theorem State.branchTo_bank (s : State) (a : Word) : (s.branchTo a).bank = s.bank := rfl
@[simp] theorem State.moveOn_thumb (s : State) : s.moveOn.thumb = s.thumb := rfl
@[simp] theorem State.moveOn_mode (s : State) : s.moveOn.mode = s.mode := rfl
@[simp] theorem State.moveOn_bank (s : State) : s.moveOn.bank = s.bank := rfl
@[simp] theorem State.useFree_thumb (s : State) : s.useFree.thumb = s.thumb := rfl
@[simp] theorem State.useFree_mode (s : State) : s.useFree.mode = s.mode := rfl
@[simp] theorem State.useFree_bank (s : State) : s.useFree.bank = s.bank := rfl

/-- In one bank two names other than r15 select two registers (spec/10 R32). -/
theorem regIndex_injective (b : Bank) {r r' : Reg} (h : r ≠ regPc) (h' : r' ≠ regPc)
    (e : regIndex b r = regIndex b r') : r = r' := by
  revert r r'
  cases b <;> decide

/-- A register of a bank after a write to that bank (spec/10 R31, R32). -/
theorem State.regIn_setRegIn (s : State) (b : Bank) (r r' : Reg) (v : Word) :
    (s.setRegIn b r v).regIn b r' = if r' = r ∧ r ≠ regPc then v else s.regIn b r' := by
  by_cases h : r = regPc
  · simp [State.setRegIn, h]
  by_cases h' : r' = regPc
  · have e : r' ≠ r := fun x => h (x ▸ h')
    simp [State.regIn, State.setRegIn, State.pcOffset, State.codeThumb, State.halted, h, h', State.thumb, Ne.symm h]
  · by_cases e : r' = r
    · subst e
      simp [State.regIn, State.setRegIn, h]
    · have d : regIndex b r ≠ regIndex b r' := fun x => e (regIndex_injective b h h' x).symm
      have d' : (regIndex b r).val ≠ (regIndex b r').val := fun x => d (Fin.ext x)
      simp [State.regIn, State.setRegIn, h, h', e, d']

/-- A register after a write to a register (spec/10 R31, R32). -/
theorem State.reg_setReg (s : State) (r r' : Reg) (v : Word) :
    (s.setReg r v).reg r' = if r' = r ∧ r ≠ regPc then v else s.reg r' := by
  unfold State.reg
  rw [State.setReg_bank]
  exact s.regIn_setRegIn s.bank r r' v

/-- What r15 reads beyond the pc depends on the CPSR and the DSCR (spec/10 R36). -/
theorem State.pcOffset_congr {s t : State} (hc : t.cpsr = s.cpsr) (hd : t.dbg.dscr = s.dbg.dscr) :
    t.pcOffset = s.pcOffset := by
  simp [State.pcOffset, State.codeThumb, State.halted, State.thumb, hc, hd]

/-- Outside debug state r15 reads by the T bit (spec/10 R36). -/
theorem State.pcOffset_running {s : State} (h : s.halted = false) : s.pcOffset = if s.thumb then 4#32 else 8#32 := by
  simp [State.pcOffset, State.codeThumb, h]

/-- Registers are read from `regs`, the pc, the CPSR and the DSCR only. -/
theorem State.reg_congr {s t : State} (hr : t.regs = s.regs) (hp : t.pc = s.pc) (hc : t.cpsr = s.cpsr)
    (hd : t.dbg.dscr = s.dbg.dscr) (r : Reg) : t.reg r = s.reg r := by
  simp [State.reg, State.regIn, State.bank, State.mode, State.pcOffset_congr hc hd, hr, hp, hc]

/-- Registers other than r15 do not depend on the flags. -/
theorem State.reg_of_bank {s t : State} (hr : t.regs = s.regs) (hb : t.bank = s.bank) {r : Reg} (h : r ≠ regPc) :
    t.reg r = s.reg r := by
  simp [State.reg, State.regIn, h, hr, hb]

/-- Where the instruction can be completed, `advance` is `moveOn`. -/
theorem advance_of_canAdvance {s : State} (h : s.canAdvance = true) : advance s = .next s.moveOn := by
  unfold advance State.moveOn
  by_cases hh : s.halted = true
  · simp [hh]
  · have hp : s.pc ≠ (if s.thumb then 0xFFFFFFFE#32 else 0xFFFFFFFC#32) := by simpa [State.canAdvance, hh] using h
    rw [if_neg hh, if_neg hp, if_neg hh]

/-- `canAdvance` depends on the pc, the T bit and DSCR[0]. -/
theorem State.canAdvance_congr {s t : State} (hp : t.pc = s.pc) (ht : t.thumb = s.thumb) (hh : t.halted = s.halted) :
    t.canAdvance = s.canAdvance := by
  simp [State.canAdvance, hp, ht, hh]

/-- All that `advance` can do. -/
theorem advance_next {s t : State} (h : advance s = .next t) : t = s.moveOn := by
  unfold advance at h
  by_cases hh : s.halted = true
  · rw [if_pos hh] at h
    simp [State.moveOn, hh, (Host.Outcome.next.inj h).symm]
  · rw [if_neg hh] at h
    by_cases hp : s.pc = (if s.thumb then 0xFFFFFFFE#32 else 0xFFFFFFFC#32)
    · rw [if_pos hp] at h
      cases h
    · rw [if_neg hp] at h
      simp [State.moveOn, hh, (Host.Outcome.next.inj h).symm]

/-- All that a conditional instruction can do. -/
theorem whenCond_next {c : Cond} {s t : State} {k : Outcome State} (h : whenCond c s k = .next t) :
    (s.passes c = true ∧ k = .next t) ∨ (s.passes c = false ∧ advance s = .next t) := by
  unfold whenCond at h
  cases hp : s.passes c
  · exact .inr ⟨rfl, by simpa [hp] using h⟩
  · exact .inl ⟨rfl, by simpa [hp] using h⟩

@[simp] theorem whenCond_pass {c : Cond} {s : State} {k : Outcome State} (h : s.passes c = true) :
    whenCond c s k = k := by
  simp [whenCond, h]

/-- All that a check can do. -/
theorem require_next {ok : Bool} {r : Refusal} {k : Outcome State} {t : State} (h : require ok r k = .next t) :
    ok = true ∧ k = .next t := by
  unfold require at h
  cases ok
  · cases h
  · exact ⟨rfl, h⟩

@[simp] theorem require_true (r : Refusal) (k : Outcome State) : require true r k = k := rfl

/-- What `finish` answers. -/
theorem Res.finish_next {α : Type} {x : Res α} {k : α → State → Outcome State} {t : State} (h : x.finish k = .next t) :
    (∃ a s1, x = .ok a s1 ∧ k a s1 = .next t) ∨ (∃ i s1, x = .abort i s1 ∧ dataAbort i s1 = .next t) := by
  cases x with
  | ok a s1 => exact .inl ⟨a, s1, rfl, h⟩
  | abort i s1 => exact .inr ⟨i, s1, rfl, h⟩
  | refuse r => cases h

end Sys2Proof.Machine
end

