-- ==== Sys2Proof/Laws/Memory.lean ====
section
/-!
SUPPORT. Memory: every write keeps the canonical form, a read after a write gives the value written, and a write leaves
every other byte alone (spec/20 R200, R204).
-/
namespace Sys2Proof.Machine

namespace Memory

/-- The canonical form of a list with a first cell. -/
theorem wf_cons {a : Nat} {v : Byte} {rest : List Host.Cell} :
    wf ((a, v) :: rest) = true ↔
      a < 4294967296 ∧ v ≠ background ∧ (∀ c ∈ rest, a < c.1) ∧ wf rest = true := by
  simp [wf, and_assoc]

/-- An address below every listed one reads as the background. -/
theorem read_below : ∀ {m : List Host.Cell} {x : Nat}, (∀ c ∈ m, x < c.1) → read m x = background
  | [], _, _ => rfl
  | (a, v) :: rest, x, h => by
    have ha : a ≠ x := Nat.ne_of_gt (h (a, v) (by simp))
    have hr := read_below (m := rest) (x := x) fun c hc => h c (by simp [hc])
    simp [read, ha, hr]

/-- A write adds no address but its own. -/
theorem mem_write {m : List Host.Cell} {x : Nat} {v : Byte} {c : Host.Cell} (h : c ∈ write m x v) : c = (x, v) ∨ c ∈ m := by
  induction m with
  | nil =>
    unfold write at h
    split at h <;> simp_all
  | cons p rest ih =>
    unfold write at h
    split at h
    · split at h <;> simp_all
    · split at h
      · split at h
        · exact .inr (by simp [h])
        · rcases List.mem_cons.mp h with h | h <;> simp [h]
      · rcases List.mem_cons.mp h with h | h
        · exact .inr (by simp [h])
        · rcases ih h with h | h <;> simp [h]

/-- A write keeps the canonical form. -/
theorem write_wf {m : List Host.Cell} {x : Nat} {v : Byte} (h : wf m = true) (hx : x < 4294967296) :
    wf (write m x v) = true := by
  induction m with
  | nil =>
    unfold write
    split
    · rfl
    · rename_i hv
      exact wf_cons.mpr ⟨hx, hv, by simp, rfl⟩
  | cons p rest ih =>
    obtain ⟨a, w⟩ := p
    obtain ⟨ha, hw, hr, hrest⟩ := wf_cons.mp h
    unfold write
    split
    · rename_i hlt
      split
      · exact h
      · rename_i hv
        refine wf_cons.mpr ⟨hx, hv, ?_, h⟩
        intro c hc
        rcases List.mem_cons.mp hc with hc | hc
        · simpa [hc] using hlt
        · exact Nat.lt_trans hlt (hr c hc)
    · rename_i hlt
      split
      · rename_i he
        split
        · exact hrest
        · rename_i hv
          exact wf_cons.mpr ⟨hx, hv, he ▸ hr, hrest⟩
      · rename_i hne
        refine wf_cons.mpr ⟨ha, hw, ?_, ih hrest⟩
        intro c hc
        rcases mem_write hc with hc | hc
        · rw [hc]
          show a < x
          omega
        · exact hr c hc

/-- A read after a write. -/
theorem read_write {m : List Host.Cell} {x y : Nat} {v : Byte} (h : wf m = true) :
    read (write m x v) y = if y = x then v else read m y := by
  induction m with
  | nil =>
    unfold write
    by_cases hv : v = background
    · rw [if_pos hv, hv]
      simp [read]
    · rw [if_neg hv]
      simp [read, eq_comm (a := x)]
  | cons p rest ih =>
    obtain ⟨a, w⟩ := p
    obtain ⟨ha, hw, hr, hrest⟩ := wf_cons.mp h
    unfold write
    split
    · rename_i hlt
      have hb : read ((a, w) :: rest) x = background := read_below fun c hc => by
        rcases List.mem_cons.mp hc with hc | hc
        · simpa [hc] using hlt
        · exact Nat.lt_trans hlt (hr c hc)
      split
      · rename_i hv
        by_cases hy : y = x
        · rw [if_pos hy, hy, hb, hv]
        · rw [if_neg hy]
      · by_cases hy : y = x
        · simp [read, hy]
        · rw [if_neg hy]
          show (if x = y then v else read ((a, w) :: rest) y) = _
          rw [if_neg (Ne.symm hy)]
    · split
      · rename_i he
        subst he
        split
        · rename_i hv
          by_cases hy : y = x
          · subst hy
            rw [if_pos rfl, read_below hr, hv]
          · rw [if_neg hy]
            show read rest y = if x = y then w else read rest y
            rw [if_neg (Ne.symm hy)]
        · by_cases hy : y = x
          · simp [read, hy]
          · simp [read, hy, Ne.symm hy]
      · rename_i hne
        show (if a = y then w else read (write rest x v) y) = if y = x then v else if a = y then w else read rest y
        rw [ih hrest]
        by_cases hay : a = y
        · have : y ≠ x := fun e => hne (e ▸ hay.symm)
          simp [hay, this]
        · simp [hay]

/-- A write leaves every other address alone, in any list of cells. -/
theorem read_write_of_ne {m : List Host.Cell} {x y : Nat} {v : Byte} (hy : y ≠ x) : read (write m x v) y = read m y := by
  induction m with
  | nil =>
    unfold write
    split <;> simp [read, hy.symm]
  | cons p rest ih =>
    obtain ⟨a, w⟩ := p
    unfold write
    split
    · split
      · rfl
      · simp [read, hy.symm]
    · split
      · rename_i he
        subst he
        split <;> simp [read, hy.symm]
      · simp only [read, ih]

/-- Two memories in canonical form that read alike are equal data. -/
theorem ext_of_wf : ∀ {m n : List Host.Cell}, wf m = true → wf n = true → (∀ x, read m x = read n x) → m = n
  | [], [], _, _, _ => rfl
  | [], (a, v) :: n, _, hn, h => by
    have := h a
    simp [read] at this
    exact absurd this.symm (wf_cons.mp hn).2.1
  | (a, v) :: m, [], hm, _, h => by
    have := h a
    simp [read] at this
    exact absurd this (wf_cons.mp hm).2.1
  | (a, v) :: m, (b, w) :: n, hm, hn, h => by
    obtain ⟨_, hv, hr, hm'⟩ := wf_cons.mp hm
    obtain ⟨_, hw, hs, hn'⟩ := wf_cons.mp hn
    have hab : a = b := by
      rcases Nat.lt_trichotomy a b with hlt | heq | hgt
      · have e := h a
        rw [read_below (m := (b, w) :: n)] at e
        · simp [read] at e
          exact absurd e hv
        · intro c hc
          rcases List.mem_cons.mp hc with hc | hc
          · simpa [hc] using hlt
          · exact Nat.lt_trans hlt (hs c hc)
      · exact heq
      · have e := h b
        rw [read_below (m := (a, v) :: m)] at e
        · simp [read] at e
          exact absurd e.symm hw
        · intro c hc
          rcases List.mem_cons.mp hc with hc | hc
          · simpa [hc] using hgt
          · exact Nat.lt_trans hgt (hr c hc)
    subst hab
    have hvw : v = w := by simpa [read] using h a
    subst hvw
    have hrest : m = n := ext_of_wf hm' hn' fun x => by
      by_cases hx : a = x
      · subst hx
        rw [read_below hr, read_below hs]
      · simpa [read, hx] using h x
    rw [hrest]

end Memory

/-- The little-endian address of a transfer leaves room for its bytes below 2^32. -/
theorem laneAddr_room (big : Bool) (size : BusSize) (a : Word) (x : Nat) (h : x ∈ storedBytes big size a) :
    x < 4294967296 := by
  have two : ∀ w : Word, (w &&& 0xFFFFFFFE#32).toNat + 1 < 4294967296 := by
    intro w
    have : (w &&& 0xFFFFFFFE#32).toNat ≤ 0xFFFFFFFE := by
      simpa using Nat.and_le_right (n := w.toNat) (m := 0xFFFFFFFE)
    omega
  have twoX : ∀ w : Word, ((w &&& 0xFFFFFFFE#32) ^^^ 2#32).toNat + 1 < 4294967296 := by
    intro w
    have e : (w &&& 0xFFFFFFFE#32) ^^^ 2#32 = (w ^^^ 2#32) &&& 0xFFFFFFFE#32 := by
      ext i hi
      simp only [BitVec.getElem_xor, BitVec.getElem_and]
      interval_cases i <;> simp
    rw [e]
    exact two _
  have four : ∀ w : Word, (w &&& 0xFFFFFFFC#32).toNat + 3 < 4294967296 := by
    intro w
    have : (w &&& 0xFFFFFFFC#32).toNat ≤ 0xFFFFFFFC := by
      simpa using Nat.and_le_right (n := w.toNat) (m := 0xFFFFFFFC)
    omega
  have eight : ∀ w : Word, (w &&& 0xFFFFFFF8#32).toNat + 3 < 4294967296 := by
    intro w
    have : (w &&& 0xFFFFFFF8#32).toNat ≤ 0xFFFFFFF8 := by
      simpa using Nat.and_le_right (n := w.toNat) (m := 0xFFFFFFF8)
    omega
  cases size
  · cases big <;> simp [storedBytes] at h <;> subst h <;> exact BitVec.isLt _
  · have t := two a
    have u := twoX a
    cases big <;> simp [storedBytes, laneAddr, alignDown] at h <;> rcases h with h | h <;> simp at t u <;> omega
  · have t := four a
    cases big <;> simp [storedBytes, laneAddr, alignDown] at h <;> rcases h with h | h | h | h <;> simp at t <;> omega
  · have t := eight a
    cases big <;> simp [storedBytes, laneAddr, alignDown] at h <;> rcases h with h | h | h | h <;> simp at t <;> omega

/-- Reading an address that a transfer does not write. -/
theorem read_physWrite_of_not_mem {m : List Host.Cell} {big : Bool} {size : BusSize} {pa v : Word} {x : Nat}
    (hx : x ∉ storedBytes big size pa) : Memory.read (physWrite m big size pa v) x = Memory.read m x := by
  cases size <;> simp only [storedBytes, List.mem_cons, List.not_mem_nil, or_false, not_or] at hx <;> simp only [physWrite]
  · rw [Memory.read_write_of_ne hx]
  · rw [Memory.read_write_of_ne hx.2, Memory.read_write_of_ne hx.1]
  all_goals
    rw [Memory.read_write_of_ne hx.2.2.2, Memory.read_write_of_ne hx.2.2.1, Memory.read_write_of_ne hx.2.1,
      Memory.read_write_of_ne hx.1]

/-- A transfer keeps the canonical form. -/
theorem physWrite_wf {m : List Host.Cell} {big : Bool} {size : BusSize} {pa v : Word} (h : Memory.wf m = true) :
    Memory.wf (physWrite m big size pa v) = true := by
  have room := laneAddr_room big size pa
  cases size <;> simp only [storedBytes, List.mem_cons, List.not_mem_nil, or_false] at room <;> simp only [physWrite]
  · exact Memory.write_wf h (room _ rfl)
  · exact Memory.write_wf (Memory.write_wf h (room _ (.inl rfl))) (room _ (.inr rfl))
  · exact Memory.write_wf (Memory.write_wf (Memory.write_wf (Memory.write_wf h (room _ (.inl rfl)))
      (room _ (.inr (.inl rfl)))) (room _ (.inr (.inr (.inl rfl))))) (room _ (.inr (.inr (.inr rfl))))
  · exact Memory.write_wf (Memory.write_wf (Memory.write_wf (Memory.write_wf h (room _ (.inl rfl)))
      (room _ (.inr (.inl rfl)))) (room _ (.inr (.inr (.inl rfl))))) (room _ (.inr (.inr (.inr rfl))))

/-- Reading what a transfer of the same size wrote at the same address (spec/20 R204). -/
theorem physRead_physWrite {m : List Host.Cell} {big : Bool} {size : BusSize} {pa v : Word} (h : Memory.wf m = true) :
    physRead (physWrite m big size pa v) big size pa = carried size v := by
  have room := laneAddr_room big size pa
  cases size <;> simp only [storedBytes, List.mem_cons, List.not_mem_nil, or_false] at room <;>
    simp only [physWrite, physRead, carried]
  · rw [Memory.read_write h, if_pos rfl]
  · rw [Memory.read_write (Memory.write_wf h (room _ (.inl rfl))), if_pos rfl,
      Memory.read_write (Memory.write_wf h (room _ (.inl rfl))), if_neg (by omega), Memory.read_write h, if_pos rfl]
    congr 1
    exact BitVec.extractLsb'_append_extractLsb'_eq_extractLsb' (by decide)
  all_goals
    have w0 := Memory.write_wf (v := v.extractLsb' 0 8) h (room _ (.inl rfl))
    have w1 := Memory.write_wf (v := v.extractLsb' 8 8) w0 (room _ (.inr (.inl rfl)))
    have w2 := Memory.write_wf (v := v.extractLsb' 16 8) w1 (room _ (.inr (.inr (.inl rfl))))
    simp only [Memory.read_write w2, Memory.read_write w1, Memory.read_write w0, Memory.read_write h]
    simp
    rw [BitVec.extractLsb'_append_extractLsb'_eq_extractLsb' (by decide),
      BitVec.extractLsb'_append_extractLsb'_eq_extractLsb' (by decide),
      BitVec.extractLsb'_append_extractLsb'_eq_extractLsb' (by decide)]
    exact BitVec.extractLsb'_eq_self

/-- A transfer of at most a word is the transfer of its low word. -/
theorem physReadWide_low {m : List Host.Cell} {big : Bool} {size : BusSize} {pa : Word} (h : size ≠ .dword) :
    physReadWide m big size pa = (physRead m big size pa).zeroExtend 64 := by
  cases size <;> simp_all [physReadWide]

theorem physWriteWide_low {m : List Host.Cell} {big : Bool} {size : BusSize} {pa : Word} {v : BitVec 64} (h : size ≠ .dword) :
    physWriteWide m big size pa v = physWrite m big size pa (v.extractLsb' 0 32) := by
  cases size <;> simp_all [physWriteWide]

/-- A transfer of one to eight bytes keeps the canonical form. -/
theorem physWriteWide_wf {m : List Host.Cell} {big : Bool} {size : BusSize} {pa : Word} {v : BitVec 64}
    (h : Memory.wf m = true) : Memory.wf (physWriteWide m big size pa v) = true := by
  cases size <;> simp only [physWriteWide]
  case dword => exact physWrite_wf (physWrite_wf h)
  all_goals exact physWrite_wf h

/-- The low bits of the bits a transfer carries. -/
theorem carried_low {n w : Nat} (v : BitVec n) (k l : Nat) (h : k + l ≤ w) (h' : w ≤ n) :
    ((v.extractLsb' 0 w).zeroExtend n).extractLsb' k l = v.extractLsb' k l := by
  apply BitVec.eq_of_getLsbD_eq
  intro i hi
  have a : k + i < w := by omega
  have b : k + i < n := by omega
  simp [a, b, hi]

/-- A transfer stores only the bits it carries (spec/20 R203). -/
theorem physWrite_carried (m : List Host.Cell) (big : Bool) (size : BusSize) (pa v : Word) :
    physWrite m big size pa (carried size v) = physWrite m big size pa v := by
  cases size
  case byte => simp only [physWrite, carried, carried_low v 0 8 (w := 8) (by decide) (by decide)]
  case half =>
    simp only [physWrite, carried, carried_low v 0 8 (w := 16) (by decide) (by decide),
      carried_low v 8 8 (w := 16) (by decide) (by decide)]
  all_goals rfl

/-- A read brings only the bits its transfer carries (spec/20 R203). -/
theorem carried_physRead (m : List Host.Cell) (big : Bool) (size : BusSize) (pa : Word) :
    carried size (physRead m big size pa) = physRead m big size pa := by
  cases size
  case byte =>
    simp only [physRead, carried]
    generalize Memory.read m _ = b
    apply BitVec.eq_of_getLsbD_eq
    intro i hi
    simp
    grind
  case half =>
    simp only [physRead, carried]
    generalize (Memory.read m _ ++ Memory.read m _ : BitVec 16) = b
    apply BitVec.eq_of_getLsbD_eq
    intro i hi
    simp
    grind
  all_goals rfl

@[simp] theorem low_of_zeroExtend (v : Word) : (v.zeroExtend 64).extractLsb' 0 32 = v := by
  apply BitVec.eq_of_getLsbD_eq
  intro i hi
  simp [hi]
  omega

@[simp] theorem low_of_pair (v w : Word) : (w ++ v : BitVec 64).extractLsb' 0 32 = v := by
  apply BitVec.eq_of_getLsbD_eq
  intro i hi
  rw [BitVec.getLsbD_extractLsb']
  have := BitVec.getLsbD_append (x := w) (y := v) (i := 0 + i)
  simp_all

@[simp] theorem high_of_pair (v w : Word) : (w ++ v : BitVec 64).extractLsb' 32 32 = w := by
  apply BitVec.eq_of_getLsbD_eq
  intro i hi
  rw [BitVec.getLsbD_extractLsb']
  have := BitVec.getLsbD_append (x := w) (y := v) (i := 32 + i)
  simp_all

end Sys2Proof.Machine
end

