-- ==== Sys2Proof/Laws/Access.lean ====
section
/-!
SUPPORT. What an access to memory can change: the memory side of the machine only (`MemSide`), with memory kept in its
canonical form; and with the DCache off and nothing buffered a read leaves every byte of memory alone (`ReadSide`).
-/
namespace Sys2Proof.Machine

/-- `t` differs from `s` in the TLBs, the caches, the buffers, memory, the bus records, the free counter and a noted
watchpoint hit at most. -/
structure MemSide (s t : State) : Prop where
  regs : t.regs = s.regs
  pc : t.pc = s.pc
  cpsr : t.cpsr = s.cpsr
  spsr : t.spsr = s.spsr
  cp15 : t.cp15 = s.cp15
  prefetch : t.prefetch = s.prefetch
  memMap : t.memMap = s.memMap
  pm : t.pm = s.pm
  tap : t.tap = s.tap
  pins : t.pins = s.pins
  run : t.run = s.run
  cpHistory : t.cpHistory = s.cpHistory
  inputs : t.inputs = s.inputs
  dbg : { t.dbg with watch := none } = { s.dbg with watch := none }
  wf : Memory.wf s.mem = true → Memory.wf t.mem = true

theorem MemSide.refl (s : State) : MemSide s s :=
  ⟨rfl, rfl, rfl, rfl, rfl, rfl, rfl, rfl, rfl, rfl, rfl, rfl, rfl, rfl, id⟩

theorem MemSide.trans {s t u : State} (a : MemSide s t) (b : MemSide t u) : MemSide s u :=
  ⟨b.regs.trans a.regs, b.pc.trans a.pc, b.cpsr.trans a.cpsr, b.spsr.trans a.spsr, b.cp15.trans a.cp15,
   b.prefetch.trans a.prefetch, b.memMap.trans a.memMap, b.pm.trans a.pm, b.tap.trans a.tap, b.pins.trans a.pins,
   b.run.trans a.run, b.cpHistory.trans a.cpHistory, b.inputs.trans a.inputs, b.dbg.trans a.dbg, b.wf ∘ a.wf⟩

theorem MemSide.dscr {s t : State} (h : MemSide s t) : t.dbg.dscr = s.dbg.dscr := by
  have e := congrArg Debug.dscr h.dbg
  exact e

theorem MemSide.reg {s t : State} (h : MemSide s t) (r : Reg) : t.reg r = s.reg r :=
  State.reg_congr h.regs h.pc h.cpsr h.dscr r

theorem MemSide.pcOffset {s t : State} (h : MemSide s t) : t.pcOffset = s.pcOffset := State.pcOffset_congr h.cpsr h.dscr

theorem MemSide.thumb {s t : State} (h : MemSide s t) : t.thumb = s.thumb := State.thumb_congr h.cpsr

theorem MemSide.mode {s t : State} (h : MemSide s t) : t.mode = s.mode := State.mode_congr h.cpsr

theorem MemSide.bank {s t : State} (h : MemSide s t) : t.bank = s.bank := State.bank_congr h.mode

theorem MemSide.halted {s t : State} (h : MemSide s t) : t.halted = s.halted := by simp [State.halted, h.dscr]

theorem MemSide.canAdvance {s t : State} (h : MemSide s t) : t.canAdvance = s.canAdvance :=
  State.canAdvance_congr h.pc h.thumb h.halted

/-- A `MemSide` move that, with the DCache off and nothing buffered, leaves memory as it is and nothing buffered. -/
structure ReadSide (s t : State) : Prop extends MemSide s t where
  idle : s.uncached = true → t.mem = s.mem ∧ t.uncached = true

theorem ReadSide.refl (s : State) : ReadSide s s := ⟨MemSide.refl s, fun h => ⟨rfl, h⟩⟩

theorem ReadSide.trans {s t u : State} (a : ReadSide s t) (b : ReadSide t u) : ReadSide s u :=
  ⟨a.toMemSide.trans b.toMemSide, fun h => ⟨(b.idle (a.idle h).2).1.trans (a.idle h).1, (b.idle (a.idle h).2).2⟩⟩

/-- A property of every state an operation on memory can answer with. -/
def Res.All {α : Type} (P : State → Prop) : Res α → Prop
  | .ok _ s => P s
  | .abort _ s => P s
  | .refuse _ => True

theorem Res.All.bind {α β : Type} {P Q : State → Prop} {x : Res α} {k : α → State → Res β} (hx : x.All P)
    (hk : ∀ a s, P s → (k a s).All Q) (hPQ : ∀ s, P s → Q s) : (x.bind k).All Q := by
  cases x with
  | ok a s => exact hk a s hx
  | abort i s => exact hPQ s hx
  | refuse r => trivial

theorem Res.All.mono {α : Type} {P Q : State → Prop} {x : Res α} (hx : x.All P) (h : ∀ s, P s → Q s) : x.All Q := by
  cases x with
  | ok a s => exact h s hx
  | abort i s => exact h s hx
  | refuse r => trivial

theorem uncached_iff {s : State} :
    s.uncached = true ↔ s.cp15.ctl.getLsbD 2 = false ∧ s.wbuf = [] ∧ s.castout = none ∧ s.intruders = [] := by
  simp [State.uncached, State.dcacheOn, State.ctlBit, and_assoc]

/-- With nothing buffered, draining does nothing. -/
theorem drainAll_of_uncached {s : State} (h : s.uncached = true) : drainAll s = s := by
  obtain ⟨-, hw, hc, -⟩ := uncached_iff.mp h
  have e : ({ s with wbuf := [] } : State) = s := by rw [← hw]
  have c : drainThroughCastout s = s := by simp [drainThroughCastout, hc]
  simp only [drainAll, c, hw, List.foldl_nil, e]

theorem useFree_readSide (s : State) : ReadSide s s.useFree :=
  ⟨⟨rfl, rfl, rfl, rfl, rfl, rfl, rfl, rfl, rfl, rfl, rfl, rfl, rfl, rfl, id⟩, fun h => ⟨rfl, h⟩⟩

/-- A move of memory, the bus records and the writes of other masters alone. -/
theorem memSide_of_bus (s : State) {m : List Host.Cell} (b : List BusRecord) (i : List Intrusion)
    (h : Memory.wf s.mem = true → Memory.wf m = true) :
    MemSide s { s with mem := m, bus := b, intruders := i } :=
  { MemSide.refl s with wf := h }

theorem otherMasterWrite_memSide (pa : Word) (v : Byte) (s : State) : MemSide s (otherMasterWrite pa v s) := by
  unfold otherMasterWrite
  split
  · exact memSide_of_bus s s.bus s.intruders fun h => Memory.write_wf h pa.isLt
  · exact MemSide.refl s

/-- All that writes of other bus masters can change. -/
theorem intrude_memSide (l : List Intrusion) (s : State) : MemSide s (intrude l s) := by
  induction l generalizing s with
  | nil => exact MemSide.refl s
  | cons x rest ih =>
    unfold intrude
    split
    · exact (otherMasterWrite_memSide _ _ s).trans (ih _)
    · exact (memSide_of_bus s s.bus _ id).trans (ih _)

/-- All that a bus transaction can change: with no other master about to write, the bus records only. -/
theorem record_readSide (s : State) (r : BusRecord) : ReadSide s (s.record r) := by
  refine ⟨?_, fun h => ?_⟩
  · unfold State.record
    split
    · exact memSide_of_bus s _ s.intruders id
    · exact (memSide_of_bus s (r :: s.bus) [] id).trans (intrude_memSide _ _)
  · rw [State.record_quiet (uncached_iff.mp h).2.2.2]
    exact ⟨rfl, h⟩

theorem busRead_readSide (m : BusMaster) (size : BusSize) (pa : Word) (prot : BitVec 4) (locked : Bool) (s : State) :
    ReadSide s (busRead m size pa prot locked s).2 := by
  unfold busRead
  split
  · exact record_readSide s _
  · exact (record_readSide s _).trans (useFree_readSide _)
  · exact record_readSide s _

theorem busReadPair_readSide (m : BusMaster) (pa : Word) (prot : BitVec 4) (s : State) :
    ReadSide s (busReadPair m pa prot s).2.2 := by
  unfold busReadPair
  split
  · exact ((record_readSide s _).trans (useFree_readSide _)).trans (useFree_readSide _)
  · exact ((record_readSide s _).trans (useFree_readSide _)).trans (useFree_readSide _)
  · dsimp only
    exact record_readSide s _

/-- A fold of moves is a move. -/
theorem foldl_memSide {β : Type} (f : State → β → State) (hf : ∀ s b, MemSide s (f s b)) :
    ∀ (l : List β) (s : State), MemSide s (l.foldl f s)
  | [], s => MemSide.refl s
  | b :: l, s => (hf s b).trans (foldl_memSide f hf l (f s b))

/-- A fold of line beats is a move. -/
theorem foldl_fillBeat (m : BusMaster) (line : Word) (prot : BitVec 4) :
    ∀ (l : List (BitVec 2)) (acc : Vector Word 8 × State), ReadSide acc.2 (l.foldl (fillBeat m line prot) acc).2
  | [], acc => ReadSide.refl acc.2
  | k :: l, acc => by
    have h : ReadSide acc.2 (fillBeat m line prot acc k).2 := busReadPair_readSide m _ prot acc.2
    exact h.trans (foldl_fillBeat m line prot l (fillBeat m line prot acc k))

theorem readLine_readSide (m : BusMaster) (pa : Word) (prot : BitVec 4) (s : State) :
    ReadSide s (readLine m pa prot s).2 := by
  unfold readLine
  exact foldl_fillBeat m (pa &&& 0xFFFFFFE0#32) prot _ (Vector.replicate 8 0#32, s)

/-- A move of the buffers, the caches, the TLBs and the HUM alone. -/
theorem memSide_of_buffers (s : State) (i d : Tlb) (ic dc : Cache) (w : List WriteEntry) (c : Option Castout)
    (hm : Option (BitVec 27)) :
    MemSide s { s with itlb := i, dtlb := d, icache := ic, dcache := dc, wbuf := w, castout := c, hum := hm } :=
  ⟨rfl, rfl, rfl, rfl, rfl, rfl, rfl, rfl, rfl, rfl, rfl, rfl, rfl, rfl, id⟩

theorem busWrite_memSide (big : Bool) (size : BusSize) (pa : Word) (v : BitVec 64) (prot : BitVec 4) (locked : Bool)
    (burst : Burst) (s : State) : MemSide s (busWrite big size pa v prot locked burst s).2 := by
  unfold busWrite
  split
  · exact (record_readSide s _).toMemSide
  · exact (memSide_of_bus s s.bus s.intruders physWriteWide_wf).trans (record_readSide _ _).toMemSide
  · exact (record_readSide s _).toMemSide

theorem drainEntry_memSide (s : State) (e : WriteEntry) : MemSide s (drainEntry s e) := busWrite_memSide _ _ _ _ _ _ _ s

theorem castoutBeat_memSide (line : Word) (data : Vector Word 8) (s : State) (k : BitVec 2) :
    MemSide s (castoutBeat line data s k) := by
  unfold castoutBeat
  dsimp only
  split
  · exact (memSide_of_bus s s.bus s.intruders fun h => physWrite_wf (physWrite_wf h)).trans
      ((record_readSide _ _).trans (useFree_readSide _)).toMemSide
  · exact ((record_readSide s _).trans (useFree_readSide _)).toMemSide

theorem drainCastout_memSide (s : State) : MemSide s (drainCastout s) := by
  unfold drainCastout
  split
  · exact MemSide.refl s
  · exact (memSide_of_buffers s _ _ _ _ _ none _).trans (foldl_memSide _ (castoutBeat_memSide _ _) _ _)

/-- Entries of the write buffer drain. -/
theorem drainEntries_memSide (s : State) (w l : List WriteEntry) (c : Option Castout) :
    MemSide s (l.foldl drainEntry { s with wbuf := w, castout := c }) :=
  (memSide_of_buffers s s.itlb s.dtlb s.icache s.dcache w c s.hum).trans (foldl_memSide _ drainEntry_memSide _ _)

theorem drainThroughCastout_memSide (s : State) : MemSide s (drainThroughCastout s) := by
  unfold drainThroughCastout
  split
  · exact MemSide.refl s
  · exact (drainEntries_memSide s _ _ s.castout).trans (drainCastout_memSide _)

theorem drainAll_memSide (s : State) : MemSide s (drainAll s) :=
  (drainThroughCastout_memSide s).trans
    (drainEntries_memSide (drainThroughCastout s) [] _ (drainThroughCastout s).castout)

theorem drainAll_readSide (s : State) : ReadSide s (drainAll s) :=
  ⟨drainAll_memSide s, fun h => by rw [drainAll_of_uncached h]; exact ⟨rfl, h⟩⟩

theorem drainOne_memSide (s : State) : MemSide s (drainOne s) := by
  unfold drainOne
  split
  · exact drainCastout_memSide s
  · exact drainEntries_memSide s _ [_] s.castout
  · split
    · exact drainCastout_memSide s
    · exact drainEntries_memSide s _ [_] _

theorem drainEntryOut_memSide (s : State) : MemSide s (drainEntryOut s) := by
  unfold drainEntryOut
  split
  · split
    · exact (drainCastout_memSide s).trans (drainOne_memSide _)
    · exact drainOne_memSide s
  · exact drainOne_memSide s

theorem bufferWrite_memSide (e : WriteEntry) (s : State) : MemSide s (bufferWrite e s) :=
  (foldl_memSide _ (fun t _ => drainEntryOut_memSide t) _ s).trans (memSide_of_buffers _ _ _ _ _ _ _ _)

theorem castLine_memSide (l : CacheLine) (start : BitVec 2) (s : State) : MemSide s (castLine l start s) :=
  (drainThroughCastout_memSide s).trans (memSide_of_buffers _ _ _ _ _ _ _ _)

theorem castIfDirty_memSide (o : Option CacheLine) (start : BitVec 2) (s : State) : MemSide s (castIfDirty o start s) := by
  unfold castIfDirty
  split
  · split
    · exact castLine_memSide _ _ s
    · exact MemSide.refl s
  · exact MemSide.refl s

theorem drainIfGranted_readSide (s : State) : ReadSide s (drainIfGranted s) := by
  unfold drainIfGranted
  split
  · exact drainAll_readSide s
  · exact ReadSide.refl s

theorem setTlb_readSide (s : State) (side : Side) (t : Tlb) : ReadSide s (s.setTlb side t) := by
  cases side <;>
    exact ⟨⟨rfl, rfl, rfl, rfl, rfl, rfl, rfl, rfl, rfl, rfl, rfl, rfl, rfl, rfl, id⟩, fun h => ⟨rfl, h⟩⟩

theorem walkRead_readSide (side : Side) (pa : Word) (s : State) : ReadSide s (walkRead side pa s).2 := by
  have key : ∀ (u : State) (prot : BitVec 4), ReadSide u (match busRead side.master .word pa prot false u.useFree with
      | (some d, s1) => (some (d.extractLsb' 0 32), s1)
      | (none, s1) => (none, s1)).2 := by
    intro u prot
    have h := (useFree_readSide u).trans (busRead_readSide side.master .word pa prot false u.useFree)
    rcases hw : busRead side.master .word pa prot false u.useFree with ⟨o, s1⟩
    rw [hw] at h
    cases o <;> exact h
  cases side
  · exact key s _
  · exact (drainAll_readSide s).trans (key (drainAll s) _)

theorem usePermission_readSide (e : TlbEntry) (s : State) : ReadSide s (usePermission e s) := by
  unfold usePermission
  split
  · exact ReadSide.refl s
  · exact useFree_readSide s

theorem tableWalk_readSide (side : Side) (mva : Word) (s : State) : ReadSide s (tableWalk side mva s).2 := by
  unfold tableWalk
  dsimp only
  generalize hl : (s.cp15.ttbr.extractLsb' 14 18 ++ mva.extractLsb' 20 12 ++ 0#2 : Word) = l1
  have h1 := walkRead_readSide side l1 s
  rcases hw : walkRead side l1 s with ⟨o, s1⟩
  rw [hw] at h1
  cases o with
  | none => exact h1
  | some d =>
    dsimp only
    cases d.getLsbD 1 <;> cases d.getLsbD 0
    · exact h1
    · have h2 := walkRead_readSide side (d.extractLsb' 10 22 ++ mva.extractLsb' 12 8 ++ 0#2) s1
      rcases hw2 : walkRead side (d.extractLsb' 10 22 ++ mva.extractLsb' 12 8 ++ 0#2) s1 with ⟨o2, s2⟩
      rw [hw2] at h2
      cases o2 <;> exact h1.trans h2
    · exact h1
    · have h2 := walkRead_readSide side (d.extractLsb' 12 20 ++ mva.extractLsb' 10 10 ++ 0#2) s1
      rcases hw2 : walkRead side (d.extractLsb' 12 20 ++ mva.extractLsb' 10 10 ++ 0#2) s1 with ⟨o2, s2⟩
      rw [hw2] at h2
      cases o2 <;> exact h1.trans h2

theorem translate_readSide (side : Side) (mva : Word) (write priv : Bool) (s : State) :
    ReadSide s (translate side mva write priv s).2 := by
  unfold translate
  split
  · exact usePermission_readSide _ s
  · exact ReadSide.refl s
  · split
    · exact ReadSide.refl s
    · have h := tableWalk_readSide side mva s
      rcases hw : tableWalk side mva s with ⟨w, s1⟩
      rw [hw] at h
      cases w with
      | fault st d => exact h
      | entry e => exact h.trans (setTlb_readSide s1 side _)

theorem locate_readSide (va : Word) (write priv : Bool) (s : State) : (locate va write priv s).All (ReadSide s) := by
  unfold locate
  dsimp only
  split
  · exact ReadSide.refl s
  · have h := translate_readSide .data (relocate s.cp15.pid va) write priv s
    rcases hw : translate .data (relocate s.cp15.pid va) write priv s with ⟨x, s1⟩
    rw [hw] at h
    cases x with
    | ok pa c b => exact h
    | fault st d => exact h
    | ambiguous => trivial

theorem dataFill_memSide (mva pa : Word) (wb priv : Bool) (s : State) : MemSide s (dataFill mva pa wb priv s).2 := by
  have h := ((drainAll_readSide s).trans (readLine_readSide .dbiu pa (hprot true priv wb true) (drainAll s))).toMemSide
  unfold dataFill
  generalize readLine .dbiu pa (hprot true priv wb true) (drainAll s) = r at h ⊢
  have h2 := h.trans (castIfDirty_memSide (r.2.dcache.occupant mva) 0#2 r.2)
  dsimp only
  generalize castIfDirty (r.2.dcache.occupant mva) 0#2 r.2 = s1 at h2 ⊢
  exact h2.trans ⟨rfl, rfl, rfl, rfl, rfl, rfl, rfl, rfl, rfl, rfl, rfl, rfl, rfl, rfl, id⟩

theorem instrFill_readSide (mva pa : Word) (priv b : Bool) (s : State) : ReadSide s (instrFill mva pa priv b s).2 := by
  have h := readLine_readSide .ibiu pa (hprot false priv b true) s
  unfold instrFill
  generalize readLine .ibiu pa (hprot false priv b true) s = r at h ⊢
  dsimp only
  exact h.trans ⟨⟨rfl, rfl, rfl, rfl, rfl, rfl, rfl, rfl, rfl, rfl, rfl, rfl, rfl, rfl, id⟩, fun h => ⟨rfl, h⟩⟩

/-- A read of a located access. The region is not cachable where the DCache is off. -/
theorem readAt_readSide (loc : Located) (va : Word) (size : BusSize) (priv ext locked : Bool) (s : State)
    (hreg : s.uncached = true → loc.region = .ncnb) : (readAt loc va size priv ext locked s).All (ReadSide s) := by
  unfold readAt
  cases hc : loc.region.cachable
  · have h := (drainAll_readSide s).trans
      (busRead_readSide .dbiu size (alignDown size loc.pa) (hprot true priv loc.b loc.c) locked (drainAll s))
    rcases hw : busRead .dbiu size (alignDown size loc.pa) (hprot true priv loc.b loc.c) locked (drainAll s) with ⟨o, s1⟩
    rw [hw] at h
    cases o with
    | some v => simpa [hw, Res.All] using h
    | none =>
      cases ext
      · simpa [hw, Res.All] using (h.trans (useFree_readSide s1)).trans (useFree_readSide _)
      · simpa [hw, Res.All] using h
  · have no : s.uncached = true → False := fun h => by simp [hreg h, RegionType.cachable] at hc
    dsimp only
    split
    · exact ReadSide.refl s
    · exact ⟨dataFill_memSide _ _ _ _ s, fun h => (no h).elim⟩

theorem dataRegion_of_off {s : State} (h : s.dcacheOn = false) (c b : Bool) : dataRegion s c b = .ncnb := by
  simp [dataRegion, h]

/-- The region of a located access with the DCache off (spec/22 R325). -/
theorem locate_region {va : Word} {write priv : Bool} {s s1 : State} {loc : Located}
    (h : locate va write priv s = .ok loc s1) (hu : s.dcacheOn = false) : loc.region = .ncnb := by
  unfold locate at h
  dsimp only at h
  cases hm : s.mmuOn
  · rw [hm] at h
    injection h with h1 h2
    rw [← h1]
    exact dataRegion_of_off hu _ _
  · rw [hm] at h
    have hr := translate_readSide .data (relocate s.cp15.pid va) write priv s
    rcases hw : translate .data (relocate s.cp15.pid va) write priv s with ⟨x, s2⟩
    rw [hw] at hr h
    cases x with
    | ok pa c b =>
      injection h with h1 h2
      rw [← h1]
      have : s2.dcacheOn = false := by rw [← hu, State.dcacheOn, State.ctlBit, hr.cp15]; rfl
      exact dataRegion_of_off this _ _
    | fault st d => cases h
    | ambiguous => cases h

theorem noteWatch_readSide (va : Word) (size : BusSize) (load priv : Bool) (s : State) :
    ReadSide s (noteWatch va size load priv s) := by
  unfold noteWatch
  split
  · exact ⟨⟨rfl, rfl, rfl, rfl, rfl, rfl, rfl, rfl, rfl, rfl, rfl, rfl, rfl, rfl, id⟩, fun h => ⟨rfl, h⟩⟩
  · exact ReadSide.refl s

theorem noteAccess_readSide (va : Word) (size : BusSize) (load priv : Bool) (s : State) :
    ReadSide s (noteAccess va size load priv s) := by
  unfold noteAccess
  split
  · exact (noteWatch_readSide _ _ _ _ s).trans (noteWatch_readSide _ _ _ _ _)
  · exact noteWatch_readSide _ _ _ _ s

/-- All that a read can change (spec/20 R210). -/
theorem memReadWide_readSide (va : Word) (size : BusSize) (a : Access) (s : State) :
    (memReadWide va size a s).All (ReadSide s) := by
  unfold memReadWide
  split
  · exact ReadSide.refl s
  · have hl := locate_readSide va false a.priv s
    cases hw : locate va false a.priv s with
    | refuse r => trivial
    | abort i s1 =>
      rw [hw] at hl
      exact hl
    | ok loc s1 =>
      rw [hw] at hl
      have hr := readAt_readSide loc va size a.priv a.ext a.locked s1 fun h => by
        refine locate_region hw ?_
        have := (uncached_iff.mp h).1
        simpa [State.dcacheOn, State.ctlBit, ← hl.cp15] using this
      show ((readAt loc va size a.priv a.ext a.locked s1).bind fun v s2 =>
        Res.ok v (noteAccess va size true a.seenPriv s2)).All _
      exact Res.All.bind (P := ReadSide s) (hr.mono fun _ h => hl.trans h)
        (fun v s2 h => h.trans (noteAccess_readSide va size true a.seenPriv s2)) fun _ h => h

/-- All that a read of at most four bytes can change (spec/20 R210). -/
theorem memReadX_readSide (va : Word) (size : BusSize) (a : Access) (s : State) :
    (memReadX va size a s).All (ReadSide s) :=
  Res.All.bind (P := ReadSide s) (memReadWide_readSide va size a s) (fun _ _ h => h) fun _ h => h

theorem memRead_readSide (va : Word) (size : BusSize) (priv : Bool) (s : State) :
    (memRead va size priv s).All (ReadSide s) := memReadX_readSide va size _ s

/-- The DCache after a store. -/
theorem storeInCache_memSide (loc : Located) (size : BusSize) (v : BitVec 64) (dirty : Bool) (s : State) :
    MemSide s (storeInCache loc size v dirty s) := by
  unfold storeInCache
  split
  · exact MemSide.refl s
  · split
    · exact memSide_of_buffers s _ _ _ _ _ _ _
    · exact MemSide.refl s

theorem writeUnbuffered_memSide (loc : Located) (va : Word) (size : BusSize) (v : BitVec 64) (priv ext locked : Bool)
    (s : State) : (writeUnbuffered loc va size v priv ext locked s).All (MemSide s) := by
  unfold writeUnbuffered
  have h := (drainAll_memSide s).trans
    (busWrite_memSide s.big size (alignDown size loc.pa) v (hprot true priv loc.b loc.c) locked .single (drainAll s))
  rcases hw : busWrite s.big size (alignDown size loc.pa) v (hprot true priv loc.b loc.c) locked .single (drainAll s)
    with ⟨o, s1⟩
  rw [hw] at h
  cases o
  · cases ext
    · simpa [hw, Res.All] using h.trans (storeInCache_memSide loc size v false s1)
    · simpa [hw, Res.All] using h
  · simpa [hw, Res.All] using h.trans (storeInCache_memSide loc size v false s1)

theorem writeAt_memSide (loc : Located) (va : Word) (size : BusSize) (v : BitVec 64) (priv ext locked : Bool) (burst : Burst)
    (s : State) : (writeAt loc va size v priv ext locked burst s).All (MemSide s) := by
  unfold writeAt
  split
  · exact writeUnbuffered_memSide _ va size v priv ext true s
  · split
    · exact writeUnbuffered_memSide _ va size v priv ext false s
    · exact writeUnbuffered_memSide loc va size v priv ext false s
    · exact (storeInCache_memSide loc size v false s).trans (bufferWrite_memSide _ _)
    · exact (storeInCache_memSide loc size v false s).trans (bufferWrite_memSide _ _)
    · split
      · exact storeInCache_memSide loc size v true s
      · exact bufferWrite_memSide _ s

/-- All that a write can change (spec/20 R211). -/
theorem memWriteWide_memSide (va : Word) (size : BusSize) (v : BitVec 64) (a : Access) (burst : Burst) (s : State) :
    (memWriteWide va size v a burst s).All (MemSide s) := by
  unfold memWriteWide
  split
  · exact MemSide.refl s
  · exact Res.All.bind (P := MemSide s) ((locate_readSide va true a.priv s).mono fun _ h => h.toMemSide)
      (fun loc s1 h1 => Res.All.bind (P := MemSide s)
        ((writeAt_memSide loc va size v a.priv a.ext a.locked burst s1).mono fun _ h => h1.trans h)
        (fun _ s2 h2 => h2.trans (noteAccess_readSide va size false a.seenPriv s2).toMemSide) fun _ h => h) fun _ h => h

/-- All that a write of at most four bytes can change (spec/20 R211). -/
theorem memWriteX_memSide (va : Word) (size : BusSize) (v : Word) (a : Access) (s : State) :
    (memWriteX va size v a s).All (MemSide s) := memWriteWide_memSide va size _ a .single s

theorem memWrite_memSide (va : Word) (size : BusSize) (v : Word) (priv : Bool) (s : State) :
    (memWrite va size v priv s).All (MemSide s) := memWriteX_memSide va size v _ s

/-- All that a swap can change (spec/20 R224). -/
theorem memSwap_memSide (va : Word) (size : BusSize) (v : Word) (priv : Bool) (s : State) :
    (memSwap va size v priv s).All (MemSide s) :=
  Res.All.bind (P := MemSide s) ((memReadX_readSide va size _ s).mono fun _ h => h.toMemSide)
    (fun _ s1 h1 => Res.All.bind (P := MemSide s)
      ((memWriteX_memSide va size v _ s1).mono fun _ h => h1.trans h) (fun _ _ h2 => h2) fun _ h => h)
    fun _ h => h

/-- All that a run of reads can change, whether or not it aborts (spec/44 R650). -/
theorem readRun_readSide (m : Multiple) (n : Nat) (first : Bool) (va : Word) (s : State) :
    (readRun m n first va s).2.All (ReadSide s) := by
  fun_induction readRun m n first va s
  all_goals first
    | exact ReadSide.refl _
    | (rename_i h; have := h ▸ memReadWide_readSide _ _ _ _; exact this)
    | trivial
    | (rename_i h _ ih; have := h ▸ memReadWide_readSide _ _ _ _; exact ih.mono fun _ k => this.trans k)

/-- All that a multiple read can change (spec/44 R650). -/
theorem memReadMany_readSide (m : Multiple) (n : Nat) (va : Word) (s : State) : (memReadMany m n va s).All (ReadSide s) :=
  Res.All.bind (P := ReadSide s) (readRun_readSide m n true va s) (fun _ _ h => h) fun _ h => h

/-- All that a run of writes can change (spec/44 R654). -/
theorem writeRun_memSide (m : Multiple) (vs : List Word) (first : Bool) (va : Word) (s : State) :
    (writeRun m vs first va s).All (MemSide s) := by
  fun_induction writeRun m vs first va s
  case case1 => exact MemSide.refl _
  case case2 => exact memWriteWide_memSide _ _ _ _ _ _
  all_goals
    rename_i ih
    exact Res.All.bind (memWriteWide_memSide _ _ _ _ _ _) (fun _ u h => (ih u).mono fun _ k => h.trans k) fun _ h => h

/-- All that a multiple write can change (spec/44 R654). -/
theorem memWriteMany_memSide (m : Multiple) (vs : List Word) (va : Word) (s : State) :
    (memWriteMany m vs va s).All (MemSide s) := writeRun_memSide m vs true va s

/-- All that PLD can change (spec/22 R342). -/
theorem preload_readSide (va : Word) (priv : Bool) (s : State) : (preload va priv s).All (ReadSide s) := by
  unfold preload
  have hl := locate_readSide va false priv s
  cases hw : locate va false priv s with
  | refuse r => trivial
  | abort i s1 =>
    rw [hw] at hl
    exact hl
  | ok loc s1 =>
    rw [hw] at hl
    dsimp only
    cases hc : loc.region.cachable
    · exact hl
    · dsimp only
      split
      · exact hl
      · split
        · exact hl.trans ((drainAll_readSide s1).trans (readLine_readSide _ _ _ _))
        refine ⟨hl.toMemSide.trans (dataFill_memSide _ _ _ _ s1), fun h => ?_⟩
        have := locate_region hw (by simpa [State.dcacheOn, State.ctlBit] using (uncached_iff.mp h).1)
        simp [this, RegionType.cachable] at hc

theorem fetchRead_readSide (thumb : Bool) (pa : Word) (prot : BitVec 4) (s : State) :
    ReadSide s (fetchRead thumb pa prot s).2 := by
  unfold fetchRead
  dsimp only
  split
  · dsimp only
    exact record_readSide s _
  · exact (record_readSide s _).trans (useFree_readSide _)
  · dsimp only
    exact record_readSide s _

/-- All that a fetch can change (spec/20 R213). -/
theorem fetch_readSide (va : Word) (thumb priv : Bool) (s : State) (f : Fetched) (t : State)
    (h : fetch va thumb priv s = .got f t) : ReadSide s t := by
  have at' : ∀ (mva pa : Word) (c b : Bool) (u t : State), fetchAt mva pa c b thumb priv u = .got f t → ReadSide u t := by
    intro mva pa c b u t h
    unfold fetchAt at h
    cases hc : instrCachable u c
    · rw [hc] at h
      have hr := fetchRead_readSide thumb pa (hprot false priv (instrBufferable u b) false) u
      rcases hw : fetchRead thumb pa (hprot false priv (instrBufferable u b) false) u with ⟨o, s1⟩
      rw [hw] at hr
      simp only [hw] at h
      cases o <;> injection h with _ h2 <;> exact h2 ▸ hr
    · rw [hc] at h
      dsimp only at h
      split at h
      · injection h with _ h2
        exact h2 ▸ ReadSide.refl u
      · injection h with _ h2
        exact h2 ▸ instrFill_readSide _ _ _ _ u
  unfold fetch at h
  dsimp only at h
  cases hm : s.mmuOn
  · rw [hm] at h
    exact at' _ _ _ _ s t h
  · rw [hm] at h
    have hr := translate_readSide .instr (relocate s.cp15.pid va) false priv s
    rcases hw : translate .instr (relocate s.cp15.pid va) false priv s with ⟨x, s1⟩
    rw [hw] at hr
    simp only [hw] at h
    cases x with
    | ok pa c b => exact hr.trans (at' _ _ _ _ s1 t h)
    | fault st d =>
      injection h with _ h2
      exact h2 ▸ hr
    | ambiguous => cases h

end Sys2Proof.Machine
end

