-- ==== Sys2Proof/Laws/Buffers.lean ====
section
/-!
SUPPORT. Draining the write buffer and the castout buffer: what goes to the bus depends on the entry only, not on what else the two
buffers hold, so each drain is a transfer on the rest of the state (spec/22 R350, R352, R353).
-/
namespace Sys2Proof.Machine

/-- The same state with other contents of the two buffers. -/
def State.withBuffers (s : State) (w : List WriteEntry) (c : Option Castout) : State := { s with wbuf := w, castout := c }

section

variable (s : State) (w w' : List WriteEntry) (c c' : Option Castout)

@[simp] theorem State.withBuffers_wbuf : (s.withBuffers w c).wbuf = w := rfl
@[simp] theorem State.withBuffers_castout : (s.withBuffers w c).castout = c := rfl
@[simp] theorem State.withBuffers_mem : (s.withBuffers w c).mem = s.mem := rfl
@[simp] theorem State.withBuffers_memMap : (s.withBuffers w c).memMap = s.memMap := rfl
@[simp] theorem State.withBuffers_bus : (s.withBuffers w c).bus = s.bus := rfl
@[simp] theorem State.withBuffers_intruders : (s.withBuffers w c).intruders = s.intruders := rfl
@[simp] theorem State.withBuffers_self : s.withBuffers s.wbuf s.castout = s := rfl
@[simp] theorem State.withBuffers_withBuffers : (s.withBuffers w c).withBuffers w' c' = s.withBuffers w' c' := rfl

theorem otherMasterWrite_withBuffers (pa : Word) (v : Byte) :
    otherMasterWrite pa v (s.withBuffers w c) = (otherMasterWrite pa v s).withBuffers w c := by
  unfold otherMasterWrite
  cases h : kindAt s.memMap pa.toNat <;> simp [State.withBuffers, h]

theorem intrude_withBuffers (l : List Intrusion) : intrude l (s.withBuffers w c) = (intrude l s).withBuffers w c := by
  induction l generalizing s with
  | nil => rfl
  | cons i r ih =>
    unfold intrude
    split
    · rw [otherMasterWrite_withBuffers, ih]
    · exact ih { s with intruders := s.intruders ++ [{ i with after := i.after - 1 }] }

theorem record_withBuffers (r : BusRecord) : (s.withBuffers w c).record r = (s.record r).withBuffers w c := by
  unfold State.record
  split
  · rfl
  · exact intrude_withBuffers { s with bus := r :: s.bus, intruders := [] } w c s.intruders

/-- A recorded transaction that no other master's write follows (spec/23 R400). -/
theorem record_alone {s : State} (h : s.intruders = []) (r : BusRecord) : s.record r = { s with bus := r :: s.bus } := by
  unfold State.record
  split
  · rfl
  · rw [h]
    show ({ s with bus := r :: s.bus, intruders := [] } : State) = _
    rw [← h]

theorem drainEntry_withBuffers (e : WriteEntry) : drainEntry (s.withBuffers w c) e = (drainEntry s e).withBuffers w c := by
  unfold drainEntry busWrite
  cases h : kindAt s.memMap e.pa.toNat <;> simp only [State.withBuffers_memMap, h]
  · exact record_withBuffers { s with mem := physWriteWide s.mem e.big e.size e.pa e.data } w c _
  all_goals exact record_withBuffers s w c _

theorem castoutBeat_withBuffers (line : Word) (d : Vector Word 8) (k : BitVec 2) :
    castoutBeat line d (s.withBuffers w c) k = (castoutBeat line d s k).withBuffers w c := by
  have plain := fun r => congrArg State.useFree (record_withBuffers s w c r)
  have stored := fun (m : List Host.Cell) r => congrArg State.useFree (record_withBuffers { s with mem := m } w c r)
  unfold castoutBeat
  simp only [State.withBuffers_memMap]
  split
  · exact stored _ _
  · exact plain _

/-- A run of transfers each of which leaves the two buffers to themselves does so too. -/
theorem foldl_withBuffers {β : Type} (f : State → β → State)
    (hf : ∀ s b w c, f (s.withBuffers w c) b = (f s b).withBuffers w c) (l : List β) :
    l.foldl f (s.withBuffers w c) = (l.foldl f s).withBuffers w c := by
  induction l generalizing s with
  | nil => rfl
  | cons b l ih => rw [List.foldl_cons, hf, ih]; rfl

theorem drainEntries_withBuffers (l : List WriteEntry) :
    l.foldl drainEntry (s.withBuffers w c) = (l.foldl drainEntry s).withBuffers w c :=
  foldl_withBuffers s w c drainEntry (fun s e w c => drainEntry_withBuffers s w c e) l

/-- The four doublewords of a castout, the one it names first (spec/22 R353, spec/11 R112). -/
def castoutBeats (x : Castout) (s : State) : State :=
  [x.start, x.start + 1#2, x.start + 2#2, x.start + 3#2].foldl (castoutBeat (x.paTag ++ 0#5) x.data) s

theorem castoutBeats_withBuffers (x : Castout) :
    castoutBeats x (s.withBuffers w c) = (castoutBeats x s).withBuffers w c :=
  foldl_withBuffers s w c _ (fun s k w c => castoutBeat_withBuffers s w c _ _ k) _

end

variable {s : State}

theorem drainCastout_some {x : Castout} (h : s.castout = some x) :
    drainCastout s = (castoutBeats x s).withBuffers s.wbuf none := by
  unfold drainCastout
  rw [h]
  exact castoutBeats_withBuffers s s.wbuf none x

/-- One drain where the oldest is an entry of the write buffer: its transfer, and a castout has one less before it. -/
theorem drainOne_entry {e : WriteEntry} {rest : List WriteEntry} (h : s.wbuf = e :: rest)
    (hx : ∀ x, s.castout = some x → x.ahead ≠ 0) :
    drainOne s = (drainEntry s e).withBuffers rest (s.castout.map fun x => { x with ahead := x.ahead - 1 }) := by
  unfold drainOne
  rw [h]
  rcases hc : s.castout with _ | x
  · simp only [Option.map_none]
    rw [← drainEntry_withBuffers]
    congr 1
  · simp only
    rw [if_neg (hx x hc)]
    exact drainEntry_withBuffers ..

/-- One drain where the castout is the oldest: its four doublewords. -/
theorem drainOne_castout {x : Castout} (h : s.castout = some x) (hw : s.wbuf = [] ∨ x.ahead = 0) :
    drainOne s = (castoutBeats x s).withBuffers s.wbuf none := by
  rw [← drainCastout_some h]
  unfold drainOne
  rcases hb : s.wbuf with _ | ⟨e, r⟩
  · rfl
  · simp only [h]
    rw [if_pos (by simpa [hb] using hw)]

/-- The drain of the castout buffer: the older entries first, then the line; the younger entries stay (spec/22 R353). -/
theorem drainThroughCastout_some {x : Castout} (h : s.castout = some x) :
    drainThroughCastout s =
      (castoutBeats x ((s.wbuf.take x.ahead).foldl drainEntry s)).withBuffers (s.wbuf.drop x.ahead) none := by
  have e : drainThroughCastout s =
      drainCastout ((s.wbuf.take x.ahead).foldl drainEntry (s.withBuffers (s.wbuf.drop x.ahead) s.castout)) := by
    unfold drainThroughCastout
    split
    · simp_all
    · rename_i c hc
      rw [h] at hc
      cases hc
      rfl
  rw [e, drainEntries_withBuffers, h, drainCastout_some rfl, castoutBeats_withBuffers, State.withBuffers_withBuffers]
  rfl

end Sys2Proof.Machine
end

