-- ==== Sys2Proof/Laws/Caches.lean ====
section
/-!
SUPPORT. What an allocation makes of a cache (spec/22 R321, R330), and that a line read from plain memory touches the bus records
only (spec/23 R395).
-/
namespace Sys2Proof.Machine

/-- Where no line has a tag, none is found. -/
theorem findTag_none (tag : BitVec 23) : ∀ (l : List (Option CacheLine)) (i : Nat), findTag tag l i = none →
    ∀ (k : Nat) (x : CacheLine), l[k]? = some (some x) → x.tag ≠ tag
  | [], _, _, k, x, h => by simp at h
  | o :: r, i, h, k, x, hk => by
    unfold findTag at h
    cases k with
    | zero =>
      simp at hk
      subst hk
      intro e
      simp only at h
      rw [if_pos e] at h
      cases h
    | succ k =>
      refine findTag_none tag r (i + 1) ?_ k x (by simpa using hk)
      cases o with
      | none => exact h
      | some y =>
        simp only at h
        split at h
        · cases h
        · exact h

/-- The first line with a tag is found. -/
theorem findTag_at (tag : BitVec 23) : ∀ (l : List (Option CacheLine)) (i k : Nat) (x : CacheLine),
    (∀ j < k, ∀ y : CacheLine, l[j]? = some (some y) → y.tag ≠ tag) → l[k]? = some (some x) → x.tag = tag →
    findTag tag l i = some (i + k, x)
  | [], _, _, _, _, h, _ => by simp at h
  | o :: r, i, k, x, hb, hk, hx => by
    unfold findTag
    cases k with
    | zero =>
      simp at hk
      subst hk
      simp [hx]
    | succ k =>
      have := findTag_at tag r (i + 1) k x (fun j hj y hy => hb (j + 1) (by omega) y (by simpa using hy)) (by simpa using hk) hx
      cases o with
      | none =>
        simp only
        rw [this]
        congr 2
        omega
      | some y =>
        simp only
        rw [if_neg (hb 0 (by omega) y (by simp)), this]
        congr 2
        omega

/-- An allocation for an address that missed (spec/22 R330). -/
theorem allocate_filledWith {c : Cache} {rr : Bool} {f mva : Word} {l : CacheLine} (h : c.lookup mva = none)
    (ht : l.tag = tagOf mva) : c.filledWith (c.allocate rr f mva l) rr mva l := by
  refine ⟨?_, rfl, ?_, ?_, ?_, ?_⟩
  · unfold Cache.lookup at h ⊢
    split at h
    · cases h
    · rename_i hn
      rw [show findTag _ _ 0 = some (0 + (c.victim[(segOf mva).toNat]'(segOf mva).isLt).toNat, l) from ?_]
      · simp
      · apply findTag_at
        · intro j hj y hy
          apply findTag_none _ _ _ hn j y
          simp [Cache.allocate, Cache.seg, Cache.setLine] at hy ⊢
          rwa [Vector.getElem?_set_ne _ (by omega)] at hy
        · simp [Cache.allocate, Cache.seg, Cache.setLine]
        · exact ht
  · intro g k hgk
    have at' : ∀ {a b : Vector (Option CacheLine) 64}, a = b → a[k.toNat]'k.isLt = b[k.toNat]'k.isLt := fun e => e ▸ rfl
    simp only [Cache.allocate, Cache.line, Cache.seg, Cache.setLine]
    by_cases hg : g = segOf mva
    · subst hg
      have hk : k ≠ c.victim[(segOf mva).toNat]'(segOf mva).isLt := fun e => hgk ⟨rfl, e⟩
      refine (at' (Vector.getElem_set_self _)).trans ?_
      rw [Vector.getElem_set_ne]
      exact fun e => hk (BitVec.eq_of_toNat_eq e.symm)
    · exact at' (Vector.getElem_set_ne _ _ fun e => hg (BitVec.eq_of_toNat_eq e.symm))
  · intro g hg
    simp only [Cache.allocate]
    rw [Vector.getElem_set_ne]
    exact fun e => hg (BitVec.eq_of_toNat_eq e.symm)
  · intro hr
    simp [Cache.allocate, nextCacheVictim, nextVictim, hr]
  · intro hr
    simp only [Cache.allocate, nextCacheVictim, hr, Vector.getElem_set_self]
    have := c.base.isLt
    have := Nat.mod_lt f.toNat (show 64 - c.base.toNat > 0 by omega)
    simp
    rw [Nat.mod_eq_of_lt] <;> omega

theorem busReadPair_alone {m : BusMaster} {pa : Word} {prot : BitVec 4} {s : State} (hm : s.memMap = [])
    (h : s.intruders = []) : ∃ a b bus, busReadPair m pa prot s = (a, b, { s with bus := bus }) := by
  unfold busReadPair
  simp only [hm, kindAt, List.find?]
  rw [record_alone h, ← hm]
  exact ⟨_, _, _, rfl⟩

/-- A line read from plain memory: four transactions, and nothing else changes (spec/23 R395). -/
theorem readLine_alone {m : BusMaster} {pa : Word} {prot : BitVec 4} {s : State} (hm : s.memMap = [])
    (h : s.intruders = []) : ∃ v bus, readLine m pa prot s = (v, { s with bus := bus }) := by
  have run : ∀ (l : Word) (ks : List (BitVec 2)) (acc : Vector Word 8) (b : List BusRecord),
      ∃ v b', ks.foldl (fillBeat m l prot) (acc, { s with bus := b }) = (v, { s with bus := b' }) := by
    intro l ks
    induction ks with
    | nil => exact fun acc b => ⟨_, _, rfl⟩
    | cons k ks ih =>
      intro acc b
      obtain ⟨x, y, b', h'⟩ :=
        busReadPair_alone (m := m) (pa := l + (k.zeroExtend 32 <<< 3)) (prot := prot) (s := { s with bus := b }) hm h
      rw [List.foldl_cons]
      unfold fillBeat
      simp only [h']
      exact ih _ b'
  exact run _ _ _ s.bus

/-- An ICache linefill from plain memory (spec/22 R323, R330). -/
theorem instrFill_alone {mva pa : Word} {priv b : Bool} {s : State} (hm : s.memMap = []) (h : s.intruders = [])
    (hl : s.icache.lookup mva = none) :
    (instrFill mva pa priv b s).2 = { s with
      icache := (instrFill mva pa priv b s).2.icache
      bus := (instrFill mva pa priv b s).2.bus
      freeCount := s.freeCount + 1 } ∧
    s.icache.filledWith (instrFill mva pa priv b s).2.icache s.roundRobin mva (instrFill mva pa priv b s).1 := by
  unfold instrFill
  obtain ⟨v, bus, hv⟩ := readLine_alone (m := .ibiu) (pa := pa) (prot := hprot false priv b true) hm h
  simp only [hv]
  exact ⟨rfl, allocate_filledWith hl rfl⟩

end Sys2Proof.Machine
end

