-- ==== Sys2Proof/Laws/Encoding.lean ====
section
/-!
SUPPORT. Cutting a word and joining its pieces are inverse, and so are the fields the decoder reads and the encoder puts
(spec/30, spec/31).
-/
namespace Sys2Proof

@[simp] theorem Cond.ofBits_bits (c : Cond) : Cond.ofBits c.bits = some c := by cases c <;> rfl

theorem Cond.bits_of_ofBits {n : BitVec 4} {c : Cond} (h : Cond.ofBits n = some c) : c.bits = n := by
  revert n
  cases c <;> decide

@[simp] theorem Cond.ofBits_fifteen : Cond.ofBits 15#4 = none := rfl

theorem Cond.ofBits_none {n : BitVec 4} (h : Cond.ofBits n = none) : n = 15#4 := by
  revert n
  decide

@[simp] theorem Shift.ofBits_bits (sh : Shift) : Shift.ofBits sh.hiBit sh.loBit = sh := by cases sh <;> rfl

@[simp] theorem Shift.hiBit_ofBits (a b : Bool) : (Shift.ofBits a b).hiBit = a := by cases a <;> cases b <;> rfl

@[simp] theorem Shift.loBit_ofBits (a b : Bool) : (Shift.ofBits a b).loBit = b := by cases a <;> cases b <;> rfl

@[simp] theorem nib_getLsbD (x : BitVec 4) : nib (x.getLsbD 3) (x.getLsbD 2) (x.getLsbD 1) (x.getLsbD 0) = x := by
  revert x
  decide

@[simp] theorem tri_getLsbD (x : BitVec 3) : tri (x.getLsbD 2) (x.getLsbD 1) (x.getLsbD 0) = x := by
  revert x
  decide

theorem nib_bits (a b c d : Bool) :
    (nib a b c d).getLsbD 3 = a ∧ (nib a b c d).getLsbD 2 = b ∧ (nib a b c d).getLsbD 1 = c ∧ (nib a b c d).getLsbD 0 = d := by
  revert a b c d
  decide

theorem tri_bits (a b c : Bool) :
    (tri a b c).getLsbD 2 = a ∧ (tri a b c).getLsbD 1 = b ∧ (tri a b c).getLsbD 0 = c := by
  revert a b c
  decide

/-- The bits of eight nibbles joined. -/
theorem getLsbD_nibbles (a b c d e f g h : BitVec 4) (i : Nat) :
    (a ++ b ++ c ++ d ++ e ++ f ++ g ++ h).getLsbD i =
      if i < 4 then h.getLsbD i else if i < 8 then g.getLsbD (i - 4) else if i < 12 then f.getLsbD (i - 8)
      else if i < 16 then e.getLsbD (i - 12) else if i < 20 then d.getLsbD (i - 16) else if i < 24 then c.getLsbD (i - 20)
      else if i < 28 then b.getLsbD (i - 24) else a.getLsbD (i - 28) := by
  simp only [BitVec.getLsbD_append]
  repeat' split
  all_goals first | omega | rfl

/-- The bits of an ARM word. -/
theorem pack_getLsbD (f : Fields) (i : Nat) :
    (pack f).getLsbD i =
      if i < 4 then f.rm.getLsbD i else if i < 8 then (nib f.b7 f.b6 f.b5 f.b4).getLsbD (i - 4)
      else if i < 12 then f.rs.getLsbD (i - 8) else if i < 16 then f.rd.getLsbD (i - 12)
      else if i < 20 then f.rn.getLsbD (i - 16) else if i < 24 then (nib f.b23 f.b22 f.b21 f.b20).getLsbD (i - 20)
      else if i < 28 then (nib f.b27 f.b26 f.b25 f.b24).getLsbD (i - 24) else f.cond.getLsbD (i - 28) :=
  getLsbD_nibbles f.cond (nib f.b27 f.b26 f.b25 f.b24) (nib f.b23 f.b22 f.b21 f.b20) f.rn f.rd f.rs
    (nib f.b7 f.b6 f.b5 f.b4) f.rm i

/-- A nibble of an ARM word. -/
theorem extract_nibble {w : Word} {x : BitVec 4} {k : Nat} (h : ∀ i, i < 4 → w.getLsbD (k + i) = x.getLsbD i) :
    w.extractLsb' k 4 = x := by
  ext i hi
  have e := h i hi
  rw [BitVec.getLsbD_eq_getElem hi] at e
  simpa using e

/-- Cutting a joined word gives its pieces. -/
@[simp] theorem unpack_pack (f : Fields) : unpack (pack f) = f := by
  have n0 := nib_bits f.b7 f.b6 f.b5 f.b4
  have n1 := nib_bits f.b23 f.b22 f.b21 f.b20
  have n2 := nib_bits f.b27 f.b26 f.b25 f.b24
  have e0 : (pack f).extractLsb' 28 4 = f.cond := extract_nibble fun i hi => by
    rw [pack_getLsbD]; interval_cases i <;> rfl
  have e1 : (pack f).extractLsb' 16 4 = f.rn := extract_nibble fun i hi => by
    rw [pack_getLsbD]; interval_cases i <;> rfl
  have e2 : (pack f).extractLsb' 12 4 = f.rd := extract_nibble fun i hi => by
    rw [pack_getLsbD]; interval_cases i <;> rfl
  have e3 : (pack f).extractLsb' 8 4 = f.rs := extract_nibble fun i hi => by
    rw [pack_getLsbD]; interval_cases i <;> rfl
  have e4 : (pack f).extractLsb' 0 4 = f.rm := extract_nibble fun i hi => by
    rw [pack_getLsbD]; interval_cases i <;> rfl
  have g := pack_getLsbD f
  unfold unpack
  rw [e0, e1, e2, e3, e4, g 27, g 26, g 25, g 24, g 23, g 22, g 21, g 20, g 7, g 6, g 5, g 4]
  simp only [Nat.reduceLT, if_true, if_false, Nat.reduceSub, n0.1, n0.2.1, n0.2.2.1, n0.2.2.2, n1.1, n1.2.1, n1.2.2.1,
    n1.2.2.2, n2.1, n2.2.1, n2.2.2.1, n2.2.2.2]

/-- Joining the pieces of a word gives the word. -/
@[simp] theorem pack_unpack (w : Word) : pack (unpack w) = w := by
  apply BitVec.eq_of_getLsbD_eq
  intro i hi
  rw [pack_getLsbD]
  have n0 := nib_bits (unpack w).b7 (unpack w).b6 (unpack w).b5 (unpack w).b4
  have n1 := nib_bits (unpack w).b23 (unpack w).b22 (unpack w).b21 (unpack w).b20
  have n2 := nib_bits (unpack w).b27 (unpack w).b26 (unpack w).b25 (unpack w).b24
  obtain ⟨n03, n02, n01, n00⟩ := n0
  obtain ⟨n13, n12, n11, n10⟩ := n1
  obtain ⟨n23, n22, n21, n20⟩ := n2
  interval_cases i <;>
    simp only [Nat.reduceLT, if_true, if_false, Nat.reduceSub, n03, n02, n01, n00, n13, n12, n11, n10, n23, n22, n21, n20] <;>
    simp [unpack]

/-- Two parts of a value joined. -/
theorem join_parts {n : Nat} (m k : Nat) (x : BitVec n) (h : n = m + k) :
    (x.extractLsb' k m ++ x.extractLsb' 0 k) = x.cast h := by
  subst h
  rw [BitVec.extractLsb'_append_extractLsb'_eq_extractLsb' (by omega)]
  simp

theorem join8 (x : BitVec 8) :
    nib (x.getLsbD 7) (x.getLsbD 6) (x.getLsbD 5) (x.getLsbD 4) ++ x.extractLsb' 0 4 = x := by
  revert x
  decide

theorem join8' (x : BitVec 8) :
    nib (x.getLsbD 7) (x.getLsbD 6) (x.getLsbD 5) (x.getLsbD 4)
      ++ nib (x.getLsbD 3) (x.getLsbD 2) (x.getLsbD 1) (x.getLsbD 0) = x := by
  revert x
  decide

theorem join5 (x : BitVec 5) :
    BitVec.ofBool (x.getLsbD 4) ++ nib (x.getLsbD 3) (x.getLsbD 2) (x.getLsbD 1) (x.getLsbD 0) = x := by
  revert x
  decide

theorem join7 (x : BitVec 7) :
    tri (x.getLsbD 6) (x.getLsbD 5) (x.getLsbD 4) ++ nib (x.getLsbD 3) (x.getLsbD 2) (x.getLsbD 1) (x.getLsbD 0) = x := by
  revert x
  decide

theorem joinAmount (x : BitVec 5) : x.extractLsb' 1 4 ++ BitVec.ofBool (x.getLsbD 0) = x := by
  revert x
  decide

namespace Fields

@[simp] theorem low8_setLow8 (f : Fields) (x : BitVec 8) : (f.setLow8 x).low8 = x := join8 x

@[simp] theorem low12_setLow12 (f : Fields) (x : BitVec 12) : (f.setLow12 x).low12 = x := by
  show x.extractLsb' 8 4 ++ (f.setLow8 (x.extractLsb' 0 8)).low8 = x
  rw [low8_setLow8]
  exact join_parts 4 8 x rfl

@[simp] theorem low16_setLow16 (f : Fields) (x : BitVec 16) : (f.setLow16 x).low16 = x := by
  show x.extractLsb' 12 4 ++ (f.setLow12 (x.extractLsb' 0 12)).low12 = x
  rw [low12_setLow12]
  exact join_parts 4 12 x rfl

@[simp] theorem low20_setLow20 (f : Fields) (x : BitVec 20) : (f.setLow20 x).low20 = x := by
  show x.extractLsb' 16 4 ++ (f.setLow16 (x.extractLsb' 0 16)).low16 = x
  rw [low16_setLow16]
  exact join_parts 4 16 x rfl

@[simp] theorem low24_setLow24 (f : Fields) (x : BitVec 24) : (f.setLow24 x).low24 = x := by
  have h : nib (x.getLsbD 23) (x.getLsbD 22) (x.getLsbD 21) (x.getLsbD 20) = x.extractLsb' 20 4 := by
    rw [← nib_getLsbD (x.extractLsb' 20 4)]
    simp
  show nib (x.getLsbD 23) (x.getLsbD 22) (x.getLsbD 21) (x.getLsbD 20) ++ (f.setLow20 (x.extractLsb' 0 20)).low20 = x
  rw [low20_setLow20, h]
  exact join_parts 4 20 x rfl

@[simp] theorem low15_setLow15 (f : Fields) (b : Bool) (x : BitVec 15) : (f.setLow15 b x).low15 = x := by
  have h : (BitVec.ofBool b ++ x.extractLsb' 12 3 : BitVec 4).extractLsb' 0 3 = x.extractLsb' 12 3 := by
    generalize x.extractLsb' 12 3 = y
    revert b y
    decide
  show (BitVec.ofBool b ++ x.extractLsb' 12 3 : BitVec 4).extractLsb' 0 3 ++ (f.setLow12 (x.extractLsb' 0 12)).low12 = x
  rw [low12_setLow12, h]
  exact join_parts 3 12 x rfl

@[simp] theorem setLow15_top (f : Fields) (b : Bool) (x : BitVec 15) : (f.setLow15 b x).rd.getLsbD 3 = b := by
  show (BitVec.ofBool b ++ x.extractLsb' 12 3 : BitVec 4).getLsbD 3 = b
  generalize x.extractLsb' 12 3 = y
  revert b y
  decide

@[simp] theorem op2_setOp2 (f : Fields) (op : Op2) : (f.setOp2 op).op2 = op := by
  cases op with
  | imm rot i => exact congrArg (Op2.imm rot) (join8 i)
  | shiftImm n sh rm =>
    show Op2.shiftImm (n.extractLsb' 1 4 ++ BitVec.ofBool (n.getLsbD 0)) (Shift.ofBits sh.hiBit sh.loBit) rm = _
    rw [joinAmount, Shift.ofBits_bits]
  | shiftReg rs sh rm => exact congrArg (Op2.shiftReg rs · rm) (Shift.ofBits_bits sh)

@[simp] theorem off2_setOff2 (f : Fields) (off : Off2) : (f.setOff2 off).off2 = off := by
  cases off with
  | imm o => exact congrArg Off2.imm (low12_setLow12 f o)
  | reg n sh rm =>
    show Off2.reg (n.extractLsb' 1 4 ++ BitVec.ofBool (n.getLsbD 0)) (Shift.ofBits sh.hiBit sh.loBit) rm = _
    rw [joinAmount, Shift.ofBits_bits]

@[simp] theorem off3_setOff3 (f : Fields) (off : Off3) : (f.setOff3 off).off3 = off := by
  cases off with
  | imm o => exact congrArg Off3.imm (join_parts 4 4 o rfl)
  | reg z rm => rfl

@[simp] theorem cpMem_setCpMem (f : Fields) (x : CpMem) : (f.setCpMem x).cpMem = x := by
  show CpMem.mk x.p x.u x.n x.w x.rn x.crd x.cp ((f.setLow8 x.offset).low8) = x
  rw [low8_setLow8]

@[simp] theorem cpOp_setCpOp (f : Fields) (x : CpOp) : (f.setCpOp x).cpOp = x := by
  show CpOp.mk (nib (x.op1.getLsbD 3) (x.op1.getLsbD 2) (x.op1.getLsbD 1) (x.op1.getLsbD 0)) x.crn x.crd x.cp
    (tri (x.op2.getLsbD 2) (x.op2.getLsbD 1) (x.op2.getLsbD 0)) x.crm = x
  rw [nib_getLsbD, tri_getLsbD]

@[simp] theorem cpReg_setCpReg (f : Fields) (l : Bool) (x : CpReg) : (f.setCpReg l x).cpReg = x := by
  show CpReg.mk (tri (x.op1.getLsbD 2) (x.op1.getLsbD 1) (x.op1.getLsbD 0)) x.crn x.rd x.cp
    (tri (x.op2.getLsbD 2) (x.op2.getLsbD 1) (x.op2.getLsbD 0)) x.crm = x
  rw [tri_getLsbD, tri_getLsbD]

end Fields

namespace Bits16

@[simp] theorem r0_setR0 (t : Bits16) (r : LoReg) : (t.setR0 r).r0 = r := tri_getLsbD r
@[simp] theorem r3_setR3 (t : Bits16) (r : LoReg) : (t.setR3 r).r3 = r := tri_getLsbD r
@[simp] theorem r6_setR6 (t : Bits16) (r : LoReg) : (t.setR6 r).r6 = r := tri_getLsbD r
@[simp] theorem r8_setR8 (t : Bits16) (r : LoReg) : (t.setR8 r).r8 = r := tri_getLsbD r
@[simp] theorem imm8_setImm8 (t : Bits16) (x : BitVec 8) : (t.setImm8 x).imm8 = x := join8' x
@[simp] theorem imm5_setImm5 (t : Bits16) (x : BitVec 5) : (t.setImm5 x).imm5 = x := join5 x
@[simp] theorem imm7_setImm7 (t : Bits16) (x : BitVec 7) : (t.setImm7 x).imm7 = x := join7 x
@[simp] theorem hi0_setHi0 (t : Bits16) (r : Reg) : (t.setHi0 r).hi0 = r := nib_getLsbD r
@[simp] theorem hi3_setHi3 (t : Bits16) (r : Reg) : (t.setHi3 r).hi3 = r := nib_getLsbD r

@[simp] theorem imm11_setImm11 (t : Bits16) (x : BitVec 11) : (t.setImm11 x).imm11 = x := by
  have a := tri_getLsbD (x.extractLsb' 8 3)
  have b := join8' (x.extractLsb' 0 8)
  simp only [BitVec.getLsbD_extractLsb'] at a b
  refine Eq.trans ?_ (join_parts 3 8 x rfl)
  exact congr (congrArg _ a) b

@[simp] theorem imm10_setImm10 (t : Bits16) (x : BitVec 10) : (t.setImm10 x).imm10 = x := by
  have a := tri_getLsbD (x.extractLsb' 7 3)
  have b := tri_getLsbD (x.extractLsb' 4 3)
  have c := nib_getLsbD (x.extractLsb' 0 4)
  simp only [BitVec.getLsbD_extractLsb'] at a b c
  have h : x.extractLsb' 7 3 ++ x.extractLsb' 4 3 = x.extractLsb' 4 6 :=
    BitVec.extractLsb'_append_extractLsb'_eq_extractLsb' (by decide)
  refine Eq.trans ?_ (join_parts 6 4 x rfl)
  rw [← h]
  exact congr (congrArg _ (congr (congrArg _ a) b)) c

end Bits16

/-- Cutting a joined halfword gives its bits. -/
@[simp] theorem unpack16_pack16 (t : Bits16) : unpack16 (pack16 t) = t := by
  have g : ∀ i, (pack16 t).getLsbD i = if i < 4 then (nib t.b3 t.b2 t.b1 t.b0).getLsbD i
      else if i < 8 then (nib t.b7 t.b6 t.b5 t.b4).getLsbD (i - 4)
      else if i < 12 then (nib t.b11 t.b10 t.b9 t.b8).getLsbD (i - 8)
      else (nib t.b15 t.b14 t.b13 t.b12).getLsbD (i - 12) := fun i => by
    have k : ∀ a b c d : BitVec 4, (a ++ b ++ c ++ d).getLsbD i = if i < 4 then d.getLsbD i else if i < 8 then
        c.getLsbD (i - 4) else if i < 12 then b.getLsbD (i - 8) else a.getLsbD (i - 12) := fun a b c d => by
      simp only [BitVec.getLsbD_append]
      repeat' split
      all_goals first | omega | rfl
    exact k _ _ _ _
  obtain ⟨a3, a2, a1, a0⟩ := nib_bits t.b15 t.b14 t.b13 t.b12
  obtain ⟨b3, b2, b1, b0⟩ := nib_bits t.b11 t.b10 t.b9 t.b8
  obtain ⟨c3, c2, c1, c0⟩ := nib_bits t.b7 t.b6 t.b5 t.b4
  obtain ⟨d3, d2, d1, d0⟩ := nib_bits t.b3 t.b2 t.b1 t.b0
  unfold unpack16
  rw [g 15, g 14, g 13, g 12, g 11, g 10, g 9, g 8, g 7, g 6, g 5, g 4, g 3, g 2, g 1, g 0]
  simp only [Nat.reduceLT, if_true, if_false, Nat.reduceSub, a3, a2, a1, a0, b3, b2, b1, b0, c3, c2, c1, c0, d3, d2, d1, d0]

end Sys2Proof
end

