-- ==== Sys2Proof/Laws/Exact.lean ====
section
/-!
SUPPORT. What `ready` and `runs` say, which updates leave `canAdvance` alone, and the ALU's additions and subtractions as
exact integer arithmetic that is narrowed (spec/40 R501).
-/
namespace Sys2Proof.Machine

theorem runs_iff {s : State} {i : Instr} :
    s.runs i = true ↔ s.condHolds i = true ∧ i.regular = true ∧ operandsAllowed i = true := by
  simp [State.runs, and_assoc]

theorem ready_iff {s : State} {i : Instr} :
    s.ready i = true ↔ s.condHolds i = true ∧ i.regular = true ∧ operandsAllowed i = true ∧ s.canAdvance = true := by
  simp [State.ready, State.runs, and_assoc]

@[simp] theorem State.canAdvance_setNZCV (s : State) (n z c v : Bool) : (s.setNZCV n z c v).canAdvance = s.canAdvance :=
  State.canAdvance_congr (by simp) (by simp) (by simp [State.halted])

@[simp] theorem State.canAdvance_setQ (s : State) (q : Bool) : (s.setQ q).canAdvance = s.canAdvance :=
  State.canAdvance_congr (by simp) (by simp) (by simp [State.halted])

@[simp] theorem State.canAdvance_setReg (s : State) (r : Reg) (v : Word) : (s.setReg r v).canAdvance = s.canAdvance :=
  State.canAdvance_congr (by simp) (by simp) (by simp [State.halted])

@[simp] theorem State.canAdvance_useFree (s : State) : s.useFree.canAdvance = s.canAdvance := rfl

@[simp] theorem State.canAdvance_write (s : State) (f : Bool) (rd : Reg) (v : Word) (c o : Bool) :
    (s.write f rd v c o).canAdvance = s.canAdvance := by
  cases f <;> simp [State.write]

/-- Narrowing changes an integer exactly when it lies outside the signed range (spec/40 R501). -/
theorem narrowed_iff (x : Int) : ((BitVec.ofInt 32 x).toInt != x) = outside32 x := by
  rw [BitVec.toInt_ofInt, outside32, Bool.eq_iff_iff]
  simp [Int.bmod_def]
  omega

theorem ofInt_sum (a b : Word) (k : Nat) : BitVec.ofInt 32 (a.toInt + b.toInt + k) = a + b + BitVec.ofNat 32 k := by
  simp [BitVec.ofInt_add]

theorem ofInt_difference (a b : Word) (k : Nat) :
    BitVec.ofInt 32 (a.toInt - b.toInt - k) = a - b - BitVec.ofNat 32 k := by
  simp [Int.sub_eq_add_neg, BitVec.ofInt_add, BitVec.ofInt_neg, BitVec.sub_eq_add_neg]

/-- An addition as exact arithmetic. -/
theorem addAlu_exact (a b : Word) (k : Bool) :
    addAlu a b k = ⟨BitVec.ofInt 32 (a.toInt + b.toInt + k.toNat), decide (4294967296 ≤ a.toNat + b.toNat + k.toNat),
      (BitVec.ofInt 32 (a.toInt + b.toInt + k.toNat)).toInt != a.toInt + b.toInt + k.toNat⟩ := by
  rw [narrowed_iff, ofInt_sum]
  simp only [addAlu, Alu.mk.injEq, true_and, and_true, decide_eq_decide]
  omega

/-- A subtraction as exact arithmetic. -/
theorem subAlu_exact (a b : Word) (k : Bool) :
    subAlu a b k = ⟨BitVec.ofInt 32 (a.toInt - b.toInt - k.toNat), decide (b.toNat + k.toNat ≤ a.toNat),
      (BitVec.ofInt 32 (a.toInt - b.toInt - k.toNat)).toInt != a.toInt - b.toInt - k.toNat⟩ := by
  rw [narrowed_iff, ofInt_difference]
  simp only [subAlu, Alu.mk.injEq, true_and, and_true]
  rw [← decide_not, decide_eq_decide]
  omega

/-- The flags a result writes are those of `write`. -/
theorem writeResult_write {s : State} (f : Bool) (rd : Reg) (a : Alu) (hrd : rd ≠ regPc) (h : s.canAdvance = true) :
    writeResult f rd a s = .next (s.write f rd a.result a.c a.v).moveOn := by
  rw [writeResult, if_neg hrd]
  refine (advance_of_canAdvance ?_).trans ?_
  · cases f <;> simp [State.setAlu, h]
  · cases f <;> simp [State.setAlu, State.write, BitVec.msb_eq_getLsbD_last]

end Sys2Proof.Machine
end

