-- ==== Sys2Proof/Laws/Sound.lean ====
section
/-!
SUPPORT. Every shared operation keeps a sound state sound (`State.sound`: canonical memory, a legal mode, reserved bits of
the status registers zero, an even pc), and what each of them answers.
-/
namespace Sys2Proof.Machine

theorem sound_iff {s : State} :
    s.sound = true ↔ Memory.wf s.mem = true ∧ legalMode s.mode = true ∧ reservedClear s.cpsr = true
      ∧ (∀ i (h : i < 5), reservedClear s.spsr[i] = true) ∧ s.pc.getLsbD 0 = false := by
  have e : s.spsr.toList.all reservedClear = true ↔ ∀ i (h : i < 5), reservedClear s.spsr[i] = true := by
    rw [List.all_eq_true]
    constructor
    · intro h i hi
      exact h _ (Vector.mem_toList_iff.mpr (Vector.getElem_mem hi))
    · intro h x hx
      obtain ⟨i, hi, rfl⟩ := Vector.mem_iff_getElem.mp (Vector.mem_toList_iff.mp hx)
      exact h i hi
  unfold State.sound
  simp only [Bool.and_eq_true, Bool.not_eq_true', e, and_assoc]

/-- The reserved bits are clear when no bit of [26:8] is set. -/
theorem reservedClear_iff {w : Word} : reservedClear w = true ↔ ∀ i, 8 ≤ i → i ≤ 26 → w.getLsbD i = false := by
  unfold reservedClear
  rw [beq_iff_eq]
  constructor
  · intro h i h1 h2
    have e := congrArg (fun x : Word => x.getLsbD i) h
    simp only [BitVec.getLsbD_and] at e
    interval_cases i <;> simpa using e
  · intro h
    apply BitVec.eq_of_getLsbD_eq
    intro i hi
    simp only [BitVec.getLsbD_and]
    interval_cases i <;> first
      | (rw [h _ (by decide) (by decide)]; rfl)
      | simp

/-- Two words with the same bits [26:8]. -/
theorem reservedClear_congr {v w : Word} (h : ∀ i, 8 ≤ i → i ≤ 26 → v.getLsbD i = w.getLsbD i)
    (hw : reservedClear w = true) : reservedClear v = true :=
  reservedClear_iff.mpr fun i h1 h2 => (h i h1 h2).trans (reservedClear_iff.mp hw i h1 h2)

/-- An update of nothing that soundness reads. -/
theorem sound_congr {s t : State} (hm : t.mem = s.mem) (hc : t.cpsr = s.cpsr) (hs : t.spsr = s.spsr) (hp : t.pc = s.pc)
    (h : s.sound = true) : t.sound = true := by
  obtain ⟨a, b, c, d, e⟩ := sound_iff.mp h
  exact sound_iff.mpr ⟨by rw [hm]; exact a, by rw [State.mode_congr hc]; exact b, by rw [hc]; exact c,
    by rw [hs]; exact d, by rw [hp]; exact e⟩

theorem MemSide.sound {s t : State} (hst : MemSide s t) (h : s.sound = true) : t.sound = true := by
  obtain ⟨a, b, c, d, e⟩ := sound_iff.mp h
  exact sound_iff.mpr ⟨hst.wf a, by rw [hst.mode]; exact b, by rw [hst.cpsr]; exact c, by rw [hst.spsr]; exact d,
    by rw [hst.pc]; exact e⟩

theorem setRegIn_sound {s : State} (b : Bank) (r : Reg) (v : Word) (h : s.sound = true) : (s.setRegIn b r v).sound = true :=
  sound_congr (by simp) (by simp) (by simp) (by simp) h

theorem setReg_sound {s : State} (r : Reg) (v : Word) (h : s.sound = true) : (s.setReg r v).sound = true :=
  setRegIn_sound _ r v h

theorem useFree_sound {s : State} (h : s.sound = true) : s.useFree.sound = true := h

theorem setNZCV_sound {s : State} (n z c v : Bool) (h : s.sound = true) : (s.setNZCV n z c v).sound = true := by
  obtain ⟨a, b, r, d, e⟩ := sound_iff.mp h
  refine sound_iff.mpr ⟨a, by rw [State.setNZCV_mode]; exact b, ?_, d, e⟩
  exact reservedClear_congr (fun i _ h2 => s.setNZCV_getLsbD n z c v i (by omega)) r

theorem setQ_sound {s : State} (q : Bool) (h : s.sound = true) : (s.setQ q).sound = true := by
  obtain ⟨a, b, r, d, e⟩ := sound_iff.mp h
  refine sound_iff.mpr ⟨a, by rw [State.setQ_mode]; exact b, ?_, d, e⟩
  exact reservedClear_congr (fun i _ h2 => s.setQ_getLsbD q i (by omega)) r

theorem setThumb_sound {s : State} (t : Bool) (h : s.sound = true) : (s.setThumb t).sound = true := by
  obtain ⟨a, b, r, d, e⟩ := sound_iff.mp h
  refine sound_iff.mpr ⟨a, by rw [State.setThumb_mode]; exact b, ?_, d, e⟩
  exact reservedClear_congr (fun i h1 _ => s.setThumb_getLsbD t i (by omega)) r

/-- The pc is written with an even address. -/
theorem branchTo_sound {s : State} {a : Word} (ha : a.getLsbD 0 = false) (h : s.sound = true) :
    (s.branchTo a).sound = true := by
  obtain ⟨p, b, r, d, _⟩ := sound_iff.mp h
  exact sound_iff.mpr ⟨p, b, r, d, ha⟩

theorem even_iff {w : Word} : w.getLsbD 0 = false ↔ w.toNat % 2 = 0 := by
  rw [BitVec.getLsbD, Nat.testBit_zero, decide_eq_false_iff_not]
  omega

theorem even_add {a b : Word} (ha : a.getLsbD 0 = false) (hb : b.getLsbD 0 = false) : (a + b).getLsbD 0 = false := by
  rw [even_iff] at *
  rw [BitVec.toNat_add]
  omega

theorem even_and {a m : Word} (hm : m.getLsbD 0 = false) : (a &&& m).getLsbD 0 = false := by
  simp only [BitVec.getLsbD_and, hm, Bool.and_false]

/-- An aligned pc is even (spec/10 R34). -/
theorem alignPc_even (s : State) (a : Word) : (s.alignPc a).getLsbD 0 = false := by
  refine even_and ?_
  split <;> decide

theorem moveOn_sound {s : State} (h : s.sound = true) : s.moveOn.sound = true := by
  obtain ⟨p, b, r, d, e⟩ := sound_iff.mp h
  refine sound_iff.mpr ⟨p, b, r, d, ?_⟩
  rw [State.moveOn_pc]
  split
  · exact e
  · refine even_add e ?_
    unfold State.instrSize
    split <;> decide

theorem advance_sound {s t : State} (h : s.sound = true) (ht : advance s = .next t) : t.sound = true := by
  rw [advance_next ht]
  exact moveOn_sound h

/-- The CPSR an exception entry writes has the mode of the exception and the old bits [31:8]. -/
theorem entryCpsr_bits (e : Exc) (w : Word) (i : Nat) (h1 : 8 ≤ i) : (entryCpsr e w).getLsbD i = w.getLsbD i := by
  have key : ∀ (a : BitVec 24) (x y z : BitVec 1) (m : BitVec 5), (a ++ x ++ y ++ z ++ m).getLsbD i = a.getLsbD (i - 8) := by
    intro a x y z m
    have e : i - 5 - 1 - 1 - 1 = i - 8 := by omega
    simp only [BitVec.getLsbD_append, show ¬ i < 5 by omega, show ¬ i - 5 < 1 by omega, show ¬ i - 5 - 1 < 1 by omega,
      show ¬ i - 5 - 1 - 1 < 1 by omega, if_false, e]
  refine (key (w.extractLsb' 8 24) 1#1 (BitVec.ofBool (e.masksFiq || w.getLsbD 6)) 0#1 e.mode).trans ?_
  simp only [BitVec.getLsbD_extractLsb']
  by_cases hi : i < 32
  · have a : i - 8 < 24 := by omega
    have b : 8 + (i - 8) = i := by omega
    simp [a, b]
  · rw [BitVec.getLsbD_of_ge w i (by omega)]
    simp [show ¬ i - 8 < 24 by omega]

theorem entryCpsr_mode (e : Exc) (w : Word) : (entryCpsr e w).extractLsb' 0 5 = e.mode := by
  have key : ∀ (a : BitVec 24) (x y z : BitVec 1) (m : BitVec 5), (a ++ x ++ y ++ z ++ m).extractLsb' 0 5 = m := by
    intro a x y z m
    apply BitVec.eq_of_getLsbD_eq
    intro i hi
    simp only [BitVec.getLsbD_extractLsb', Nat.zero_add, BitVec.getLsbD_append, hi, if_true, decide_true, Bool.true_and]
  exact key _ _ _ _ _

/-- What taking an exception writes (spec/60 R860). -/
theorem takeException_cpsr (e : Exc) (link : Word) (s : State) : (takeException e link s).cpsr = entryCpsr e s.cpsr := by
  simp [takeException]

theorem takeException_pc (e : Exc) (link : Word) (s : State) : (takeException e link s).pc = vectorBase s + e.offset := rfl

theorem takeException_mem (e : Exc) (link : Word) (s : State) : (takeException e link s).mem = s.mem := by
  simp [takeException]

theorem takeException_spsr (e : Exc) (link : Word) (s : State) :
    (takeException e link s).spsr
      = (({ s with cpsr := entryCpsr e s.cpsr }.setRegIn (bankOf e.mode) regLr link).setSpsrIn (bankOf e.mode) s.cpsr).spsr := rfl

/-- An SPSR after a write to one. -/
theorem setSpsrIn_spsr (s : State) (b : Bank) (v : Word) (i : Nat) (hi : i < 5) :
    (s.setSpsrIn b v).spsr[i] = v ∨ (s.setSpsrIn b v).spsr[i] = s.spsr[i] := by
  unfold State.setSpsrIn
  split
  · rename_i k _
    show (s.spsr.set k v)[i] = v ∨ (s.spsr.set k v)[i] = s.spsr[i]
    rw [Vector.getElem_set]
    split
    · exact .inl rfl
    · exact .inr rfl
  · exact .inr rfl

theorem takeException_sound {e : Exc} {link : Word} {s : State} (h : s.sound = true) :
    (takeException e link s).sound = true := by
  obtain ⟨p, b, r, d, _⟩ := sound_iff.mp h
  refine sound_iff.mpr ⟨by rw [takeException_mem]; exact p, ?_, ?_, ?_, ?_⟩
  · rw [State.mode, takeException_cpsr, entryCpsr_mode]
    cases e <;> rfl
  · rw [takeException_cpsr]
    exact reservedClear_congr (fun i h1 _ => entryCpsr_bits e s.cpsr i h1) r
  · intro i hi
    simp only [takeException_spsr]
    rcases setSpsrIn_spsr ({ s with cpsr := entryCpsr e s.cpsr }.setRegIn (bankOf e.mode) regLr link) (bankOf e.mode)
      s.cpsr i hi with h1 | h1
    · rw [h1]
      exact r
    · rw [h1]
      simp only [State.setRegIn_spsr]
      exact d i hi
  · rw [takeException_pc]
    unfold vectorBase
    split <;> cases e <;> decide

theorem undefinedInstr_sound {s t : State} (h : s.sound = true) (ht : undefinedInstr s = .next t) : t.sound = true := by
  unfold undefinedInstr at ht
  split at ht
  · cases ht
  · exact Host.Outcome.next.inj ht ▸ takeException_sound h

theorem softwareInterrupt_sound {s t : State} (h : s.sound = true) (ht : softwareInterrupt s = .next t) : t.sound = true := by
  unfold softwareInterrupt at ht
  split at ht
  · cases ht
  · exact Host.Outcome.next.inj ht ▸ takeException_sound h

theorem recordDataFault_sound {st : BitVec 4} {d : Option (BitVec 4)} {va ifar : Word} {s : State} (h : s.sound = true) :
    (recordDataFault st d va ifar s).sound = true := by
  cases d <;> exact sound_congr rfl rfl rfl rfl h

theorem dataAbort_sound {i : AbortInfo} {s t : State} (h : s.sound = true) (ht : dataAbort i s = .next t) : t.sound = true := by
  unfold dataAbort at ht
  generalize s.pc + s.pcOffset = a at ht
  have h1 : ∀ w, ({ recordDataFault i.status i.domain i.va a s with dbg := w } : State).sound = true :=
    fun w => sound_congr rfl rfl rfl rfl (recordDataFault_sound (st := i.status) (d := i.domain) (va := i.va) (ifar := a) h)
  dsimp only at ht
  split at ht
  · rw [← Host.Outcome.next.inj ht]
    exact h1 _
  · rw [← Host.Outcome.next.inj ht]
    exact takeException_sound (h1 _)

theorem prefetchAbort_sound {st : BitVec 4} {s : State} (h : s.sound = true) : (prefetchAbort st s).sound = true :=
  takeException_sound (sound_congr rfl rfl rfl rfl h)

theorem enterDebug_sound {moe : BitVec 3} {s : State} (h : s.sound = true) : (enterDebug moe s).sound = true :=
  sound_congr rfl rfl rfl rfl h

theorem caughtHere_sound {s : State} (h : s.sound = true) : (caughtHere s).sound = true := h

theorem debugEvent_sound {moe : BitVec 3} {s : State} (h : s.sound = true) : (debugEvent moe s).sound = true := by
  unfold debugEvent
  split
  · exact enterDebug_sound (caughtHere_sound h)
  · exact prefetchAbort_sound (sound_congr (s := s) rfl rfl rfl rfl h)

theorem breakpointInstr_sound {s t : State} (h : s.sound = true) (ht : breakpointInstr s = .next t) : t.sound = true := by
  unfold breakpointInstr at ht
  split at ht
  · cases ht
  · split at ht
    · exact Host.Outcome.next.inj ht ▸ debugEvent_sound h
    · exact Host.Outcome.next.inj ht ▸ prefetchAbort_sound h

theorem exchangeTo_sound {v : Word} {s t : State} (h : s.sound = true) (ht : exchangeTo v s = .next t) : t.sound = true := by
  unfold exchangeTo at ht
  split at ht
  · cases ht
  · exact Host.Outcome.next.inj ht ▸ branchTo_sound (even_and (by decide)) (setThumb_sound _ h)

theorem loadPc_sound {v : Word} {s t : State} (h : s.sound = true) (ht : loadPc v s = .next t) : t.sound = true := by
  unfold loadPc at ht
  split at ht
  · rw [← Host.Outcome.next.inj ht]
    exact branchTo_sound (alignPc_even s v) h
  · exact exchangeTo_sound h ht

theorem aluWritePc_sound {v : Word} {s t : State} (h : s.sound = true) (ht : aluWritePc v s = .next t) : t.sound = true := by
  unfold aluWritePc at ht
  split at ht
  · rename_i hv
    rw [← Host.Outcome.next.inj ht]
    refine branchTo_sound ?_ h
    have e := congrArg (fun x : BitVec 2 => x.getLsbD 0) hv
    simpa using e
  · cases ht

theorem exceptionReturn_sound {v : Word} {s t : State} (h : s.sound = true) (ht : exceptionReturn v s = .next t) :
    t.sound = true := by
  obtain ⟨p, b, r, d, e⟩ := sound_iff.mp h
  unfold exceptionReturn at ht
  split at ht
  · cases ht
  · rename_i i _
    dsimp only at ht
    split at ht
    · rename_i hl
      rw [← Host.Outcome.next.inj ht]
      refine branchTo_sound (even_and ?_) (sound_iff.mpr ⟨p, hl, d i.val i.isLt, d, e⟩)
      split <;> decide
    · cases ht

/-- A relative target of an even base and an even offset is even. -/
theorem relative_even {base t : Word} {o : Int} (hb : base.getLsbD 0 = false) (ho : o % 2 = 0)
    (h : relative base o = some t) : t.getLsbD 0 = false := by
  unfold relative at h
  dsimp only at h
  split at h
  · cases h
  · split at h
    · cases h
    · rename_i h1 h2
      rw [← Option.some.inj h]
      rw [even_iff] at hb ⊢
      rw [BitVec.toNat_ofInt]
      omega

theorem maskedWrite_getLsbD (old v mask : Word) (i : Nat) :
    (maskedWrite old v mask).getLsbD i = if mask.getLsbD i then v.getLsbD i else old.getLsbD i := by
  unfold maskedWrite
  by_cases hi : i < 32
  · simp only [BitVec.getLsbD_or, BitVec.getLsbD_and, BitVec.getLsbD_not, hi, decide_true, Bool.true_and]
    cases mask.getLsbD i <;> simp
  · simp [BitVec.getLsbD_of_ge _ i (show 32 ≤ i by omega)]

theorem msrCpsr_sound {mask : BitVec 4} {v : Word} {s t : State} (h : s.sound = true) (ht : msrCpsr mask v s = .next t) :
    t.sound = true := by
  obtain ⟨p, b, r, d, e⟩ := sound_iff.mp h
  unfold msrCpsr at ht
  split at ht
  · split at ht
    · cases ht
    · dsimp only at ht
      split at ht
      · rename_i hl
        refine advance_sound ?_ ht
        refine sound_iff.mpr ⟨p, hl, ?_, d, e⟩
        refine reservedClear_congr (fun i h1 h2 => ?_) r
        rw [maskedWrite_getLsbD, BitVec.getLsbD_and]
        interval_cases i <;> simp
      · cases ht
  · refine advance_sound ?_ ht
    refine sound_iff.mpr ⟨p, ?_, ?_, d, e⟩
    · have m : ∀ i, i < 5 → (maskedWrite s.cpsr v (fieldMask mask &&& 0xF8000000#32)).getLsbD i = s.cpsr.getLsbD i := by
        intro i hi
        rw [maskedWrite_getLsbD, BitVec.getLsbD_and]
        interval_cases i <;> simp
      have : (maskedWrite s.cpsr v (fieldMask mask &&& 0xF8000000#32)).extractLsb' 0 5 = s.mode := by
        ext i hi
        simpa [State.mode] using m i hi
      show legalMode ((maskedWrite s.cpsr v (fieldMask mask &&& 0xF8000000#32)).extractLsb' 0 5) = true
      rw [this]
      exact b
    · refine reservedClear_congr (fun i h1 h2 => ?_) r
      rw [maskedWrite_getLsbD, BitVec.getLsbD_and]
      interval_cases i <;> simp

theorem msrSpsr_sound {mask : BitVec 4} {v : Word} {s t : State} (h : s.sound = true) (ht : msrSpsr mask v s = .next t) :
    t.sound = true := by
  obtain ⟨p, b, r, d, e⟩ := sound_iff.mp h
  unfold msrSpsr at ht
  split at ht
  · cases ht
  · rename_i k _
    refine advance_sound ?_ ht
    refine sound_iff.mpr ⟨p, b, r, ?_, e⟩
    intro i hi
    show reservedClear ((s.spsr.set k (maskedWrite s.spsr[k] v (fieldMask mask &&& 0xF80000FF#32)))[i]) = true
    rw [Vector.getElem_set]
    split
    · refine reservedClear_congr (fun j h1 h2 => ?_) (d k.val k.isLt)
      rw [maskedWrite_getLsbD, BitVec.getLsbD_and]
      interval_cases j <;> simp
    · exact d i hi

theorem msrWrite_sound {r : Bool} {mask : BitVec 4} {v : Word} {s t : State} (h : s.sound = true)
    (ht : msrWrite r mask v s = .next t) : t.sound = true := by
  cases r
  · exact msrCpsr_sound h ht
  · exact msrSpsr_sound h ht

/-- A memory operation with a continuation that keeps soundness. -/
theorem finish_sound {α : Type} {s t : State} {x : Res α} {k : α → State → Outcome State} (h : s.sound = true)
    (hx : x.All (MemSide s)) (hk : ∀ a s1, s1.sound = true → k a s1 = .next t → t.sound = true)
    (ht : x.finish k = .next t) : t.sound = true := by
  rcases Res.finish_next ht with ⟨a, s1, e, hk1⟩ | ⟨i, s1, e, hd⟩
  · rw [e] at hx
    exact hk a s1 (MemSide.sound hx h) hk1
  · rw [e] at hx
    exact dataAbort_sound (MemSide.sound hx h) hd

end Sys2Proof.Machine
end

