-- ==== Sys2Proof/Laws/Kept.lean ====
section
/-!
SUPPORT. The templates of the instructions keep a sound state sound: one lemma for each, with what its memory operation and
its continuation need.
-/
namespace Sys2Proof.Machine

variable {s t : State}

theorem whenCond_sound {c k} (h : s.sound = true) (hk : k = .next t → t.sound = true) (ht : whenCond c s k = .next t) : t.sound = true := by
  rcases whenCond_next ht with h1 | h1
  · exact hk h1.2
  · exact advance_sound h h1.2

theorem require_sound {ok r k} (hk : k = .next t → t.sound = true) (ht : require ok r k = .next t) : t.sound = true := 
  hk (require_next ht).2

theorem writeBase_sound {ix o} (h : s.sound = true) : (writeBase ix o s).sound = true := by
  unfold writeBase; split
  · exact setReg_sound _ _ h
  · exact h

theorem setRegs_sound {b l} (h : s.sound = true) : (setRegs b s l).sound = true := by
  unfold setRegs
  induction l generalizing s with
  | nil => exact h
  | cons p l ih => exact ih (setRegIn_sound _ _ _ h)

theorem setAlu_sound {a} (h : s.sound = true) : (s.setAlu a).sound = true := setNZCV_sound _ _ _ _ h

theorem writeResult_sound {f rd a} (h : s.sound = true) (ht : writeResult f rd a s = .next t) : t.sound = true := by
  unfold writeResult at ht
  split at ht
  · split at ht
    · exact exceptionReturn_sound h ht
    · exact aluWritePc_sound h ht
  · refine advance_sound (setReg_sound _ _ ?_) ht
    split
    · exact setAlu_sound h
    · exact h

theorem loadReg_sound {e p ix o rd} (h : s.sound = true) (ht : loadReg e p ix o rd s = .next t) : t.sound = true := by
  refine finish_sound h ?_ ?_ ht
  · exact (memRead_readSide _ _ _ _).mono fun _ h => h.toMemSide
  · intro v s1 h1 ht
    refine advance_sound (setReg_sound _ _ (writeBase_sound ?_)) ht
    unfold loadedValue; split
    · exact useFree_sound h1
    · exact h1

theorem storeReg_sound {e p ix o rd} (h : s.sound = true) (ht : storeReg e p ix o rd s = .next t) : t.sound = true := by
  refine finish_sound h ?_ ?_ ht
  · exact memWrite_memSide _ _ _ _ _
  · intro v s1 h1 ht
    exact advance_sound (writeBase_sound h1) ht

theorem loadToPc_sound {ix o} (h : s.sound = true) (ht : loadToPc ix o s = .next t) : t.sound = true := by
  refine finish_sound h ?_ ?_ ht
  · exact (memRead_readSide _ _ _ _).mono fun _ h => h.toMemSide
  · intro v s1 h1
    exact require_sound fun ht => loadPc_sound (writeBase_sound h1) ht

theorem multipleWriteBase_sound {ix l b} (h : s.sound = true) : (multipleWriteBase ix l b s).sound = true := by
  unfold multipleWriteBase; split
  · exact setReg_sound _ _ h
  · exact h

theorem loadMultiple_sound {ix l} (h : s.sound = true) (ht : loadMultiple ix l s = .next t) : t.sound = true := by
  refine finish_sound h ?_ ?_ ht
  · exact (memReadMany_readSide _ _ _ _).mono fun _ h => h.toMemSide
  · intro v s1 h1 ht
    dsimp only at ht
    split at ht
    · exact require_sound (fun ht => loadPc_sound (setRegs_sound (multipleWriteBase_sound h1)) ht) ht
    · exact advance_sound (setRegs_sound (multipleWriteBase_sound h1)) ht

theorem stmFree_memSide (ix l) : MemSide s (stmFree ix l s) := by
  unfold stmFree; split
  · exact (useFree_readSide s).toMemSide
  · exact MemSide.refl s

theorem storeMultiple_sound {ix l} (h : s.sound = true) (ht : storeMultiple ix l s = .next t) : t.sound = true := by
  refine finish_sound h ?_ ?_ ht
  · exact (memWriteMany_memSide _ _ _ _).mono fun _ h => (stmFree_memSide _ _).trans h
  · intro v s1 h1 ht
    exact advance_sound (multipleWriteBase_sound h1) ht

theorem thumbLoad_sound {e va rd} (h : s.sound = true) (ht : thumbLoad e va rd s = .next t) : t.sound = true := by
  refine finish_sound h ?_ ?_ ht
  · exact (memRead_readSide _ _ _ _).mono fun _ h => h.toMemSide
  · intro v s1 h1 ht
    refine advance_sound (setReg_sound _ _ ?_) ht
    unfold thumbLoaded; split
    · exact useFree_sound h1
    · exact h1

theorem thumbStore_sound {e va rd} (h : s.sound = true) (ht : thumbStore e va rd s = .next t) : t.sound = true := by
  refine require_sound (fun ht => finish_sound h ?_ ?_ ht) ht
  · exact memWrite_memSide _ _ _ _ _
  · intro v s1 h1 ht
    exact advance_sound h1 ht

theorem branchRelative_sound {o} {u : State} (h : s.sound = true) (hu : u.sound = true) (ho : o % 2 = 0) (ht : branchRelative s.pc o u = .next t) : t.sound = true := by
  unfold branchRelative at ht
  split at ht
  · rename_i a ha
    rw [← Host.Outcome.next.inj ht]
    refine branchTo_sound (relative_even ?_ ho ha) hu
    exact (sound_iff.mp h).2.2.2.2
  · cases ht

theorem thumbAlu_sound {rd a} (h : s.sound = true) (ht : thumbAlu rd a s = .next t) : t.sound = true :=
  advance_sound (setReg_sound _ _ (setAlu_sound h)) ht

theorem thumbLogic_sound {rd a} (h : s.sound = true) (ht : thumbLogic rd a s = .next t) : t.sound = true :=
  advance_sound (setReg_sound _ _ (setNZCV_sound _ _ _ _ h)) ht

theorem thumbHigh_sound {rd a} (h : s.sound = true) (ht : thumbHigh rd a s = .next t) : t.sound = true := by
  unfold thumbHigh at ht
  split at ht
  · rw [← Host.Outcome.next.inj ht]; exact branchTo_sound (alignPc_even s _) h
  · exact advance_sound (setReg_sound _ _ h) ht

theorem branchThumb_sound {o} (h : s.sound = true) (ht : branchThumb o s = .next t) : t.sound = true := by
  unfold branchThumb at ht
  split at ht
  · rw [← Host.Outcome.next.inj ht]; exact branchTo_sound (alignPc_even s _) h
  · cases ht

theorem cpTell_sound {l} (h : s.sound = true) : (cpTell l s).sound = true := sound_congr rfl rfl rfl rfl h

theorem external_sound {n i u k} (h : s.sound = true) (hk : ∀ u, u.sound = true → k u = .next t → t.sound = true) (ht : external n i u s k = .next t) : t.sound = true := by
  unfold external at ht
  split at ht
  · split at ht
    · exact Host.Outcome.next.inj ht ▸ h
    · dsimp only at ht
      split at ht
      · exact hk _ (cpTell_sound h) ht
      · exact undefinedInstr_sound (cpTell_sound h) ht
  · exact undefinedInstr_sound h ht

theorem mrcResult_sound {rd v} (h : s.sound = true) (ht : mrcResult rd v s = .next t) : t.sound = true := by
  unfold mrcResult at ht
  split at ht
  · exact advance_sound (setNZCV_sound _ _ _ _ h) ht
  · exact advance_sound (setReg_sound _ _ h) ht

theorem mcrValue_sound {rd} (h : s.sound = true) : (mcrValue rd s).2.sound = true := by
  unfold mcrValue; split
  · exact useFree_sound h
  · exact h

theorem advance_dbg_sound {d} (h : s.sound = true) (ht : advance {s with dbg := d} = .next t) : t.sound = true := 
  advance_sound (s := {s with dbg := d}) (sound_congr (s := s) rfl rfl rfl rfl h) ht

theorem cp14Write_sound {r v} (h : s.sound = true) (ht : cp14Write r v s = .next t) : t.sound = true := by
  cases r <;> simp only [cp14Write] at ht
  · exact undefinedInstr_sound h ht
  · exact advance_dbg_sound h ht
  · exact advance_dbg_sound h ht
  · split at ht
    · exact advance_sound h ht
    · exact advance_dbg_sound h ht
  · split at ht
    · exact advance_sound h ht
    · exact advance_dbg_sound h (require_next ht).2
  · split at ht
    · exact advance_sound h ht
    · exact advance_dbg_sound h ht
  · split at ht
    · exact advance_sound h ht
    · exact advance_dbg_sound h (require_next ht).2

theorem cp14Read_sound {r} (h : s.sound = true) : (cp14Read r s).2.sound = true := by
  cases r <;> simp only [cp14Read] <;> exact h

theorem cp15Read_sound {r} (h : s.sound = true) : (cp15Read r s).2.sound = true := by
  cases r <;> simp only [cp15Read] <;> (try split) <;> exact h

/-- All that a prefetch of an ICache line can change (spec/22 R381). -/
theorem prefetchLine_readSide (va : Word) (s : State) : (prefetchLine va s).All (ReadSide s) := by
  have go : ∀ (mva pa : Word) (c b : Bool) (u : State), ReadSide u (match instrCachable u c with
      | false => u
      | true => match u.icache.lookup mva with
        | some _ => u
        | none => (instrFill mva pa u.priv (instrBufferable u b) u).2) := by
    intro mva pa c b u
    split
    · exact ReadSide.refl u
    · split
      · exact ReadSide.refl u
      · exact instrFill_readSide _ _ _ _ u
  unfold prefetchLine
  dsimp only
  split
  · exact go _ _ _ _ s
  · have h := translate_readSide .instr (relocate s.cp15.pid va) false s.priv s
    rcases hw : Machine.translate .instr (relocate s.cp15.pid va) false s.priv s with ⟨x, s1⟩
    rw [hw] at h
    cases x with
    | ok pa c b => exact h.trans (go _ _ _ _ s1)
    | fault st d => exact h
    | ambiguous => trivial

theorem writeIf_sound {b} {u : State} (hu : u.sound = true) : (writeIf b u).All (fun t => t.sound = true) := by
  unfold writeIf; split
  · exact hu
  · trivial

theorem cleanLine_memSide (g i start inv) : MemSide s (cleanLine g i start inv s) := by
  unfold cleanLine
  split
  · exact MemSide.refl s
  · exact (castIfDirty_memSide _ start s).trans ⟨rfl, rfl, rfl, rfl, rfl, rfl, rfl, rfl, rfl, rfl, rfl, rfl, rfl, rfl, id⟩

theorem cleanByVa_memSide (va inv) : MemSide s (cleanByVa va inv s) := by
  unfold cleanByVa; dsimp only; split
  · exact cleanLine_memSide _ _ _ _
  · exact MemSide.refl s

theorem cp15Write_sound {w v} (h : s.sound = true) : (cp15Write w v s).All (fun t => t.sound = true) := by
  cases w <;> simp only [cp15Write]
  case prefetchILine => exact (prefetchLine_readSide v s).mono fun _ k => k.toMemSide.sound h
  case drainWriteBuffer => exact writeIf_sound ((drainAll_memSide s).sound h)
  case cleanDLine => exact (cleanByVa_memSide _ _).sound h
  case cleanInvalidateDLine => exact (cleanByVa_memSide _ _).sound h
  case cleanDIndex => exact writeIf_sound ((cleanLine_memSide _ _ _ _).sound ((drainAll_memSide s).sound h))
  case cleanInvalidateDIndex => exact writeIf_sound ((cleanLine_memSide _ _ _ _).sound ((drainAll_memSide s).sound h))
  case waitForInterrupt =>
    refine writeIf_sound ?_
    unfold waitForInterrupt; dsimp only; split
    · exact (drainAll_memSide s).sound h
    · exact sound_congr (s := drainAll s) rfl rfl rfl rfl ((drainAll_memSide s).sound h)
  case pmtdr =>
    unfold pmTransmit
    split <;> (try split) <;> (try split) <;> first | exact h | trivial
  case writeEntry => split <;> first | trivial | (rename_i sd _ _ _ ; cases sd <;> exact sound_congr (s := s) rfl rfl rfl rfl h)
  case camHold sd => cases sd <;> exact writeIf_sound (sound_congr (s := s) rfl rfl rfl rfl h)
  case protHold sd => cases sd <;> exact writeIf_sound (sound_congr (s := s) rfl rfl rfl rfl h)
  case paHold sd => cases sd <;> exact writeIf_sound (sound_congr (s := s) rfl rfl rfl rfl h)
  all_goals first | exact writeIf_sound (sound_congr (s := s) rfl rfl rfl rfl h) | exact h

theorem mcr15_sound {f} (h : s.sound = true) (ht : mcr15 f s = .next t) : t.sound = true := by
  unfold mcr15 at ht
  split at ht
  · exact undefinedInstr_sound h ht
  · split at ht
    · cases ht
    · rename_i w _
      have := cp15Write_sound (w := w) (v := (mcrValue f.rd s).1) (mcrValue_sound (rd := f.rd) h)
      rcases Res.finish_next ht with ⟨a, s1, e, hk1⟩ | ⟨i, s1, e, hd⟩
      · rw [e] at this; exact advance_sound this hk1
      · rw [e] at this; exact dataAbort_sound this hd

theorem mrc15_sound {f} (h : s.sound = true) (ht : mrc15 f s = .next t) : t.sound = true := by
  unfold mrc15 at ht
  split at ht
  · exact undefinedInstr_sound h ht
  · split at ht
    · cases ht
    · exact mrcResult_sound (cp15Read_sound h) ht

theorem mcr14_sound {f} (h : s.sound = true) (ht : mcr14 f s = .next t) : t.sound = true := by
  unfold mcr14 at ht
  split at ht
  · exact undefinedInstr_sound h ht
  · exact cp14Write_sound (mcrValue_sound h) ht

theorem mrc14_sound {f} (h : s.sound = true) (ht : mrc14 f s = .next t) : t.sound = true := by
  unfold mrc14 at ht
  split at ht
  · exact undefinedInstr_sound h ht
  · exact mrcResult_sound (cp14Read_sound h) ht

theorem cpWriteBase_sound {f v} (h : s.sound = true) : (cpWriteBase f v s).sound = true := by
  unfold cpWriteBase; split
  · exact setReg_sound _ _ h
  · exact h

theorem ldc14_sound {f} (h : s.sound = true) (ht : ldc14 f s = .next t) : t.sound = true := by
  unfold ldc14 at ht
  split at ht
  · refine require_sound (fun ht => finish_sound h ?_ ?_ ht) ht
    · exact (memReadMany_readSide _ _ _ _).mono fun _ h => h.toMemSide
    · intro v s1 h1 ht
      exact advance_sound (cpWriteBase_sound (sound_congr (s := s1) (t := writeDtr _ s1) rfl rfl rfl rfl h1)) ht
  · exact undefinedInstr_sound h ht

theorem stc14_sound {f} (h : s.sound = true) (ht : stc14 f s = .next t) : t.sound = true := by
  unfold stc14 at ht
  split at ht
  · refine require_sound (fun ht => finish_sound h ?_ ?_ ht) ht
    · exact memWriteMany_memSide _ _ _ _
    · intro v s1 h1 ht
      exact advance_sound (cpWriteBase_sound (sound_congr (s := s1) (t := readDtr s1) rfl rfl rfl rfl h1)) ht
  · exact undefinedInstr_sound h ht

theorem useMany_sound {n} (h : s.sound = true) : (useMany n s).sound = true := sound_congr rfl rfl rfl rfl h

theorem ldcExternal_sound {f b} (h : s.sound = true) (ht : ldcExternal f b s = .next t) : t.sound = true := by
  refine require_sound (fun ht => ?_) ht
  dsimp only at ht
  have := readRun_readSide (externalMultiple f b s) (cpWords f b s) true (cpStart f s) s
  split at ht
  · rename_i e; rw [e] at this
    exact advance_sound (cpWriteBase_sound (cpTell_sound (this.toMemSide.sound h))) ht
  · rename_i e; rw [e] at this
    exact dataAbort_sound (cpTell_sound (useMany_sound (this.toMemSide.sound h))) ht
  · cases ht

theorem stcExternal_sound {f b} (h : s.sound = true) (ht : stcExternal f b s = .next t) : t.sound = true := by
  refine require_sound (fun ht => finish_sound h ?_ ?_ ht) ht
  · exact memWriteMany_memSide _ _ _ _
  · intro v s1 h1 ht
    exact advance_sound (cpWriteBase_sound h1) ht

/-- A write of memory by another bus master (spec/20 R235). -/
theorem otherMasterWrite_sound {pa : Word} {v : Byte} (h : s.sound = true) : (otherMasterWrite pa v s).sound = true := by
  obtain ⟨a, b, c, d, e⟩ := sound_iff.mp h
  unfold otherMasterWrite
  split
  · exact sound_iff.mpr ⟨Memory.write_wf a pa.isLt, b, c, d, e⟩
  · exact h

/-- The CPSR, the SPSRs and the pc a core reset leaves (spec/70 R985). -/
theorem coreReset_cpsr (p : Bool) (s : State) :
    (coreReset p s).cpsr = (Config.free (s.freeCount + 35) &&& 0xF8000000#32) ||| 0xD3#32 := rfl

theorem coreReset_spsr (p : Bool) (s : State) :
    (coreReset p s).spsr = (freeVector 5 (s.freeCount + 30)).map (fun w => w &&& 0xF80000FF#32) := rfl

theorem coreReset_pc (p : Bool) (s : State) : (coreReset p s).pc = if s.pins.hivecsinit then 0xFFFF0000#32 else 0#32 := rfl

theorem coreReset_mem (p : Bool) (s : State) : (coreReset p s).mem = s.mem := by simp only [coreReset]

/-- Words masked as a reset masks them have the reserved bits clear. -/
theorem reservedClear_saved (f : Word) : reservedClear (f &&& 0xF80000FF#32) = true :=
  reservedClear_iff.mpr fun j h1 h2 => by
    rw [BitVec.getLsbD_and]
    interval_cases j <;> simp

theorem reservedClear_reset (f : Word) : reservedClear ((f &&& 0xF8000000#32) ||| 0xD3#32) = true :=
  reservedClear_iff.mpr fun j h1 h2 => by
    rw [BitVec.getLsbD_or, BitVec.getLsbD_and]
    interval_cases j <;> simp

theorem legalMode_reset (f : Word) : legalMode (((f &&& 0xF8000000#32) ||| 0xD3#32).extractLsb' 0 5) = true := by
  have m : ((f &&& 0xF8000000#32) ||| 0xD3#32).extractLsb' 0 5 = 0x13#5 := by
    ext i hi
    interval_cases i <;> simp
  rw [m]
  rfl

/-- A core reset leaves a sound state (spec/70 R985). -/
theorem coreReset_sound {powerOn : Bool} (h : s.sound = true) : (coreReset powerOn s).sound = true := by
  have key : ∀ u : State, u.mem = s.mem → u.cpsr = (Config.free (s.freeCount + 35) &&& 0xF8000000#32) ||| 0xD3#32 →
      u.spsr = (freeVector 5 (s.freeCount + 30)).map (fun w => w &&& 0xF80000FF#32) →
      u.pc = (if s.pins.hivecsinit then 0xFFFF0000#32 else 0#32) → u.sound = true := by
    intro u hm hc hs hp
    refine sound_iff.mpr ⟨hm ▸ (sound_iff.mp h).1, ?_, ?_, ?_, ?_⟩
    · rw [State.mode, hc]
      exact legalMode_reset _
    · rw [hc]
      exact reservedClear_reset _
    · intro i hi
      simp only [hs, Vector.getElem_map]
      exact reservedClear_saved _
    · rw [hp]
      split <;> decide
  exact key _ (coreReset_mem powerOn s) (coreReset_cpsr powerOn s) (coreReset_spsr powerOn s) (coreReset_pc powerOn s)

end Sys2Proof.Machine
end

