-- ==== Sys2Proof/Laws/PerInstr.lean ====
section
/-!
SUPPORT. Decoding the word of an instruction gives the instruction back: one lemma for each constructor of `Instr`.
-/
namespace Sys2Proof

namespace Laws.RoundTrip

/-- Decoding inverts encoding (spec/30, spec/31). -/
def Statement (i : Instr) : Prop := i.encodable = true → decode (encode i) = i

end Laws.RoundTrip

/-- An ARM instruction: the pieces the encoder gives decode to it. -/
theorem roundTrip_arm {i : Instr} {f : Fields} (h : encodeFields i = some f) (hd : decodeFields f = i) :
    decode (encode i) = i := by
  simp only [encode, h, decode, decodeArm, unpack_pack]
  exact hd

/-- A Thumb instruction: the bits the encoder gives decode to it. -/
theorem roundTrip_thumb {i : Instr} {t : Bits16} (h : encodeFields i = none) (h' : encodeBits16 i = some t)
    (hd : decodeBits16 t = i) : decode (encode i) = i := by
  simp only [encode, h, h', decode, decodeThumb, unpack16_pack16]
  exact hd

/-- The 1101 halfwords (spec/31 R486, R488, R490). -/
theorem decode1101_of {t : Bits16} {o : Option Cond} :
    Cond.ofBits (nib t.b11 t.b10 t.b9 t.b8) = o →
      decode1101 t = match o with
        | none => .tSwi t.imm8
        | some .al => .tUndCond t.imm8
        | some c => .tBcond c t.imm8 := by
  intro h
  unfold decode1101
  generalize Cond.ofBits (nib t.b11 t.b10 t.b9 t.b8) = x at h ⊢
  subst h
  rcases x with _ | c
  · rfl
  · cases c <;> rfl

theorem decodeBits16_swi (i : BitVec 8) : decodeBits16 ((top8 true true false true true true true true).setImm8 i) = .tSwi i :=
  (decode1101_of (t := (top8 true true false true true true true true).setImm8 i)
    (show Cond.ofBits (nib true true true true) = none by decide)).trans (congrArg Instr.tSwi (join8' i))

theorem decodeBits16_undCond (i : BitVec 8) :
    decodeBits16 ((top8 true true false true true true true false).setImm8 i) = .tUndCond i :=
  (decode1101_of (t := (top8 true true false true true true true false).setImm8 i)
    (show Cond.ofBits (nib true true true false) = some .al by decide)).trans (congrArg Instr.tUndCond (join8' i))

theorem decodeBits16_cond (c : Cond) (i : BitVec 8) (h : (c != .al) = true) :
    decodeBits16 ((top8 true true false true (c.bits.getLsbD 3) (c.bits.getLsbD 2) (c.bits.getLsbD 1) (c.bits.getLsbD 0)).setImm8 i)
      = .tBcond c i := by
  have e : Cond.ofBits (nib (c.bits.getLsbD 3) (c.bits.getLsbD 2) (c.bits.getLsbD 1) (c.bits.getLsbD 0)) = some c := by
    rw [nib_getLsbD, Cond.ofBits_bits]
  have d := decode1101_of (t := (top8 true true false true (c.bits.getLsbD 3) (c.bits.getLsbD 2) (c.bits.getLsbD 1)
    (c.bits.getLsbD 0)).setImm8 i) e
  refine (show _ = _ from d).trans ?_
  have j := congrArg (Instr.tBcond c) (join8' i)
  cases c <;> first | exact j | exact absurd h (by decide)

/-- The 1011 halfwords that are no other instruction (spec/31 R490). -/
theorem decodeBits16_hole (body : BitVec 12) (h : (Instr.tUnd1011 body).encodable = true) :
    decodeBits16 ((top8 true false true true (body.getLsbD 11) (body.getLsbD 10) (body.getLsbD 9) (body.getLsbD 8)).setImm8
      (body.extractLsb' 0 8)) = .tUnd1011 body := by
  have h' : thumb1011Free (body.extractLsb' 8 4) = true := h
  have e : nib (body.getLsbD 11) (body.getLsbD 10) (body.getLsbD 9) (body.getLsbD 8) = body.extractLsb' 8 4 := by
    rw [← nib_getLsbD (body.extractLsb' 8 4)]
    simp
  have j : nib (body.getLsbD 11) (body.getLsbD 10) (body.getLsbD 9) (body.getLsbD 8)
      ++ ((top8 true false true true (body.getLsbD 11) (body.getLsbD 10) (body.getLsbD 9) (body.getLsbD 8)).setImm8
      (body.extractLsb' 0 8)).imm8 = body := by
    rw [Bits16.imm8_setImm8, e]
    exact join_parts 4 8 body rfl
  rw [← e] at h'
  have r := congrArg Instr.tUnd1011 j
  generalize body.getLsbD 11 = a11 at *
  generalize body.getLsbD 10 = a10 at *
  generalize body.getLsbD 9 = a9 at *
  generalize body.getLsbD 8 = a8 at *
  cases a11 <;> cases a10 <;> cases a9 <;> cases a8 <;> first
    | exact r
    | exact absurd h' (by decide)

theorem decodeFields_cond (f : Fields) (c : Cond) (h : f.cond = c.bits) : decodeFields f = decodeCond c f := by
  simp [decodeFields, h]

theorem decodeFields_uncond (f : Fields) (h : f.cond = 15#4) : decodeFields f = decodeUncond f := by
  simp [decodeFields, h]


theorem Laws.RoundTrip.undPld (u rn rs mid rm) : Laws.RoundTrip.Statement (.undPld u rn rs mid rm) := fun _ =>
  roundTrip_arm rfl ((decodeFields_uncond _ rfl).trans (congrArg (Instr.undPld u rn rs · rm) (tri_getLsbD mid)))

theorem Laws.RoundTrip.pld (u rn off) : Laws.RoundTrip.Statement (.pld u rn off) := fun _ =>
  roundTrip_arm rfl ((decodeFields_uncond _ (by cases off <;> rfl)).trans (by
    cases off <;> exact congrArg (Instr.pld u rn) (Fields.off2_setOff2 _ _)))

theorem Laws.RoundTrip.blxImm (h imm) : Laws.RoundTrip.Statement (.blxImm h imm) := fun _ =>
  roundTrip_arm rfl ((decodeFields_uncond _ rfl).trans (congrArg (Instr.blxImm h) (Fields.low24_setLow24 _ _)))

theorem Laws.RoundTrip.undExt2 (n l body) : Laws.RoundTrip.Statement (.undExt2 n l body) := fun _ =>
  roundTrip_arm rfl ((decodeFields_uncond _ rfl).trans (congrArg (Instr.undExt2 n l) (Fields.low20_setLow20 _ _)))

theorem Laws.RoundTrip.ldc2 (f) : Laws.RoundTrip.Statement (.ldc2 f) := fun h =>
  roundTrip_arm rfl ((decodeFields_uncond _ rfl).trans (by
    obtain ⟨p, u, n, w, rn, crd, cp, offset⟩ := f
    cases p <;> cases u <;> cases w <;> first
      | exact congrArg (Instr.ldc2) (Fields.cpMem_setCpMem _ _)
      | exact absurd h Bool.false_ne_true))

theorem Laws.RoundTrip.stc2 (f) : Laws.RoundTrip.Statement (.stc2 f) := fun h =>
  roundTrip_arm rfl ((decodeFields_uncond _ rfl).trans (by
    obtain ⟨p, u, n, w, rn, crd, cp, offset⟩ := f
    cases p <;> cases u <;> cases w <;> first
      | exact congrArg (Instr.stc2) (Fields.cpMem_setCpMem _ _)
      | exact absurd h Bool.false_ne_true))

theorem Laws.RoundTrip.cdp2 (f) : Laws.RoundTrip.Statement (.cdp2 f) := fun _ =>
  roundTrip_arm rfl ((decodeFields_uncond _ rfl).trans (congrArg (Instr.cdp2) (Fields.cpOp_setCpOp _ _)))

theorem Laws.RoundTrip.mcr2 (f) : Laws.RoundTrip.Statement (.mcr2 f) := fun _ =>
  roundTrip_arm rfl ((decodeFields_uncond _ rfl).trans (congrArg (Instr.mcr2) (Fields.cpReg_setCpReg _ _ _)))

theorem Laws.RoundTrip.mrc2 (f) : Laws.RoundTrip.Statement (.mrc2 f) := fun _ =>
  roundTrip_arm rfl ((decodeFields_uncond _ rfl).trans (congrArg (Instr.mrc2) (Fields.cpReg_setCpReg _ _ _)))

theorem Laws.RoundTrip.undUncond (op rn rd rs lo4 rm) : Laws.RoundTrip.Statement (.undUncond op rn rd rs lo4 rm) := fun h =>
  roundTrip_arm rfl ((decodeFields_uncond _ rfl).trans (by
    have e := join8' op
    have l := nib_getLsbD lo4
    have h' : uncondFree op rd = true := h
    unfold uncondFree at h'
    unfold decodeUncond
    dsimp only
    generalize op.getLsbD 7 = a7 at *
    generalize op.getLsbD 6 = a6 at *
    generalize op.getLsbD 5 = a5 at *
    generalize op.getLsbD 4 = a4 at *
    generalize op.getLsbD 3 = a3 at *
    generalize op.getLsbD 2 = a2 at *
    generalize op.getLsbD 1 = a1 at *
    generalize op.getLsbD 0 = a0 at *
    generalize (rd == 15#4) = q at *
    have r := congr (congrArg (fun o k => Instr.undUncond o rn rd rs k rm) e) l
    cases a7 <;> cases a6
    · exact r
    · cases a4 <;> cases a2 <;> cases a1 <;> cases a0 <;> cases q <;> first
        | exact r
        | exact absurd h' Bool.false_ne_true
    · cases a5
      · exact r
      · exact absurd h' Bool.false_ne_true
    · cases a5
      · exact absurd h' Bool.false_ne_true
      · cases a4
        · exact absurd h' Bool.false_ne_true
        · exact r))

theorem Laws.RoundTrip.mrs (c r sbo rd sbz1 sbz2) : Laws.RoundTrip.Statement (.mrs c r sbo rd sbz1 sbz2) := fun _ =>
  roundTrip_arm rfl ((decodeFields_cond _ c rfl).trans (by cases r <;> rfl))

theorem Laws.RoundTrip.msrReg (c r mask sbo sbz rm) : Laws.RoundTrip.Statement (.msrReg c r mask sbo sbz rm) := fun _ =>
  roundTrip_arm rfl ((decodeFields_cond _ c rfl).trans (by cases r <;> rfl))

theorem Laws.RoundTrip.bx (c sbo1 sbo2 sbo3 rm) : Laws.RoundTrip.Statement (.bx c sbo1 sbo2 sbo3 rm) := fun _ =>
  roundTrip_arm rfl ((decodeFields_cond _ c rfl).trans (rfl))

theorem Laws.RoundTrip.clz (c sbo1 rd sbo2 rm) : Laws.RoundTrip.Statement (.clz c sbo1 rd sbo2 rm) := fun _ =>
  roundTrip_arm rfl ((decodeFields_cond _ c rfl).trans (rfl))

theorem Laws.RoundTrip.blxReg (c sbo1 sbo2 sbo3 rm) : Laws.RoundTrip.Statement (.blxReg c sbo1 sbo2 sbo3 rm) := fun _ =>
  roundTrip_arm rfl ((decodeFields_cond _ c rfl).trans (rfl))

theorem Laws.RoundTrip.qadd (c rn rd sbz rm) : Laws.RoundTrip.Statement (.qadd c rn rd sbz rm) := fun _ =>
  roundTrip_arm rfl ((decodeFields_cond _ c rfl).trans (rfl))

theorem Laws.RoundTrip.qsub (c rn rd sbz rm) : Laws.RoundTrip.Statement (.qsub c rn rd sbz rm) := fun _ =>
  roundTrip_arm rfl ((decodeFields_cond _ c rfl).trans (rfl))

theorem Laws.RoundTrip.qdadd (c rn rd sbz rm) : Laws.RoundTrip.Statement (.qdadd c rn rd sbz rm) := fun _ =>
  roundTrip_arm rfl ((decodeFields_cond _ c rfl).trans (rfl))

theorem Laws.RoundTrip.qdsub (c rn rd sbz rm) : Laws.RoundTrip.Statement (.qdsub c rn rd sbz rm) := fun _ =>
  roundTrip_arm rfl ((decodeFields_cond _ c rfl).trans (rfl))

theorem Laws.RoundTrip.bkpt (c hi lo) : Laws.RoundTrip.Statement (.bkpt c hi lo) := fun _ =>
  roundTrip_arm rfl ((decodeFields_cond _ c rfl).trans (by
    have e : hi.extractLsb' 8 4 ++ hi.extractLsb' 4 4 ++ hi.extractLsb' 0 4 = hi := by
      rw [BitVec.extractLsb'_append_extractLsb'_eq_extractLsb' (by decide),
        BitVec.extractLsb'_append_extractLsb'_eq_extractLsb' (by decide)]
      exact BitVec.extractLsb'_eq_self
    exact congrArg (Instr.bkpt c · lo) e))

theorem Laws.RoundTrip.smlaxy (c rd rn rs y x rm) : Laws.RoundTrip.Statement (.smlaxy c rd rn rs y x rm) := fun _ =>
  roundTrip_arm rfl ((decodeFields_cond _ c rfl).trans (by cases y <;> cases x <;> rfl))

theorem Laws.RoundTrip.smlawy (c rd rn rs y rm) : Laws.RoundTrip.Statement (.smlawy c rd rn rs y rm) := fun _ =>
  roundTrip_arm rfl ((decodeFields_cond _ c rfl).trans (by cases y <;> rfl))

theorem Laws.RoundTrip.smulwy (c rd sbz rs y rm) : Laws.RoundTrip.Statement (.smulwy c rd sbz rs y rm) := fun _ =>
  roundTrip_arm rfl ((decodeFields_cond _ c rfl).trans (by cases y <;> rfl))

theorem Laws.RoundTrip.smlalxy (c rdHi rdLo rs y x rm) : Laws.RoundTrip.Statement (.smlalxy c rdHi rdLo rs y x rm) := fun _ =>
  roundTrip_arm rfl ((decodeFields_cond _ c rfl).trans (by cases y <;> cases x <;> rfl))

theorem Laws.RoundTrip.smulxy (c rd sbz rs y x rm) : Laws.RoundTrip.Statement (.smulxy c rd sbz rs y x rm) := fun _ =>
  roundTrip_arm rfl ((decodeFields_cond _ c rfl).trans (by cases y <;> cases x <;> rfl))

theorem Laws.RoundTrip.undMiscA (c op rn rd rs k rm) : Laws.RoundTrip.Statement (.undMiscA c op rn rd rs k rm) := fun h =>
  roundTrip_arm rfl ((decodeFields_cond _ c rfl).trans (by
    have e : BitVec.ofBool (op.getLsbD 1) ++ BitVec.ofBool (op.getLsbD 0) = op := by
      clear h
      revert op
      decide
    have h' : miscFree op k = true := h
    have m : (op != 1#2) = !(!op.getLsbD 1 && op.getLsbD 0) := by
      clear h h' e
      revert op
      decide
    have r := congr (congrArg (fun o k => Instr.undMiscA c o rn rd rs k rm) e) (tri_getLsbD k)
    unfold miscFree at h'
    rw [m] at h'
    show decodeCond c (miscFields c (op.getLsbD 1) (op.getLsbD 0) false (k.getLsbD 2) (k.getLsbD 1) (k.getLsbD 0) rn rd rs rm) = _
    generalize op.getLsbD 1 = a1 at *
    generalize op.getLsbD 0 = a0 at *
    generalize k.getLsbD 2 = k2 at *
    generalize k.getLsbD 1 = k1 at *
    generalize k.getLsbD 0 = k0 at *
    cases a1 <;> cases a0 <;> cases k2 <;> cases k1 <;> cases k0 <;> first
      | exact r
      | exact absurd h' Bool.false_ne_true))

theorem Laws.RoundTrip.undMiscB (c op rn rd rs k rm) : Laws.RoundTrip.Statement (.undMiscB c op rn rd rs k rm) := fun h => by cases h

theorem Laws.RoundTrip.mul (c s rd sbz rs rm) : Laws.RoundTrip.Statement (.mul c s rd sbz rs rm) := fun _ =>
  roundTrip_arm rfl ((decodeFields_cond _ c rfl).trans (by cases s <;> rfl))

theorem Laws.RoundTrip.mla (c s rd rn rs rm) : Laws.RoundTrip.Statement (.mla c s rd rn rs rm) := fun _ =>
  roundTrip_arm rfl ((decodeFields_cond _ c rfl).trans (by cases s <;> rfl))

theorem Laws.RoundTrip.umull (c s rdHi rdLo rs rm) : Laws.RoundTrip.Statement (.umull c s rdHi rdLo rs rm) := fun _ =>
  roundTrip_arm rfl ((decodeFields_cond _ c rfl).trans (by cases s <;> rfl))

theorem Laws.RoundTrip.umlal (c s rdHi rdLo rs rm) : Laws.RoundTrip.Statement (.umlal c s rdHi rdLo rs rm) := fun _ =>
  roundTrip_arm rfl ((decodeFields_cond _ c rfl).trans (by cases s <;> rfl))

theorem Laws.RoundTrip.smull (c s rdHi rdLo rs rm) : Laws.RoundTrip.Statement (.smull c s rdHi rdLo rs rm) := fun _ =>
  roundTrip_arm rfl ((decodeFields_cond _ c rfl).trans (by cases s <;> rfl))

theorem Laws.RoundTrip.smlal (c s rdHi rdLo rs rm) : Laws.RoundTrip.Statement (.smlal c s rdHi rdLo rs rm) := fun _ =>
  roundTrip_arm rfl ((decodeFields_cond _ c rfl).trans (by cases s <;> rfl))

theorem Laws.RoundTrip.swp (c rn rd sbz rm) : Laws.RoundTrip.Statement (.swp c rn rd sbz rm) := fun _ =>
  roundTrip_arm rfl ((decodeFields_cond _ c rfl).trans (rfl))

theorem Laws.RoundTrip.swpb (c rn rd sbz rm) : Laws.RoundTrip.Statement (.swpb c rn rd sbz rm) := fun _ =>
  roundTrip_arm rfl ((decodeFields_cond _ c rfl).trans (rfl))

theorem Laws.RoundTrip.undMul (c op rn rd rs rm) : Laws.RoundTrip.Statement (.undMul c op rn rd rs rm) := fun h =>
  roundTrip_arm rfl ((decodeFields_cond _ c rfl).trans (by
    have h' : mulFree op = true := h
    have m : (op != 0b10000#5) = !(op.getLsbD 4 && !op.getLsbD 3 && !op.getLsbD 2 && !op.getLsbD 1 && !op.getLsbD 0) := by
      clear h h'
      revert op
      decide
    have m' : (op != 0b10100#5) = !(op.getLsbD 4 && !op.getLsbD 3 && op.getLsbD 2 && !op.getLsbD 1 && !op.getLsbD 0) := by
      clear h h' m
      revert op
      decide
    have r := congrArg (fun o => Instr.undMul c o rn rd rs rm) (join5 op)
    unfold mulFree at h'
    rw [m, m'] at h'
    show decodeCond c (mulFields c (op.getLsbD 4) (op.getLsbD 3) (op.getLsbD 2) (op.getLsbD 1) (op.getLsbD 0) rn rd rs rm) = _
    generalize op.getLsbD 4 = a4 at *
    generalize op.getLsbD 3 = a3 at *
    generalize op.getLsbD 2 = a2 at *
    generalize op.getLsbD 1 = a1 at *
    generalize op.getLsbD 0 = a0 at *
    cases a4 <;> cases a3 <;> cases a2 <;> cases a1 <;> cases a0 <;> first
      | exact r
      | exact absurd h' Bool.false_ne_true))

theorem Laws.RoundTrip.strh (c ix rd off) : Laws.RoundTrip.Statement (.strh c ix rd off) := fun _ =>
  roundTrip_arm rfl ((decodeFields_cond _ c (by cases off <;> rfl)).trans (by
    obtain ⟨p, u, w, rn⟩ := ix
    cases p <;> cases u <;> cases off <;> exact congrArg (Instr.strh c _ rd) (Fields.off3_setOff3 _ _)))

theorem Laws.RoundTrip.ldrh (c ix rd off) : Laws.RoundTrip.Statement (.ldrh c ix rd off) := fun _ =>
  roundTrip_arm rfl ((decodeFields_cond _ c (by cases off <;> rfl)).trans (by
    obtain ⟨p, u, w, rn⟩ := ix
    cases p <;> cases u <;> cases off <;> exact congrArg (Instr.ldrh c _ rd) (Fields.off3_setOff3 _ _)))

theorem Laws.RoundTrip.ldrd (c ix rd off) : Laws.RoundTrip.Statement (.ldrd c ix rd off) := fun _ =>
  roundTrip_arm rfl ((decodeFields_cond _ c (by cases off <;> rfl)).trans (by
    obtain ⟨p, u, w, rn⟩ := ix
    cases p <;> cases u <;> cases off <;> exact congrArg (Instr.ldrd c _ rd) (Fields.off3_setOff3 _ _)))

theorem Laws.RoundTrip.ldrsb (c ix rd off) : Laws.RoundTrip.Statement (.ldrsb c ix rd off) := fun _ =>
  roundTrip_arm rfl ((decodeFields_cond _ c (by cases off <;> rfl)).trans (by
    obtain ⟨p, u, w, rn⟩ := ix
    cases p <;> cases u <;> cases off <;> exact congrArg (Instr.ldrsb c _ rd) (Fields.off3_setOff3 _ _)))

theorem Laws.RoundTrip.strd (c ix rd off) : Laws.RoundTrip.Statement (.strd c ix rd off) := fun _ =>
  roundTrip_arm rfl ((decodeFields_cond _ c (by cases off <;> rfl)).trans (by
    obtain ⟨p, u, w, rn⟩ := ix
    cases p <;> cases u <;> cases off <;> exact congrArg (Instr.strd c _ rd) (Fields.off3_setOff3 _ _)))

theorem Laws.RoundTrip.ldrsh (c ix rd off) : Laws.RoundTrip.Statement (.ldrsh c ix rd off) := fun _ =>
  roundTrip_arm rfl ((decodeFields_cond _ c (by cases off <;> rfl)).trans (by
    obtain ⟨p, u, w, rn⟩ := ix
    cases p <;> cases u <;> cases off <;> exact congrArg (Instr.ldrsh c _ rd) (Fields.off3_setOff3 _ _)))

theorem Laws.RoundTrip.undMsr (c r body) : Laws.RoundTrip.Statement (.undMsr c r body) := fun _ =>
  roundTrip_arm rfl ((decodeFields_cond _ c rfl).trans (congrArg (Instr.undMsr c r) (Fields.low20_setLow20 _ _)))

theorem Laws.RoundTrip.msrImm (c r mask sbo rot imm8) : Laws.RoundTrip.Statement (.msrImm c r mask sbo rot imm8) := fun _ =>
  roundTrip_arm rfl ((decodeFields_cond _ c rfl).trans (congrArg (Instr.msrImm c r mask sbo rot) (join8 imm8)))

theorem Laws.RoundTrip.and (c s rn rd op) : Laws.RoundTrip.Statement (.and c s rn rd op) := fun _ =>
  roundTrip_arm rfl ((decodeFields_cond _ c (by cases op <;> rfl)).trans (by
    cases s <;> cases op <;> exact congrArg (Instr.and c _ rn rd) (Fields.op2_setOp2 _ _)))

theorem Laws.RoundTrip.eor (c s rn rd op) : Laws.RoundTrip.Statement (.eor c s rn rd op) := fun _ =>
  roundTrip_arm rfl ((decodeFields_cond _ c (by cases op <;> rfl)).trans (by
    cases s <;> cases op <;> exact congrArg (Instr.eor c _ rn rd) (Fields.op2_setOp2 _ _)))

theorem Laws.RoundTrip.sub (c s rn rd op) : Laws.RoundTrip.Statement (.sub c s rn rd op) := fun _ =>
  roundTrip_arm rfl ((decodeFields_cond _ c (by cases op <;> rfl)).trans (by
    cases s <;> cases op <;> exact congrArg (Instr.sub c _ rn rd) (Fields.op2_setOp2 _ _)))

theorem Laws.RoundTrip.rsb (c s rn rd op) : Laws.RoundTrip.Statement (.rsb c s rn rd op) := fun _ =>
  roundTrip_arm rfl ((decodeFields_cond _ c (by cases op <;> rfl)).trans (by
    cases s <;> cases op <;> exact congrArg (Instr.rsb c _ rn rd) (Fields.op2_setOp2 _ _)))

theorem Laws.RoundTrip.add (c s rn rd op) : Laws.RoundTrip.Statement (.add c s rn rd op) := fun _ =>
  roundTrip_arm rfl ((decodeFields_cond _ c (by cases op <;> rfl)).trans (by
    cases s <;> cases op <;> exact congrArg (Instr.add c _ rn rd) (Fields.op2_setOp2 _ _)))

theorem Laws.RoundTrip.adc (c s rn rd op) : Laws.RoundTrip.Statement (.adc c s rn rd op) := fun _ =>
  roundTrip_arm rfl ((decodeFields_cond _ c (by cases op <;> rfl)).trans (by
    cases s <;> cases op <;> exact congrArg (Instr.adc c _ rn rd) (Fields.op2_setOp2 _ _)))

theorem Laws.RoundTrip.sbc (c s rn rd op) : Laws.RoundTrip.Statement (.sbc c s rn rd op) := fun _ =>
  roundTrip_arm rfl ((decodeFields_cond _ c (by cases op <;> rfl)).trans (by
    cases s <;> cases op <;> exact congrArg (Instr.sbc c _ rn rd) (Fields.op2_setOp2 _ _)))

theorem Laws.RoundTrip.rsc (c s rn rd op) : Laws.RoundTrip.Statement (.rsc c s rn rd op) := fun _ =>
  roundTrip_arm rfl ((decodeFields_cond _ c (by cases op <;> rfl)).trans (by
    cases s <;> cases op <;> exact congrArg (Instr.rsc c _ rn rd) (Fields.op2_setOp2 _ _)))

theorem Laws.RoundTrip.tst (c rn sbz op) : Laws.RoundTrip.Statement (.tst c rn sbz op) := fun _ =>
  roundTrip_arm rfl ((decodeFields_cond _ c (by cases op <;> rfl)).trans (by
    cases op <;> exact congrArg (Instr.tst c rn sbz) (Fields.op2_setOp2 _ _)))

theorem Laws.RoundTrip.teq (c rn sbz op) : Laws.RoundTrip.Statement (.teq c rn sbz op) := fun _ =>
  roundTrip_arm rfl ((decodeFields_cond _ c (by cases op <;> rfl)).trans (by
    cases op <;> exact congrArg (Instr.teq c rn sbz) (Fields.op2_setOp2 _ _)))

theorem Laws.RoundTrip.cmp (c rn sbz op) : Laws.RoundTrip.Statement (.cmp c rn sbz op) := fun _ =>
  roundTrip_arm rfl ((decodeFields_cond _ c (by cases op <;> rfl)).trans (by
    cases op <;> exact congrArg (Instr.cmp c rn sbz) (Fields.op2_setOp2 _ _)))

theorem Laws.RoundTrip.cmn (c rn sbz op) : Laws.RoundTrip.Statement (.cmn c rn sbz op) := fun _ =>
  roundTrip_arm rfl ((decodeFields_cond _ c (by cases op <;> rfl)).trans (by
    cases op <;> exact congrArg (Instr.cmn c rn sbz) (Fields.op2_setOp2 _ _)))

theorem Laws.RoundTrip.orr (c s rn rd op) : Laws.RoundTrip.Statement (.orr c s rn rd op) := fun _ =>
  roundTrip_arm rfl ((decodeFields_cond _ c (by cases op <;> rfl)).trans (by
    cases s <;> cases op <;> exact congrArg (Instr.orr c _ rn rd) (Fields.op2_setOp2 _ _)))

theorem Laws.RoundTrip.mov (c s sbz rd op) : Laws.RoundTrip.Statement (.mov c s sbz rd op) := fun _ =>
  roundTrip_arm rfl ((decodeFields_cond _ c (by cases op <;> rfl)).trans (by
    cases s <;> cases op <;> exact congrArg (Instr.mov c _ sbz rd) (Fields.op2_setOp2 _ _)))

theorem Laws.RoundTrip.bic (c s rn rd op) : Laws.RoundTrip.Statement (.bic c s rn rd op) := fun _ =>
  roundTrip_arm rfl ((decodeFields_cond _ c (by cases op <;> rfl)).trans (by
    cases s <;> cases op <;> exact congrArg (Instr.bic c _ rn rd) (Fields.op2_setOp2 _ _)))

theorem Laws.RoundTrip.mvn (c s sbz rd op) : Laws.RoundTrip.Statement (.mvn c s sbz rd op) := fun _ =>
  roundTrip_arm rfl ((decodeFields_cond _ c (by cases op <;> rfl)).trans (by
    cases s <;> cases op <;> exact congrArg (Instr.mvn c _ sbz rd) (Fields.op2_setOp2 _ _)))

theorem Laws.RoundTrip.undMedia (c op rn rd rs mid rm) : Laws.RoundTrip.Statement (.undMedia c op rn rd rs mid rm) := fun _ =>
  roundTrip_arm rfl ((decodeFields_cond _ c rfl).trans (by
    have e := join5 op
    have m := tri_getLsbD mid
    exact congr (congrArg (fun o m => Instr.undMedia c o rn rd rs m rm) e) m))

theorem Laws.RoundTrip.ldrt (c u rn rd off) : Laws.RoundTrip.Statement (.ldrt c u rn rd off) := fun _ =>
  roundTrip_arm rfl ((decodeFields_cond _ c (by cases off <;> rfl)).trans (by
    cases off <;> exact congrArg (Instr.ldrt c u rn rd) (Fields.off2_setOff2 _ _)))

theorem Laws.RoundTrip.ldrbt (c u rn rd off) : Laws.RoundTrip.Statement (.ldrbt c u rn rd off) := fun _ =>
  roundTrip_arm rfl ((decodeFields_cond _ c (by cases off <;> rfl)).trans (by
    cases off <;> exact congrArg (Instr.ldrbt c u rn rd) (Fields.off2_setOff2 _ _)))

theorem Laws.RoundTrip.strt (c u rn rd off) : Laws.RoundTrip.Statement (.strt c u rn rd off) := fun _ =>
  roundTrip_arm rfl ((decodeFields_cond _ c (by cases off <;> rfl)).trans (by
    cases off <;> exact congrArg (Instr.strt c u rn rd) (Fields.off2_setOff2 _ _)))

theorem Laws.RoundTrip.strbt (c u rn rd off) : Laws.RoundTrip.Statement (.strbt c u rn rd off) := fun _ =>
  roundTrip_arm rfl ((decodeFields_cond _ c (by cases off <;> rfl)).trans (by
    cases off <;> exact congrArg (Instr.strbt c u rn rd) (Fields.off2_setOff2 _ _)))

theorem Laws.RoundTrip.ldr (c ix rd off) : Laws.RoundTrip.Statement (.ldr c ix rd off) := fun h =>
  roundTrip_arm rfl ((decodeFields_cond _ c (by cases off <;> rfl)).trans (by
    obtain ⟨p, u, w, rn⟩ := ix
    cases p <;> cases w <;> first
      | exact absurd h Bool.false_ne_true
      | (cases off <;> exact congrArg (Instr.ldr c _ rd) (Fields.off2_setOff2 _ _))))

theorem Laws.RoundTrip.ldrb (c ix rd off) : Laws.RoundTrip.Statement (.ldrb c ix rd off) := fun h =>
  roundTrip_arm rfl ((decodeFields_cond _ c (by cases off <;> rfl)).trans (by
    obtain ⟨p, u, w, rn⟩ := ix
    cases p <;> cases w <;> first
      | exact absurd h Bool.false_ne_true
      | (cases off <;> exact congrArg (Instr.ldrb c _ rd) (Fields.off2_setOff2 _ _))))

theorem Laws.RoundTrip.str (c ix rd off) : Laws.RoundTrip.Statement (.str c ix rd off) := fun h =>
  roundTrip_arm rfl ((decodeFields_cond _ c (by cases off <;> rfl)).trans (by
    obtain ⟨p, u, w, rn⟩ := ix
    cases p <;> cases w <;> first
      | exact absurd h Bool.false_ne_true
      | (cases off <;> exact congrArg (Instr.str c _ rd) (Fields.off2_setOff2 _ _))))

theorem Laws.RoundTrip.strb (c ix rd off) : Laws.RoundTrip.Statement (.strb c ix rd off) := fun h =>
  roundTrip_arm rfl ((decodeFields_cond _ c (by cases off <;> rfl)).trans (by
    obtain ⟨p, u, w, rn⟩ := ix
    cases p <;> cases w <;> first
      | exact absurd h Bool.false_ne_true
      | (cases off <;> exact congrArg (Instr.strb c _ rd) (Fields.off2_setOff2 _ _))))

theorem Laws.RoundTrip.ldm1 (c ix list) : Laws.RoundTrip.Statement (.ldm1 c ix list) := fun _ =>
  roundTrip_arm rfl ((decodeFields_cond _ c rfl).trans (congrArg (Instr.ldm1 c ix) (Fields.low16_setLow16 _ _)))

theorem Laws.RoundTrip.ldm2 (c ix list) : Laws.RoundTrip.Statement (.ldm2 c ix list) := fun _ =>
  roundTrip_arm rfl ((decodeFields_cond _ c rfl).trans (by
    have t := Fields.setLow15_top (multipleFields c true true ix) false list
    have e := Fields.low15_setLow15 (multipleFields c true true ix) false list
    show (match true, true, (Fields.setLow15 (multipleFields c true true ix) false list).rd.getLsbD 3 with
      | true, false, _ => Instr.ldm1 c _ _ | true, true, false => .ldm2 c _ _ | true, true, true => .ldm3 c _ _
      | false, false, _ => .stm1 c _ _ | false, true, _ => .stm2 c _ _) = _
    rw [t]
    exact congrArg (Instr.ldm2 c ix) e))

theorem Laws.RoundTrip.ldm3 (c ix list) : Laws.RoundTrip.Statement (.ldm3 c ix list) := fun _ =>
  roundTrip_arm rfl ((decodeFields_cond _ c rfl).trans (by
    have t := Fields.setLow15_top (multipleFields c true true ix) true list
    have e := Fields.low15_setLow15 (multipleFields c true true ix) true list
    show (match true, true, (Fields.setLow15 (multipleFields c true true ix) true list).rd.getLsbD 3 with
      | true, false, _ => Instr.ldm1 c _ _ | true, true, false => .ldm2 c _ _ | true, true, true => .ldm3 c _ _
      | false, false, _ => .stm1 c _ _ | false, true, _ => .stm2 c _ _) = _
    rw [t]
    exact congrArg (Instr.ldm3 c ix) e))

theorem Laws.RoundTrip.stm1 (c ix list) : Laws.RoundTrip.Statement (.stm1 c ix list) := fun _ =>
  roundTrip_arm rfl ((decodeFields_cond _ c rfl).trans (congrArg (Instr.stm1 c ix) (Fields.low16_setLow16 _ _)))

theorem Laws.RoundTrip.stm2 (c ix list) : Laws.RoundTrip.Statement (.stm2 c ix list) := fun _ =>
  roundTrip_arm rfl ((decodeFields_cond _ c rfl).trans (congrArg (Instr.stm2 c ix) (Fields.low16_setLow16 _ _)))

theorem Laws.RoundTrip.b (c imm) : Laws.RoundTrip.Statement (.b c imm) := fun _ =>
  roundTrip_arm rfl ((decodeFields_cond _ c rfl).trans (congrArg (Instr.b c) (Fields.low24_setLow24 _ _)))

theorem Laws.RoundTrip.bl (c imm) : Laws.RoundTrip.Statement (.bl c imm) := fun _ =>
  roundTrip_arm rfl ((decodeFields_cond _ c rfl).trans (congrArg (Instr.bl c) (Fields.low24_setLow24 _ _)))

theorem Laws.RoundTrip.undCpExt (c l body) : Laws.RoundTrip.Statement (.undCpExt c l body) := fun _ =>
  roundTrip_arm rfl ((decodeFields_cond _ c rfl).trans (congrArg (Instr.undCpExt c l) (Fields.low20_setLow20 _ _)))

theorem Laws.RoundTrip.mcrr (c rn rd cp opc crm) : Laws.RoundTrip.Statement (.mcrr c rn rd cp opc crm) := fun _ =>
  roundTrip_arm rfl ((decodeFields_cond _ c rfl).trans (congrArg (Instr.mcrr c rn rd cp · crm) (nib_getLsbD opc)))

theorem Laws.RoundTrip.mrrc (c rn rd cp opc crm) : Laws.RoundTrip.Statement (.mrrc c rn rd cp opc crm) := fun _ =>
  roundTrip_arm rfl ((decodeFields_cond _ c rfl).trans (congrArg (Instr.mrrc c rn rd cp · crm) (nib_getLsbD opc)))

theorem Laws.RoundTrip.ldc (c f) : Laws.RoundTrip.Statement (.ldc c f) := fun h =>
  roundTrip_arm rfl ((decodeFields_cond _ c rfl).trans (by
    obtain ⟨p, u, n, w, rn, crd, cp, offset⟩ := f
    cases p <;> cases u <;> cases w <;> first
      | exact congrArg (Instr.ldc c) (Fields.cpMem_setCpMem _ _)
      | exact absurd h Bool.false_ne_true))

theorem Laws.RoundTrip.stc (c f) : Laws.RoundTrip.Statement (.stc c f) := fun h =>
  roundTrip_arm rfl ((decodeFields_cond _ c rfl).trans (by
    obtain ⟨p, u, n, w, rn, crd, cp, offset⟩ := f
    cases p <;> cases u <;> cases w <;> first
      | exact congrArg (Instr.stc c) (Fields.cpMem_setCpMem _ _)
      | exact absurd h Bool.false_ne_true))

theorem Laws.RoundTrip.cdp (c f) : Laws.RoundTrip.Statement (.cdp c f) := fun _ =>
  roundTrip_arm rfl ((decodeFields_cond _ c rfl).trans (congrArg (Instr.cdp c) (Fields.cpOp_setCpOp _ _)))

theorem Laws.RoundTrip.mcr (c f) : Laws.RoundTrip.Statement (.mcr c f) := fun _ =>
  roundTrip_arm rfl ((decodeFields_cond _ c rfl).trans (congrArg (Instr.mcr c) (Fields.cpReg_setCpReg _ _ _)))

theorem Laws.RoundTrip.mrc (c f) : Laws.RoundTrip.Statement (.mrc c f) := fun _ =>
  roundTrip_arm rfl ((decodeFields_cond _ c rfl).trans (congrArg (Instr.mrc c) (Fields.cpReg_setCpReg _ _ _)))

theorem Laws.RoundTrip.swi (c imm) : Laws.RoundTrip.Statement (.swi c imm) := fun _ =>
  roundTrip_arm rfl ((decodeFields_cond _ c rfl).trans (congrArg (Instr.swi c) (Fields.low24_setLow24 _ _)))

theorem Laws.RoundTrip.tAddReg (rm rn rd) : Laws.RoundTrip.Statement (.tAddReg rm rn rd) := fun _ =>
  roundTrip_thumb rfl rfl (congr (congr (congrArg (fun rm rn rd => Instr.tAddReg rm rn rd) (tri_getLsbD rm)) (tri_getLsbD rn)) (tri_getLsbD rd))

theorem Laws.RoundTrip.tSubReg (rm rn rd) : Laws.RoundTrip.Statement (.tSubReg rm rn rd) := fun _ =>
  roundTrip_thumb rfl rfl (congr (congr (congrArg (fun rm rn rd => Instr.tSubReg rm rn rd) (tri_getLsbD rm)) (tri_getLsbD rn)) (tri_getLsbD rd))

theorem Laws.RoundTrip.tAddImm3 (imm rn rd) : Laws.RoundTrip.Statement (.tAddImm3 imm rn rd) := fun _ =>
  roundTrip_thumb rfl rfl (congr (congr (congrArg (fun imm rn rd => Instr.tAddImm3 imm rn rd) (tri_getLsbD imm)) (tri_getLsbD rn)) (tri_getLsbD rd))

theorem Laws.RoundTrip.tSubImm3 (imm rn rd) : Laws.RoundTrip.Statement (.tSubImm3 imm rn rd) := fun _ =>
  roundTrip_thumb rfl rfl (congr (congr (congrArg (fun imm rn rd => Instr.tSubImm3 imm rn rd) (tri_getLsbD imm)) (tri_getLsbD rn)) (tri_getLsbD rd))

theorem Laws.RoundTrip.tLslImm (imm rm rd) : Laws.RoundTrip.Statement (.tLslImm imm rm rd) := fun _ =>
  roundTrip_thumb rfl rfl (congr (congr (congrArg (fun imm rm rd => Instr.tLslImm imm rm rd) (join5 imm)) (tri_getLsbD rm)) (tri_getLsbD rd))

theorem Laws.RoundTrip.tLsrImm (imm rm rd) : Laws.RoundTrip.Statement (.tLsrImm imm rm rd) := fun _ =>
  roundTrip_thumb rfl rfl (congr (congr (congrArg (fun imm rm rd => Instr.tLsrImm imm rm rd) (join5 imm)) (tri_getLsbD rm)) (tri_getLsbD rd))

theorem Laws.RoundTrip.tAsrImm (imm rm rd) : Laws.RoundTrip.Statement (.tAsrImm imm rm rd) := fun _ =>
  roundTrip_thumb rfl rfl (congr (congr (congrArg (fun imm rm rd => Instr.tAsrImm imm rm rd) (join5 imm)) (tri_getLsbD rm)) (tri_getLsbD rd))

theorem Laws.RoundTrip.tMovImm (rd imm) : Laws.RoundTrip.Statement (.tMovImm rd imm) := fun _ =>
  roundTrip_thumb rfl rfl (congr (congrArg (fun rd imm => Instr.tMovImm rd imm) (tri_getLsbD rd)) (join8' imm))

theorem Laws.RoundTrip.tCmpImm (rn imm) : Laws.RoundTrip.Statement (.tCmpImm rn imm) := fun _ =>
  roundTrip_thumb rfl rfl (congr (congrArg (fun rn imm => Instr.tCmpImm rn imm) (tri_getLsbD rn)) (join8' imm))

theorem Laws.RoundTrip.tAddImm8 (rd imm) : Laws.RoundTrip.Statement (.tAddImm8 rd imm) := fun _ =>
  roundTrip_thumb rfl rfl (congr (congrArg (fun rd imm => Instr.tAddImm8 rd imm) (tri_getLsbD rd)) (join8' imm))

theorem Laws.RoundTrip.tSubImm8 (rd imm) : Laws.RoundTrip.Statement (.tSubImm8 rd imm) := fun _ =>
  roundTrip_thumb rfl rfl (congr (congrArg (fun rd imm => Instr.tSubImm8 rd imm) (tri_getLsbD rd)) (join8' imm))

theorem Laws.RoundTrip.tAnd (rm rd) : Laws.RoundTrip.Statement (.tAnd rm rd) := fun _ =>
  roundTrip_thumb rfl rfl (congr (congrArg (fun rm rd => Instr.tAnd rm rd) (tri_getLsbD rm)) (tri_getLsbD rd))

theorem Laws.RoundTrip.tEor (rm rd) : Laws.RoundTrip.Statement (.tEor rm rd) := fun _ =>
  roundTrip_thumb rfl rfl (congr (congrArg (fun rm rd => Instr.tEor rm rd) (tri_getLsbD rm)) (tri_getLsbD rd))

theorem Laws.RoundTrip.tLslReg (rs rd) : Laws.RoundTrip.Statement (.tLslReg rs rd) := fun _ =>
  roundTrip_thumb rfl rfl (congr (congrArg (fun rs rd => Instr.tLslReg rs rd) (tri_getLsbD rs)) (tri_getLsbD rd))

theorem Laws.RoundTrip.tLsrReg (rs rd) : Laws.RoundTrip.Statement (.tLsrReg rs rd) := fun _ =>
  roundTrip_thumb rfl rfl (congr (congrArg (fun rs rd => Instr.tLsrReg rs rd) (tri_getLsbD rs)) (tri_getLsbD rd))

theorem Laws.RoundTrip.tAsrReg (rs rd) : Laws.RoundTrip.Statement (.tAsrReg rs rd) := fun _ =>
  roundTrip_thumb rfl rfl (congr (congrArg (fun rs rd => Instr.tAsrReg rs rd) (tri_getLsbD rs)) (tri_getLsbD rd))

theorem Laws.RoundTrip.tAdc (rm rd) : Laws.RoundTrip.Statement (.tAdc rm rd) := fun _ =>
  roundTrip_thumb rfl rfl (congr (congrArg (fun rm rd => Instr.tAdc rm rd) (tri_getLsbD rm)) (tri_getLsbD rd))

theorem Laws.RoundTrip.tSbc (rm rd) : Laws.RoundTrip.Statement (.tSbc rm rd) := fun _ =>
  roundTrip_thumb rfl rfl (congr (congrArg (fun rm rd => Instr.tSbc rm rd) (tri_getLsbD rm)) (tri_getLsbD rd))

theorem Laws.RoundTrip.tRor (rs rd) : Laws.RoundTrip.Statement (.tRor rs rd) := fun _ =>
  roundTrip_thumb rfl rfl (congr (congrArg (fun rs rd => Instr.tRor rs rd) (tri_getLsbD rs)) (tri_getLsbD rd))

theorem Laws.RoundTrip.tTst (rm rn) : Laws.RoundTrip.Statement (.tTst rm rn) := fun _ =>
  roundTrip_thumb rfl rfl (congr (congrArg (fun rm rn => Instr.tTst rm rn) (tri_getLsbD rm)) (tri_getLsbD rn))

theorem Laws.RoundTrip.tNeg (rm rd) : Laws.RoundTrip.Statement (.tNeg rm rd) := fun _ =>
  roundTrip_thumb rfl rfl (congr (congrArg (fun rm rd => Instr.tNeg rm rd) (tri_getLsbD rm)) (tri_getLsbD rd))

theorem Laws.RoundTrip.tCmpReg (rm rn) : Laws.RoundTrip.Statement (.tCmpReg rm rn) := fun _ =>
  roundTrip_thumb rfl rfl (congr (congrArg (fun rm rn => Instr.tCmpReg rm rn) (tri_getLsbD rm)) (tri_getLsbD rn))

theorem Laws.RoundTrip.tCmn (rm rn) : Laws.RoundTrip.Statement (.tCmn rm rn) := fun _ =>
  roundTrip_thumb rfl rfl (congr (congrArg (fun rm rn => Instr.tCmn rm rn) (tri_getLsbD rm)) (tri_getLsbD rn))

theorem Laws.RoundTrip.tOrr (rm rd) : Laws.RoundTrip.Statement (.tOrr rm rd) := fun _ =>
  roundTrip_thumb rfl rfl (congr (congrArg (fun rm rd => Instr.tOrr rm rd) (tri_getLsbD rm)) (tri_getLsbD rd))

theorem Laws.RoundTrip.tMul (rm rd) : Laws.RoundTrip.Statement (.tMul rm rd) := fun _ =>
  roundTrip_thumb rfl rfl (congr (congrArg (fun rm rd => Instr.tMul rm rd) (tri_getLsbD rm)) (tri_getLsbD rd))

theorem Laws.RoundTrip.tBic (rm rd) : Laws.RoundTrip.Statement (.tBic rm rd) := fun _ =>
  roundTrip_thumb rfl rfl (congr (congrArg (fun rm rd => Instr.tBic rm rd) (tri_getLsbD rm)) (tri_getLsbD rd))

theorem Laws.RoundTrip.tMvn (rm rd) : Laws.RoundTrip.Statement (.tMvn rm rd) := fun _ =>
  roundTrip_thumb rfl rfl (congr (congrArg (fun rm rd => Instr.tMvn rm rd) (tri_getLsbD rm)) (tri_getLsbD rd))

theorem Laws.RoundTrip.tAddHi (rm rd) : Laws.RoundTrip.Statement (.tAddHi rm rd) := fun _ =>
  roundTrip_thumb rfl rfl (congr (congrArg (fun rm rd => Instr.tAddHi rm rd) (nib_getLsbD rm)) (nib_getLsbD rd))

theorem Laws.RoundTrip.tCmpHi (rm rn) : Laws.RoundTrip.Statement (.tCmpHi rm rn) := fun _ =>
  roundTrip_thumb rfl rfl (congr (congrArg (fun rm rn => Instr.tCmpHi rm rn) (nib_getLsbD rm)) (nib_getLsbD rn))

theorem Laws.RoundTrip.tMovHi (rm rd) : Laws.RoundTrip.Statement (.tMovHi rm rd) := fun _ =>
  roundTrip_thumb rfl rfl (congr (congrArg (fun rm rd => Instr.tMovHi rm rd) (nib_getLsbD rm)) (nib_getLsbD rd))

theorem Laws.RoundTrip.tBx (rm sbz) : Laws.RoundTrip.Statement (.tBx rm sbz) := fun _ =>
  roundTrip_thumb rfl rfl (congr (congrArg (fun rm sbz => Instr.tBx rm sbz) (nib_getLsbD rm)) (tri_getLsbD sbz))

theorem Laws.RoundTrip.tBlxReg (rm sbz) : Laws.RoundTrip.Statement (.tBlxReg rm sbz) := fun _ =>
  roundTrip_thumb rfl rfl (congr (congrArg (fun rm sbz => Instr.tBlxReg rm sbz) (nib_getLsbD rm)) (tri_getLsbD sbz))

theorem Laws.RoundTrip.tLdrPc (rd imm) : Laws.RoundTrip.Statement (.tLdrPc rd imm) := fun _ =>
  roundTrip_thumb rfl rfl (congr (congrArg (fun rd imm => Instr.tLdrPc rd imm) (tri_getLsbD rd)) (join8' imm))

theorem Laws.RoundTrip.tStrReg (rm rn rd) : Laws.RoundTrip.Statement (.tStrReg rm rn rd) := fun _ =>
  roundTrip_thumb rfl rfl (congr (congr (congrArg (fun rm rn rd => Instr.tStrReg rm rn rd) (tri_getLsbD rm)) (tri_getLsbD rn)) (tri_getLsbD rd))

theorem Laws.RoundTrip.tStrhReg (rm rn rd) : Laws.RoundTrip.Statement (.tStrhReg rm rn rd) := fun _ =>
  roundTrip_thumb rfl rfl (congr (congr (congrArg (fun rm rn rd => Instr.tStrhReg rm rn rd) (tri_getLsbD rm)) (tri_getLsbD rn)) (tri_getLsbD rd))

theorem Laws.RoundTrip.tStrbReg (rm rn rd) : Laws.RoundTrip.Statement (.tStrbReg rm rn rd) := fun _ =>
  roundTrip_thumb rfl rfl (congr (congr (congrArg (fun rm rn rd => Instr.tStrbReg rm rn rd) (tri_getLsbD rm)) (tri_getLsbD rn)) (tri_getLsbD rd))

theorem Laws.RoundTrip.tLdrsbReg (rm rn rd) : Laws.RoundTrip.Statement (.tLdrsbReg rm rn rd) := fun _ =>
  roundTrip_thumb rfl rfl (congr (congr (congrArg (fun rm rn rd => Instr.tLdrsbReg rm rn rd) (tri_getLsbD rm)) (tri_getLsbD rn)) (tri_getLsbD rd))

theorem Laws.RoundTrip.tLdrReg (rm rn rd) : Laws.RoundTrip.Statement (.tLdrReg rm rn rd) := fun _ =>
  roundTrip_thumb rfl rfl (congr (congr (congrArg (fun rm rn rd => Instr.tLdrReg rm rn rd) (tri_getLsbD rm)) (tri_getLsbD rn)) (tri_getLsbD rd))

theorem Laws.RoundTrip.tLdrhReg (rm rn rd) : Laws.RoundTrip.Statement (.tLdrhReg rm rn rd) := fun _ =>
  roundTrip_thumb rfl rfl (congr (congr (congrArg (fun rm rn rd => Instr.tLdrhReg rm rn rd) (tri_getLsbD rm)) (tri_getLsbD rn)) (tri_getLsbD rd))

theorem Laws.RoundTrip.tLdrbReg (rm rn rd) : Laws.RoundTrip.Statement (.tLdrbReg rm rn rd) := fun _ =>
  roundTrip_thumb rfl rfl (congr (congr (congrArg (fun rm rn rd => Instr.tLdrbReg rm rn rd) (tri_getLsbD rm)) (tri_getLsbD rn)) (tri_getLsbD rd))

theorem Laws.RoundTrip.tLdrshReg (rm rn rd) : Laws.RoundTrip.Statement (.tLdrshReg rm rn rd) := fun _ =>
  roundTrip_thumb rfl rfl (congr (congr (congrArg (fun rm rn rd => Instr.tLdrshReg rm rn rd) (tri_getLsbD rm)) (tri_getLsbD rn)) (tri_getLsbD rd))

theorem Laws.RoundTrip.tStrImm (imm rn rd) : Laws.RoundTrip.Statement (.tStrImm imm rn rd) := fun _ =>
  roundTrip_thumb rfl rfl (congr (congr (congrArg (fun imm rn rd => Instr.tStrImm imm rn rd) (join5 imm)) (tri_getLsbD rn)) (tri_getLsbD rd))

theorem Laws.RoundTrip.tLdrImm (imm rn rd) : Laws.RoundTrip.Statement (.tLdrImm imm rn rd) := fun _ =>
  roundTrip_thumb rfl rfl (congr (congr (congrArg (fun imm rn rd => Instr.tLdrImm imm rn rd) (join5 imm)) (tri_getLsbD rn)) (tri_getLsbD rd))

theorem Laws.RoundTrip.tStrbImm (imm rn rd) : Laws.RoundTrip.Statement (.tStrbImm imm rn rd) := fun _ =>
  roundTrip_thumb rfl rfl (congr (congr (congrArg (fun imm rn rd => Instr.tStrbImm imm rn rd) (join5 imm)) (tri_getLsbD rn)) (tri_getLsbD rd))

theorem Laws.RoundTrip.tLdrbImm (imm rn rd) : Laws.RoundTrip.Statement (.tLdrbImm imm rn rd) := fun _ =>
  roundTrip_thumb rfl rfl (congr (congr (congrArg (fun imm rn rd => Instr.tLdrbImm imm rn rd) (join5 imm)) (tri_getLsbD rn)) (tri_getLsbD rd))

theorem Laws.RoundTrip.tStrhImm (imm rn rd) : Laws.RoundTrip.Statement (.tStrhImm imm rn rd) := fun _ =>
  roundTrip_thumb rfl rfl (congr (congr (congrArg (fun imm rn rd => Instr.tStrhImm imm rn rd) (join5 imm)) (tri_getLsbD rn)) (tri_getLsbD rd))

theorem Laws.RoundTrip.tLdrhImm (imm rn rd) : Laws.RoundTrip.Statement (.tLdrhImm imm rn rd) := fun _ =>
  roundTrip_thumb rfl rfl (congr (congr (congrArg (fun imm rn rd => Instr.tLdrhImm imm rn rd) (join5 imm)) (tri_getLsbD rn)) (tri_getLsbD rd))

theorem Laws.RoundTrip.tStrSp (rd imm) : Laws.RoundTrip.Statement (.tStrSp rd imm) := fun _ =>
  roundTrip_thumb rfl rfl (congr (congrArg (fun rd imm => Instr.tStrSp rd imm) (tri_getLsbD rd)) (join8' imm))

theorem Laws.RoundTrip.tLdrSp (rd imm) : Laws.RoundTrip.Statement (.tLdrSp rd imm) := fun _ =>
  roundTrip_thumb rfl rfl (congr (congrArg (fun rd imm => Instr.tLdrSp rd imm) (tri_getLsbD rd)) (join8' imm))

theorem Laws.RoundTrip.tAddPc (rd imm) : Laws.RoundTrip.Statement (.tAddPc rd imm) := fun _ =>
  roundTrip_thumb rfl rfl (congr (congrArg (fun rd imm => Instr.tAddPc rd imm) (tri_getLsbD rd)) (join8' imm))

theorem Laws.RoundTrip.tAddSpRd (rd imm) : Laws.RoundTrip.Statement (.tAddSpRd rd imm) := fun _ =>
  roundTrip_thumb rfl rfl (congr (congrArg (fun rd imm => Instr.tAddSpRd rd imm) (tri_getLsbD rd)) (join8' imm))

theorem Laws.RoundTrip.tAddSp (imm) : Laws.RoundTrip.Statement (.tAddSp imm) := fun _ =>
  roundTrip_thumb rfl rfl (congrArg (fun imm => Instr.tAddSp imm) (join7 imm))

theorem Laws.RoundTrip.tSubSp (imm) : Laws.RoundTrip.Statement (.tSubSp imm) := fun _ =>
  roundTrip_thumb rfl rfl (congrArg (fun imm => Instr.tSubSp imm) (join7 imm))

theorem Laws.RoundTrip.tPush (r list) : Laws.RoundTrip.Statement (.tPush r list) := fun _ =>
  roundTrip_thumb rfl rfl (by cases r <;> exact congrArg (Instr.tPush _) (join8' list))

theorem Laws.RoundTrip.tPop (r list) : Laws.RoundTrip.Statement (.tPop r list) := fun _ =>
  roundTrip_thumb rfl rfl (by cases r <;> exact congrArg (Instr.tPop _) (join8' list))

theorem Laws.RoundTrip.tBkpt (imm) : Laws.RoundTrip.Statement (.tBkpt imm) := fun _ =>
  roundTrip_thumb rfl rfl (congrArg (fun imm => Instr.tBkpt imm) (join8' imm))

theorem Laws.RoundTrip.tUnd1011 (body) : Laws.RoundTrip.Statement (.tUnd1011 body) := fun h =>
  roundTrip_thumb rfl rfl (decodeBits16_hole body h)

theorem Laws.RoundTrip.tStmia (rn list) : Laws.RoundTrip.Statement (.tStmia rn list) := fun _ =>
  roundTrip_thumb rfl rfl (congr (congrArg (fun rn list => Instr.tStmia rn list) (tri_getLsbD rn)) (join8' list))

theorem Laws.RoundTrip.tLdmia (rn list) : Laws.RoundTrip.Statement (.tLdmia rn list) := fun _ =>
  roundTrip_thumb rfl rfl (congr (congrArg (fun rn list => Instr.tLdmia rn list) (tri_getLsbD rn)) (join8' list))

theorem Laws.RoundTrip.tSwi (imm) : Laws.RoundTrip.Statement (.tSwi imm) := fun _ =>
  roundTrip_thumb rfl rfl (decodeBits16_swi imm)

theorem Laws.RoundTrip.tUndCond (body) : Laws.RoundTrip.Statement (.tUndCond body) := fun _ =>
  roundTrip_thumb rfl rfl (decodeBits16_undCond body)

theorem Laws.RoundTrip.tBcond (c imm) : Laws.RoundTrip.Statement (.tBcond c imm) := fun h =>
  roundTrip_thumb rfl rfl (decodeBits16_cond c imm h)

theorem Laws.RoundTrip.tB (imm) : Laws.RoundTrip.Statement (.tB imm) := fun _ =>
  roundTrip_thumb rfl rfl (congrArg (fun imm => Instr.tB imm) (Bits16.imm11_setImm11 (top8 true true true true false false false false) imm))

theorem Laws.RoundTrip.tUndBlx (body) : Laws.RoundTrip.Statement (.tUndBlx body) := fun _ =>
  roundTrip_thumb rfl rfl (congrArg (fun body => Instr.tUndBlx body) (Bits16.imm10_setImm10 (top8 true true true false true false false false) body))

theorem Laws.RoundTrip.tBlxSuffix (imm) : Laws.RoundTrip.Statement (.tBlxSuffix imm) := fun _ =>
  roundTrip_thumb rfl rfl (congrArg (fun imm => Instr.tBlxSuffix imm) (Bits16.imm10_setImm10 (top8 true true true false true false false false) imm))

theorem Laws.RoundTrip.tBlPrefix (imm) : Laws.RoundTrip.Statement (.tBlPrefix imm) := fun _ =>
  roundTrip_thumb rfl rfl (congrArg (fun imm => Instr.tBlPrefix imm) (Bits16.imm11_setImm11 (top8 true true true true false false false false) imm))

theorem Laws.RoundTrip.tBlSuffix (imm) : Laws.RoundTrip.Statement (.tBlSuffix imm) := fun _ =>
  roundTrip_thumb rfl rfl (congrArg (fun imm => Instr.tBlSuffix imm) (Bits16.imm11_setImm11 (top8 true true true true false false false false) imm))


end Sys2Proof
end

