-- ==== Sys2Proof/Laws/Plain.lean ====
section
/-!
SUPPORT. What the accesses answer in plain memory (`State.plain`): one read, one write; the rest follows from these two.
-/
namespace Sys2Proof.Machine

theorem plain_iff {s : State} : s.plain = true ↔ s.mmuOn = false ∧ s.dcacheOn = false ∧ s.alignOn = false ∧ s.wbuf = []
    ∧ s.castout = none ∧ s.memMap = [] ∧ s.debugEnabled = false ∧ s.halted = false ∧ s.intruders = [] := by
  simp [State.plain, State.noDebug, and_assoc]

/-- The low bits of an address do not matter to the place of a transfer (spec/20 R206). -/
theorem laneAddr_alignDown (big : Bool) (size : BusSize) (a : Word) :
    laneAddr big size (alignDown size a) = laneAddr big size a := by
  cases size <;> cases big <;> simp [laneAddr, alignDown, BitVec.and_assoc]

theorem physRead_alignDown (m : List Host.Cell) (big : Bool) (size : BusSize) (a : Word) :
    physRead m big size (alignDown size a) = physRead m big size a := by
  unfold physRead
  rw [laneAddr_alignDown]

theorem physWrite_alignDown (m : List Host.Cell) (big : Bool) (size : BusSize) (a v : Word) :
    physWrite m big size (alignDown size a) v = physWrite m big size a v := by
  unfold physWrite
  rw [laneAddr_alignDown]

theorem physReadWide_alignDown (m : List Host.Cell) (big : Bool) (size : BusSize) (a : Word) :
    physReadWide m big size (alignDown size a) = physReadWide m big size a := by
  cases size
  case dword =>
    have e : alignDown .dword (alignDown .dword a) = alignDown .dword a := by simp [alignDown, BitVec.and_assoc]
    simp only [physReadWide, e]
  all_goals simp only [physReadWide, physRead_alignDown]

theorem physWriteWide_alignDown (m : List Host.Cell) (big : Bool) (size : BusSize) (a : Word) (v : BitVec 64) :
    physWriteWide m big size (alignDown size a) v = physWriteWide m big size a v := by
  cases size
  case dword =>
    have e : alignDown .dword (alignDown .dword a) = alignDown .dword a := by simp [alignDown, BitVec.and_assoc]
    simp only [physWriteWide, e]
  all_goals simp only [physWriteWide, physWrite_alignDown]

/-- The bits of a relocated address (spec/11 R132). -/
theorem relocate_getLsbD (pid : BitVec 7) (va : Word) (i : Nat) :
    (relocate pid va).getLsbD i =
      if va.extractLsb' 25 7 = 0#7 ∧ 25 ≤ i then pid.getLsbD (i - 25) else va.getLsbD i := by
  have e := BitVec.getLsbD_append (x := pid) (y := va.extractLsb' 0 25) (i := i)
  unfold relocate
  by_cases t : va.extractLsb' 25 7 = 0#7
  · rw [if_pos t]
    refine (show _ = _ from e).trans ?_
    by_cases h : i < 25
    · simp [h, show ¬ 25 ≤ i by omega]
    · simp [h, t, show 25 ≤ i by omega]
  · rw [if_neg t]
    simp [t]

/-- The second word of a pair follows the first in memory too: relocation leaves address bits [24:0] alone (spec/11 R132). -/
theorem relocate_next (pid : BitVec 7) (va : Word) (h : va.getLsbD 2 = false) :
    alignDown .dword (relocate pid va) = alignDown .word (relocate pid va) ∧
      alignDown .word (relocate pid (va + 4#32)) = alignDown .word (relocate pid va) + 4#32 := by
  have o : va + 4#32 = va ||| 4#32 := by
    rw [BitVec.add_eq_or_of_and_eq_zero]
    apply BitVec.eq_of_getLsbD_eq
    intro i hi
    interval_cases i <;> simp_all
  have top : (va + 4#32).extractLsb' 25 7 = va.extractLsb' 25 7 := by
    rw [o]
    apply BitVec.eq_of_getLsbD_eq
    intro i hi
    interval_cases i <;> simp
  have bit : (relocate pid va).getLsbD 2 = false := by
    rw [relocate_getLsbD]
    simpa using h
  have next : relocate pid (va + 4#32) = relocate pid va ||| 4#32 := by
    apply BitVec.eq_of_getLsbD_eq
    intro i hi
    rw [relocate_getLsbD, top, o, BitVec.getLsbD_or, BitVec.getLsbD_or, relocate_getLsbD]
    split
    · have : 25 ≤ i := by omega
      interval_cases i <;> simp
    · rfl
  generalize relocate pid va = a at bit next ⊢
  have e : alignDown .word a + 4#32 = alignDown .word a ||| 4#32 := by
    rw [BitVec.add_eq_or_of_and_eq_zero]
    apply BitVec.eq_of_getLsbD_eq
    intro i hi
    interval_cases i <;> simp_all [alignDown]
  refine ⟨?_, ?_⟩
  · apply BitVec.eq_of_getLsbD_eq
    intro i hi
    interval_cases i <;> simp_all [alignDown]
  · rw [next, e]
    apply BitVec.eq_of_getLsbD_eq
    intro i hi
    interval_cases i <;> simp_all [alignDown]

/-- The doubleword of a pair is its two words (spec/20 R204, R205). -/
theorem physReadWide_pair (m : List Host.Cell) (big : Bool) (pid : BitVec 7) (va : Word) (h : va.getLsbD 2 = false) :
    physReadWide m big .dword (relocate pid va)
      = physRead m big .word (relocate pid (va + 4#32)) ++ physRead m big .word (relocate pid va) := by
  obtain ⟨a, b⟩ := relocate_next pid va h
  simp only [physReadWide, a, ← b, physRead_alignDown]

theorem physWriteWide_pair (m : List Host.Cell) (big : Bool) (pid : BitVec 7) (va v w : Word) (h : va.getLsbD 2 = false) :
    physWriteWide m big .dword (relocate pid va) (w ++ v)
      = physWrite (physWrite m big .word (relocate pid va) v) big .word (relocate pid (va + 4#32)) w := by
  obtain ⟨a, b⟩ := relocate_next pid va h
  simp only [physWriteWide, a, ← b, physWrite_alignDown, low_of_pair, high_of_pair]

/-- No watchpoint is noted where debugging is disabled (spec/61 R907). -/
theorem noteWatch_of_disabled {s : State} (h : s.debugEnabled = false) (va : Word) (size : BusSize) (load priv : Bool) :
    noteWatch va size load priv s = s := by
  simp [noteWatch, watched, h]

theorem noteAccess_of_disabled {s : State} (h : s.debugEnabled = false) (va : Word) (size : BusSize) (load priv : Bool) :
    noteAccess va size load priv s = s := by
  unfold noteAccess
  split <;> simp only [noteWatch_of_disabled h]

/-- Where an access to plain memory goes (spec/20 R210). -/
def plainPlace (s : State) (va : Word) : Located :=
  ⟨relocate s.cp15.pid va, relocate s.cp15.pid va, .ncnb, false, false⟩

theorem locate_plain {s : State} (hm : s.mmuOn = false) (hd : s.dcacheOn = false) (va : Word) (write priv : Bool) :
    locate va write priv s = .ok (plainPlace s va) s := by
  simp only [locate, hm, dataRegion, hd]
  rfl

/-- A transaction leaves the debug unit alone. -/
theorem State.record_debugEnabled (s : State) (r : BusRecord) : (s.record r).debugEnabled = s.debugEnabled := by
  rw [State.debugEnabled, State.debugEnabled, State.record_dbg, State.record_pins]

/-- A read in plain memory (spec/20 R210). -/
theorem memReadWide_plain {s : State} (h : s.plain = true) (va : Word) (size : BusSize) (a : Access) :
    ∃ r, memReadWide va size a s = .ok (physReadWide s.mem s.big size (relocate s.cp15.pid va)) (s.record r) := by
  obtain ⟨hm, hd, ha, hw, hc, hr, hg, -, hi⟩ := plain_iff.mp h
  have hdr : drainAll s = s := drainAll_of_uncached (uncached_iff.mpr ⟨hd, hw, hc, hi⟩)
  have hb : ∃ r, readAt (plainPlace s va) va size a.priv a.ext a.locked s
      = .ok (physReadWide s.mem s.big size (relocate s.cp15.pid va)) (s.record r) := by
    simp only [readAt, plainPlace, RegionType.cachable, hdr, busRead, hr, kindAt, List.find?, physReadWide_alignDown]
    exact ⟨_, rfl⟩
  obtain ⟨r, hb⟩ := hb
  refine ⟨r, ?_⟩
  unfold memReadWide
  rw [ha, Bool.false_and, if_neg Bool.false_ne_true, locate_plain hm hd]
  show (readAt (plainPlace s va) va size a.priv a.ext a.locked s).bind _ = _
  rw [hb]
  exact congrArg (Res.ok _) (noteAccess_of_disabled ((s.record_debugEnabled r).trans hg) _ _ _ _)

/-- A read of at most four bytes in plain memory (spec/20 R210). -/
theorem memReadX_plain {s : State} (h : s.plain = true) (va : Word) (size : BusSize) (hs : size ≠ .dword) (a : Access) :
    ∃ r, memReadX va size a s = .ok (physRead s.mem s.big size (relocate s.cp15.pid va)) (s.record r) := by
  obtain ⟨r, hr⟩ := memReadWide_plain h va size a
  refine ⟨r, ?_⟩
  rw [memReadX, hr, physReadWide_low hs]
  show Res.ok _ _ = _
  rw [low_of_zeroExtend]

/-- A write on the bus where all of memory is RAM (spec/20 R211). -/
theorem busWrite_plain {s : State} (hr : s.memMap = []) (hi : s.intruders = []) (big : Bool) (size : BusSize) (pa : Word)
    (v : BitVec 64) (prot : BitVec 4) (locked : Bool) (burst : Burst) :
    ∃ r, busWrite big size pa v prot locked burst s
      = (true, { s with bus := r :: s.bus, mem := physWriteWide s.mem big size pa v }) := by
  have k : kindAt s.memMap pa.toNat = .ram := by rw [hr]; rfl
  refine ⟨⟨.dbiu, true, pa, size, v, prot, locked, burst⟩, ?_⟩
  unfold busWrite
  dsimp only
  rw [k]
  exact congrArg (Prod.mk true) (State.record_quiet (s := { s with mem := physWriteWide s.mem big size pa v }) hi _)

/-- A write in plain memory (spec/20 R211). -/
theorem memWriteWide_plain {s : State} (h : s.plain = true) (va : Word) (size : BusSize) (v : BitVec 64) (a : Access)
    (b : Burst) : ∃ r, memWriteWide va size v a b s
      = .ok () { s with bus := r :: s.bus, mem := physWriteWide s.mem s.big size (relocate s.cp15.pid va) v } := by
  obtain ⟨hm, hd, ha, hw, hc, hr, hg, -, hi⟩ := plain_iff.mp h
  have hdr : drainAll s = s := drainAll_of_uncached (uncached_iff.mpr ⟨hd, hw, hc, hi⟩)
  have hst : ∀ t : State, t.cp15 = s.cp15 → storeInCache (plainPlace s va) size v false t = t := fun t e => by
    have : t.dcacheOn = false := by rw [← hd, State.dcacheOn, State.ctlBit, e]; rfl
    simp only [storeInCache, this]
  have hu : ∀ locked, ∃ r, writeUnbuffered (plainPlace s va) va size v a.priv a.ext locked s
      = .ok () { s with bus := r :: s.bus, mem := physWriteWide s.mem s.big size (relocate s.cp15.pid va) v } := by
    intro locked
    obtain ⟨r, h⟩ := busWrite_plain hr hi s.big size (alignDown size (relocate s.cp15.pid va)) v
      (hprot true a.priv false false) locked .single
    rw [physWriteWide_alignDown] at h
    refine ⟨r, ?_⟩
    simp only [writeUnbuffered, hdr, plainPlace, h]
    exact congrArg (Res.ok ()) (by apply hst; rfl)
  have hb : ∃ r, writeAt (plainPlace s va) va size v a.priv a.ext a.locked b s
      = .ok () { s with bus := r :: s.bus, mem := physWriteWide s.mem s.big size (relocate s.cp15.pid va) v } := by
    have e : (plainPlace s va).forced = plainPlace s va := rfl
    unfold writeAt
    simp only [e, ite_self]
    have c : (plainPlace s va).region = .ncnb := rfl
    rw [c]
    cases a.locked <;> cases s.wbufOn <;> exact hu _
  obtain ⟨r, hb⟩ := hb
  refine ⟨r, ?_⟩
  unfold memWriteWide
  rw [ha, Bool.false_and, if_neg Bool.false_ne_true, locate_plain hm hd]
  show (writeAt (plainPlace s va) va size v a.priv a.ext a.locked b s).bind _ = _
  rw [hb]
  have nd : ∀ u : State, u.dbg = s.dbg → u.pins = s.pins → noteAccess va size false a.seenPriv u = u := fun u e f =>
    noteAccess_of_disabled (by rw [← hg, State.debugEnabled, State.debugEnabled, e, f]) _ _ _ _
  exact congrArg (Res.ok ()) (by apply nd <;> rfl)

/-- A write of at most four bytes in plain memory (spec/20 R211). -/
theorem memWriteX_plain {s : State} (h : s.plain = true) (va : Word) (size : BusSize) (hs : size ≠ .dword) (v : Word)
    (a : Access) : ∃ r, memWriteX va size v a s
      = .ok () { s with bus := r :: s.bus, mem := physWrite s.mem s.big size (relocate s.cp15.pid va) v } := by
  obtain ⟨r, hr⟩ := memWriteWide_plain h va size ((carried size v).zeroExtend 64) a .single
  refine ⟨r, ?_⟩
  rw [memWriteX, hr, physWriteWide_low hs, low_of_zeroExtend, physWrite_carried]

end Sys2Proof.Machine
end

