-- ==== Sys2Proof/Tests/Slice0.lean ====
section
/-!
SUPPORT. Tests: the WellFormed smoke test, a word for every row of the opcode table, the vectors of
spec/96_test_vectors_derived.md (V3 to V15; expected results are the spec's), and a witness for the hypotheses of each
statement of Certificates/Slice0/Obligations.lean.
-/
namespace Sys2Proof.Tests
open Sys2Proof Sys2Proof.Machine

/-- A state by the conventions of spec/96: reset, with a CPSR, registers of its mode, and words of memory. -/
def vec (cpsr : Word) (rs : List (Reg × Word)) (ms : List (Word × Word)) : State :=
  rs.foldl (fun s p => s.setReg p.1 p.2)
    { State.reset with cpsr := cpsr, mem := ms.foldl (fun m p => physWrite m false .word p.1 p.2) [] }

/-- The outcome is a next state with a property. -/
def gives (x : Outcome State) (p : State → Bool) : Bool :=
  match x with
  | .next t => p t
  | _ => false

/-- Run an ARM instruction word at an address. -/
def armAt (a w : Word) (s : State) (p : State → Bool) : Bool := gives (exec (decode (.arm w)) { s with pc := a }) p

/-- Run a Thumb instruction at an address. -/
def thumbAt (a : Word) (h : BitVec 16) (s : State) (p : State → Bool) : Bool :=
  gives (exec (decode (.thumb h)) { s with pc := a }) p

/-- N, Z, C, V. -/
def nzcv (s : State) : BitVec 4 := s.cpsr.extractLsb' 28 4

/-- The memory images M3 and M8 of spec/96. -/
def m3 : List (Word × Word) := [(0x9000#32, 0x11223344#32), (0x9004#32, 0x55667788#32), (0x9008#32, 0x99AABBCC#32)]
/-- See `m3`. -/
def m8 : List (Word × Word) := (List.range 8).map fun k => (BitVec.ofNat 32 (0x9000 + 4 * k), BitVec.ofNat 32 (0x100 + k))

/-! ### WellFormed: an ill-formed term for each check, refused -/

/-- `encodable`: a word in a later row, an allocated word, the row that has no word, the user-privilege and the
coprocessor extension forms, a Thumb group that is taken, and the condition AL of a Thumb branch. -/
theorem test_wf_encodable :
    (Instr.undUncond 0xEC#8 0#4 0#4 0#4 0#4 0#4).wf = false ∧
    (Instr.undMiscA .al 0#2 0#4 0#4 0#4 0#3 0#4).wf = false ∧
    (Instr.undMiscB .al 0#2 0#4 0#4 0#4 2#3 0#4).wf = false ∧
    (Instr.undMul .al 0b00000#5 0#4 0#4 0#4 0#4).wf = false ∧
    (Instr.ldc2 ⟨false, false, true, false, 0#4, 0#4, 0#4, 0#8⟩).wf = false ∧
    (Instr.stc2 ⟨false, false, true, false, 0#4, 0#4, 0#4, 0#8⟩).wf = false ∧
    (Instr.ldc .al ⟨false, false, true, false, 0#4, 0#4, 0#4, 0#8⟩).wf = false ∧
    (Instr.stc .al ⟨false, false, true, false, 0#4, 0#4, 0#4, 0#8⟩).wf = false ∧
    (Instr.ldr .al ⟨false, true, true, 1#4⟩ 0#4 (.imm 4#12)).wf = false ∧
    (Instr.ldrb .al ⟨false, true, true, 1#4⟩ 0#4 (.imm 4#12)).wf = false ∧
    (Instr.str .al ⟨false, true, true, 1#4⟩ 0#4 (.imm 4#12)).wf = false ∧
    (Instr.strb .al ⟨false, true, true, 1#4⟩ 0#4 (.imm 4#12)).wf = false ∧
    (Instr.tUnd1011 0x400#12).wf = false ∧ (Instr.tBcond .al 0#8).wf = false := by decide

/-- `regular`: a should-be-zero or should-be-one field of each kind, violated. -/
theorem test_wf_regular :
    (Instr.mrs .al false 0#4 0#4 0#4 0#4).wf = false ∧ (Instr.mrs .al false 15#4 0#4 1#4 0#4).wf = false ∧
    (Instr.mrs .al false 15#4 0#4 0#4 1#4).wf = false ∧ (Instr.msrReg .al false 1#4 0#4 0#4 0#4).wf = false ∧
    (Instr.msrReg .al false 1#4 15#4 1#4 0#4).wf = false ∧ (Instr.bx .al 15#4 15#4 0#4 0#4).wf = false ∧
    (Instr.blxReg .al 0#4 15#4 15#4 0#4).wf = false ∧ (Instr.clz .al 15#4 0#4 0#4 1#4).wf = false ∧
    (Instr.qadd .al 0#4 0#4 1#4 0#4).wf = false ∧ (Instr.qsub .al 0#4 0#4 1#4 0#4).wf = false ∧
    (Instr.qdadd .al 0#4 0#4 1#4 0#4).wf = false ∧ (Instr.qdsub .al 0#4 0#4 1#4 0#4).wf = false ∧
    (Instr.smulwy .al 0#4 1#4 0#4 false 0#4).wf = false ∧ (Instr.smulxy .al 0#4 1#4 0#4 false false 0#4).wf = false ∧
    (Instr.mul .al false 0#4 1#4 0#4 1#4).wf = false ∧ (Instr.swp .al 0#4 1#4 1#4 2#4).wf = false ∧
    (Instr.swpb .al 0#4 1#4 1#4 2#4).wf = false ∧
    (Instr.strh .al ⟨true, true, false, 1#4⟩ 0#4 (.reg 1#4 2#4)).wf = false ∧
    (Instr.ldrh .al ⟨true, true, false, 1#4⟩ 0#4 (.reg 1#4 2#4)).wf = false ∧
    (Instr.ldrd .al ⟨true, true, false, 1#4⟩ 0#4 (.reg 1#4 2#4)).wf = false ∧
    (Instr.ldrsb .al ⟨true, true, false, 1#4⟩ 0#4 (.reg 1#4 2#4)).wf = false ∧
    (Instr.strd .al ⟨true, true, false, 1#4⟩ 0#4 (.reg 1#4 2#4)).wf = false ∧
    (Instr.ldrsh .al ⟨true, true, false, 1#4⟩ 0#4 (.reg 1#4 2#4)).wf = false ∧
    (Instr.msrImm .al false 8#4 0#4 0#4 0#8).wf = false ∧ (Instr.tst .al 0#4 1#4 (.imm 0#4 0#8)).wf = false ∧
    (Instr.teq .al 0#4 1#4 (.imm 0#4 0#8)).wf = false ∧ (Instr.cmp .al 0#4 1#4 (.imm 0#4 0#8)).wf = false ∧
    (Instr.cmn .al 0#4 1#4 (.imm 0#4 0#8)).wf = false ∧ (Instr.mov .al false 1#4 0#4 (.imm 0#4 0#8)).wf = false ∧
    (Instr.mvn .al false 1#4 0#4 (.imm 0#4 0#8)).wf = false ∧ (Instr.ldm2 .al ⟨false, true, true, 0#4⟩ 2#15).wf = false ∧
    (Instr.stm2 .al ⟨false, true, true, 0#4⟩ 2#16).wf = false ∧ (Instr.tBx 0#4 1#3).wf = false ∧
    (Instr.tBlxReg 0#4 1#3).wf = false := by decide

/-- A well-formed instruction of each state is accepted. -/
theorem test_wf_accepts : WellFormed (.swi .al 0#24) ∧ WellFormed (.tSwi 0#8) := by decide

/-! ### Decoding: for every row of the opcode table a word written out from the row's encoding -/

theorem test_decode_uncond :
    decode (.arm 0b1111_0111_1_101_0001_1111_0010_001_1_0011#32) = .undPld true 1#4 2#4 1#3 3#4 ∧
    decode (.arm 0b111101_1_1_1_101_0000_1111_100000100100#32) = .pld true 0#4 (.reg 16#5 .lsr 4#4) ∧
    decode (.arm 0b1111101_0_011111000010111011101000#32) = .blxImm false 0x7C2EE8#24 ∧
    decode (.arm 0b1111_11000_0_0_1_0001_0010_0011_0100_0101#32) = .undExt2 false true 0x12345#20 ∧
    decode (.arm 0b1111110_1_1_0_0_1_0011_0101_1100_11111000#32) = .ldc2 ⟨true, true, false, false, 3#4, 5#4, 12#4, 248#8⟩ ∧
    decode (.arm 0b1111110_1_1_0_1_0_0001_0101_0100_00001111#32) = .stc2 ⟨true, true, false, true, 1#4, 5#4, 4#4, 15#8⟩ ∧
    decode (.arm 0b11111110_1010_0101_1111_1100_010_0_0101#32) = .cdp2 ⟨10#4, 5#4, 15#4, 12#4, 2#3, 5#4⟩ ∧
    decode (.arm 0b11111110_111_0_1101_1101_0000_000_1_0001#32) = .mcr2 ⟨7#3, 13#4, 13#4, 0#4, 0#3, 1#4⟩ ∧
    decode (.arm 0b11111110_111_1_0011_1101_0010_011_1_1001#32) = .mrc2 ⟨7#3, 3#4, 13#4, 2#4, 3#3, 9#4⟩ ∧
    decode (.arm 0b1111_0000_0001_0010_0011_0100_0101_0110#32) = .undUncond 0x01#8 2#4 3#4 4#4 5#4 6#4 := by
  decide

theorem test_decode_misc :
    decode (.arm 0b1010_00010_1_00_1111_1110_0000_0000_0000#32) = .mrs .ge true 15#4 14#4 0#4 0#4 ∧
    decode (.arm 0b1011_00010_0_10_1110_1111_0000_0000_0011#32) = .msrReg .lt false 14#4 15#4 0#4 3#4 ∧
    decode (.arm 0b1100_00010010_111111111111_0001_1001#32) = .bx .gt 15#4 15#4 15#4 9#4 ∧
    decode (.arm 0b1101_00010110_1111_1000_1111_0001_1100#32) = .clz .le 15#4 8#4 15#4 12#4 ∧
    decode (.arm 0b1110_00010010_111111111111_0011_0001#32) = .blxReg .al 15#4 15#4 15#4 1#4 ∧
    decode (.arm 0b0000_00010000_1010_0011_0000_0101_1011#32) = .qadd .eq 10#4 3#4 0#4 11#4 ∧
    decode (.arm 0b0001_00010010_0111_1001_0000_0101_1011#32) = .qsub .ne 7#4 9#4 0#4 11#4 ∧
    decode (.arm 0b0010_00010100_0001_1111_0000_0101_1101#32) = .qdadd .cs 1#4 15#4 0#4 13#4 ∧
    decode (.arm 0b0011_00010110_0010_0010_0000_0101_1100#32) = .qdsub .cc 2#4 2#4 0#4 12#4 ∧
    decode (.arm 0b0100_00010010_010001010110_0111_1110#32) = .bkpt .mi 1110#12 14#4 ∧
    decode (.arm 0b0101_00010000_1000_1011_1111_1_0_0_0_1011#32) = .smlaxy .pl 8#4 11#4 15#4 false false 11#4 ∧
    decode (.arm 0b0110_00010010_0101_1110_0011_1_1_00_0011#32) = .smlawy .vs 5#4 14#4 3#4 true 3#4 ∧
    decode (.arm 0b0111_00010010_1111_0000_0110_1_1_10_1111#32) = .smulwy .vc 15#4 0#4 6#4 true 15#4 ∧
    decode (.arm 0b1000_00010100_0010_1001_1110_1_1_0_0_1001#32) = .smlalxy .hi 2#4 9#4 14#4 true false 9#4 ∧
    decode (.arm 0b1001_00010110_0000_0000_1000_1_0_1_0_0011#32) = .smulxy .ls 0#4 0#4 8#4 false true 3#4 ∧
    decode (.arm 0b1110_00010_01_0_0001_0010_0011_0_010_0100#32) = .undMiscA .al 1#2 1#4 2#4 3#4 2#3 4#4 := by
  decide

theorem test_decode_multiply :
    decode (.arm 0b1100_0000000_1_0010_0000_0110_1001_0001#32) = .mul .gt true 2#4 0#4 6#4 1#4 ∧
    decode (.arm 0b1101_0000001_0_0100_1000_1001_1001_0100#32) = .mla .le false 4#4 8#4 9#4 4#4 ∧
    decode (.arm 0b1110_0000100_0_0101_0000_0100_1001_1001#32) = .umull .al false 5#4 0#4 4#4 9#4 ∧
    decode (.arm 0b0000_0000101_0_1101_1011_0111_1001_0110#32) = .umlal .eq false 13#4 11#4 7#4 6#4 ∧
    decode (.arm 0b0001_0000110_0_0101_1010_1111_1001_1101#32) = .smull .ne false 5#4 10#4 15#4 13#4 ∧
    decode (.arm 0b0010_0000111_0_0000_0101_0101_1001_1101#32) = .smlal .cs false 0#4 5#4 5#4 13#4 ∧
    decode (.arm 0b0011_00010000_0010_0000_0000_1001_0100#32) = .swp .cc 2#4 0#4 0#4 4#4 ∧
    decode (.arm 0b0100_00010100_0000_1101_0000_1001_1011#32) = .swpb .mi 0#4 13#4 0#4 11#4 ∧
    decode (.arm 0b1110_000_10001_0001_0010_0011_1001_0100#32) = .undMul .al 17#5 1#4 2#4 3#4 4#4 := by
  decide

theorem test_decode_mode3 :
    decode (.arm 0b0110_000_1_1_1_1_0_1101_1011_0111_1011_0101#32) = .strh .vs ⟨true, true, true, 13#4⟩ 11#4 (.imm 117#8) ∧
    decode (.arm 0b0111_000_1_1_0_1_1_1000_1110_0000_1011_1100#32) = .ldrh .vc ⟨true, true, true, 8#4⟩ 14#4 (.reg 0#4 12#4) ∧
    decode (.arm 0b1000_000_1_1_1_1_0_0011_0100_1111_1101_0111#32) = .ldrd .hi ⟨true, true, true, 3#4⟩ 4#4 (.imm 247#8) ∧
    decode (.arm 0b1001_000_1_0_0_1_1_1000_1101_0000_1101_0110#32) = .ldrsb .ls ⟨true, false, true, 8#4⟩ 13#4 (.reg 0#4 6#4) ∧
    decode (.arm 0b1010_000_1_1_1_0_0_1101_0100_1101_1111_1000#32) = .strd .ge ⟨true, true, false, 13#4⟩ 4#4 (.imm 216#8) ∧
    decode (.arm 0b1011_000_1_0_0_1_1_0001_0110_0000_1111_0101#32) = .ldrsh .lt ⟨true, false, true, 1#4⟩ 6#4 (.reg 0#4 5#4) := by
  decide

theorem test_decode_dataProcessing :
    decode (.arm 0b1110_00110_0_00_0001_0010_0011_0100_0101#32) = .undMsr .al false 0x12345#20 ∧
    decode (.arm 0b1101_00110_0_10_0100_1111_1000_11001111#32) = .msrImm .le false 4#4 15#4 8#4 207#8 ∧
    decode (.arm 0b1110_00_0_0000_1_0010_0100_011000011001#32) = .and .al true 2#4 4#4 (.shiftReg 6#4 .lsl 9#4) ∧
    decode (.arm 0b0000_00_1_0001_1_0101_1100_010110001100#32) = .eor .eq true 5#4 12#4 (.imm 5#4 140#8) ∧
    decode (.arm 0b0001_00_0_0010_1_0111_0111_100011001100#32) = .sub .ne true 7#4 7#4 (.shiftImm 17#5 .asr 12#4) ∧
    decode (.arm 0b0010_00_0_0011_0_0111_0110_010101111110#32) = .rsb .cs false 7#4 6#4 (.shiftReg 5#4 .ror 14#4) ∧
    decode (.arm 0b0011_00_1_0100_1_0111_0111_101100001001#32) = .add .cc true 7#4 7#4 (.imm 11#4 9#8) ∧
    decode (.arm 0b0100_00_0_0101_0_0110_1011_110110100011#32) = .adc .mi false 6#4 11#4 (.shiftImm 27#5 .lsr 3#4) ∧
    decode (.arm 0b0101_00_0_0110_1_0100_0011_110001010110#32) = .sbc .pl true 4#4 3#4 (.shiftReg 12#4 .asr 6#4) ∧
    decode (.arm 0b0110_00_1_0111_0_0000_1101_010000101100#32) = .rsc .vs false 0#4 13#4 (.imm 4#4 44#8) ∧
    decode (.arm 0b0111_00_0_10001_1101_0000_110110001010#32) = .tst .vc 13#4 0#4 (.shiftImm 27#5 .lsl 10#4) ∧
    decode (.arm 0b1000_00_0_10011_1010_0000_011100110000#32) = .teq .hi 10#4 0#4 (.shiftReg 7#4 .lsr 0#4) ∧
    decode (.arm 0b1001_00_1_10101_0010_0000_100011100001#32) = .cmp .ls 2#4 0#4 (.imm 8#4 225#8) ∧
    decode (.arm 0b1010_00_0_10111_1110_0000_101111100001#32) = .cmn .ge 14#4 0#4 (.shiftImm 23#5 .ror 1#4) ∧
    decode (.arm 0b1011_00_0_1100_0_1001_0100_001100011011#32) = .orr .lt false 9#4 4#4 (.shiftReg 3#4 .lsl 11#4) ∧
    decode (.arm 0b1100_00_1_1101_0_0000_0001_101000000000#32) = .mov .gt false 0#4 1#4 (.imm 10#4 0#8) ∧
    decode (.arm 0b1101_00_0_1110_0_1000_1000_100001001100#32) = .bic .le false 8#4 8#4 (.shiftImm 16#5 .asr 12#4) ∧
    decode (.arm 0b1110_00_0_1111_1_0000_0010_010001111001#32) = .mvn .al true 0#4 2#4 (.shiftReg 4#4 .ror 9#4) := by
  decide

theorem test_decode_mode2 :
    decode (.arm 0b1110_011_00001_0010_0011_0100_010_1_0101#32) = .undMedia .al 1#5 2#4 3#4 4#4 2#3 5#4 ∧
    decode (.arm 0b0001_01_1_0_0_011_0011_0111_011000100100#32) = .ldrt .ne false 3#4 7#4 (.reg 12#5 .lsr 4#4) ∧
    decode (.arm 0b0010_01_0_0_0_111_0010_0110_010111100001#32) = .ldrbt .cs false 2#4 6#4 (.imm 1505#12) ∧
    decode (.arm 0b0011_01_1_0_1_010_1101_1000_110001101001#32) = .strt .cc true 13#4 8#4 (.reg 24#5 .ror 9#4) ∧
    decode (.arm 0b0100_01_0_0_1_110_0011_0101_010000001010#32) = .strbt .mi true 3#4 5#4 (.imm 1034#12) ∧
    decode (.arm 0b0101_01_1_1_1_0_0_1_1001_0111_100110101000#32) = .ldr .pl ⟨true, true, false, 9#4⟩ 7#4 (.reg 19#5 .lsr 8#4) ∧
    decode (.arm 0b0110_01_0_1_0_1_1_1_1011_0100_001000110101#32) = .ldrb .vs ⟨true, false, true, 11#4⟩ 4#4 (.imm 565#12) ∧
    decode (.arm 0b0111_01_1_1_1_0_1_0_1001_0100_101101101000#32) = .str .vc ⟨true, true, true, 9#4⟩ 4#4 (.reg 22#5 .ror 8#4) ∧
    decode (.arm 0b1000_01_0_1_0_1_0_0_0000_1000_111100011111#32) = .strb .hi ⟨true, false, false, 0#4⟩ 8#4 (.imm 3871#12) := by
  decide

theorem test_decode_multiple :
    decode (.arm 0b1001_100_1_1_0_0_1_1110_1100101000101000#32) = .ldm1 .ls ⟨true, true, false, 14#4⟩ 0xCA28#16 ∧
    decode (.arm 0b1010_100_1_1_1_0_1_0000_0_001001110111000#32) = .ldm2 .ge ⟨true, true, false, 0#4⟩ 5048#15 ∧
    decode (.arm 0b1011_100_1_1_1_0_1_0100_1_100110000000010#32) = .ldm3 .lt ⟨true, true, false, 4#4⟩ 19458#15 ∧
    decode (.arm 0b1100_100_1_0_0_1_0_0101_1111000111101101#32) = .stm1 .gt ⟨true, false, true, 5#4⟩ 0xF1ED#16 ∧
    decode (.arm 0b1101_100_1_0_1_0_0_1100_1111110110111100#32) = .stm2 .le ⟨true, false, false, 12#4⟩ 0xFDBC#16 := by
  decide

theorem test_decode_branchCoprocessor :
    decode (.arm 0b1110_1010_010100000010011001100010#32) = .b .al 0x502662#24 ∧
    decode (.arm 0b0000_1011_000010011010000110100101#32) = .bl .eq 0x9A1A5#24 ∧
    decode (.arm 0b1110_1100000_1_0001_0010_0011_0100_0101#32) = .undCpExt .al true 0x12345#20 ∧
    decode (.arm 0b0010_11000100_1101_0010_1111_0100_1111#32) = .mcrr .cs 13#4 2#4 15#4 4#4 15#4 ∧
    decode (.arm 0b0011_11000101_1000_1011_0100_1011_1010#32) = .mrrc .cc 8#4 11#4 4#4 11#4 10#4 ∧
    decode (.arm 0b0100_110_1_1_0_0_1_1011_1000_1011_01101001#32) = .ldc .mi ⟨true, true, false, false, 11#4, 8#4, 11#4, 105#8⟩ ∧
    decode (.arm 0b0101_110_1_1_0_1_0_0111_0100_0100_00101101#32) = .stc .pl ⟨true, true, false, true, 7#4, 4#4, 4#4, 45#8⟩ ∧
    decode (.arm 0b0110_1110_1011_1000_0110_1001_011_0_1011#32) = .cdp .vs ⟨11#4, 8#4, 6#4, 9#4, 3#3, 11#4⟩ ∧
    decode (.arm 0b0111_1110_000_0_1010_1000_1001_111_1_1010#32) = .mcr .vc ⟨0#3, 10#4, 8#4, 9#4, 7#3, 10#4⟩ ∧
    decode (.arm 0b1000_1110_101_1_0010_0000_0010_100_1_0111#32) = .mrc .hi ⟨5#3, 2#4, 0#4, 2#4, 4#3, 7#4⟩ ∧
    decode (.arm 0b1001_1111_010111001111111001011000#32) = .swi .ls 0x5CFE58#24 := by
  decide

theorem test_decode_thumbAddShift :
    decode (.thumb 0b0001100_011_000_101#16) = .tAddReg 3#3 0#3 5#3 ∧
    decode (.thumb 0b0001101_000_110_010#16) = .tSubReg 0#3 6#3 2#3 ∧
    decode (.thumb 0b0001110_100_111_000#16) = .tAddImm3 4#3 7#3 0#3 ∧
    decode (.thumb 0b0001111_001_001_001#16) = .tSubImm3 1#3 1#3 1#3 ∧
    decode (.thumb 0b00000_11110_001_111#16) = .tLslImm 30#5 1#3 7#3 ∧
    decode (.thumb 0b00001_10001_100_101#16) = .tLsrImm 17#5 4#3 5#3 ∧
    decode (.thumb 0b00010_11100_100_110#16) = .tAsrImm 28#5 4#3 6#3 ∧
    decode (.thumb 0b00100_010_01001010#16) = .tMovImm 2#3 74#8 ∧
    decode (.thumb 0b00101_110_01100000#16) = .tCmpImm 6#3 96#8 ∧
    decode (.thumb 0b00110_100_01011110#16) = .tAddImm8 4#3 94#8 ∧
    decode (.thumb 0b00111_011_11011101#16) = .tSubImm8 3#3 221#8 := by
  decide

theorem test_decode_thumbAlu :
    decode (.thumb 0b0100000000_110_011#16) = .tAnd 6#3 3#3 ∧
    decode (.thumb 0b0100000001_110_010#16) = .tEor 6#3 2#3 ∧
    decode (.thumb 0b0100000010_110_110#16) = .tLslReg 6#3 6#3 ∧
    decode (.thumb 0b0100000011_100_011#16) = .tLsrReg 4#3 3#3 ∧
    decode (.thumb 0b0100000100_110_100#16) = .tAsrReg 6#3 4#3 ∧
    decode (.thumb 0b0100000101_001_011#16) = .tAdc 1#3 3#3 ∧
    decode (.thumb 0b0100000110_010_110#16) = .tSbc 2#3 6#3 ∧
    decode (.thumb 0b0100000111_001_111#16) = .tRor 1#3 7#3 ∧
    decode (.thumb 0b0100001000_000_011#16) = .tTst 0#3 3#3 ∧
    decode (.thumb 0b0100001001_111_011#16) = .tNeg 7#3 3#3 ∧
    decode (.thumb 0b0100001010_010_101#16) = .tCmpReg 2#3 5#3 ∧
    decode (.thumb 0b0100001011_000_011#16) = .tCmn 0#3 3#3 ∧
    decode (.thumb 0b0100001100_101_010#16) = .tOrr 5#3 2#3 ∧
    decode (.thumb 0b0100001101_000_011#16) = .tMul 0#3 3#3 ∧
    decode (.thumb 0b0100001110_101_011#16) = .tBic 5#3 3#3 ∧
    decode (.thumb 0b0100001111_011_110#16) = .tMvn 3#3 6#3 := by
  decide

theorem test_decode_thumbHigh :
    decode (.thumb 0b01000100_0_1_101_001#16) = .tAddHi 13#4 1#4 ∧
    decode (.thumb 0b01000101_1_0_001_111#16) = .tCmpHi 1#4 15#4 ∧
    decode (.thumb 0b01000110_1_1_100_110#16) = .tMovHi 12#4 14#4 ∧
    decode (.thumb 0b010001110_0_100_000#16) = .tBx 4#4 0#3 ∧
    decode (.thumb 0b010001111_1_000_000#16) = .tBlxReg 8#4 0#3 := by
  decide

theorem test_decode_thumbSingle :
    decode (.thumb 0b01001_111_10101111#16) = .tLdrPc 7#3 175#8 ∧
    decode (.thumb 0b0101000_110_010_000#16) = .tStrReg 6#3 2#3 0#3 ∧
    decode (.thumb 0b0101001_111_101_000#16) = .tStrhReg 7#3 5#3 0#3 ∧
    decode (.thumb 0b0101010_001_001_011#16) = .tStrbReg 1#3 1#3 3#3 ∧
    decode (.thumb 0b0101011_101_111_001#16) = .tLdrsbReg 5#3 7#3 1#3 ∧
    decode (.thumb 0b0101100_011_111_101#16) = .tLdrReg 3#3 7#3 5#3 ∧
    decode (.thumb 0b0101101_011_011_000#16) = .tLdrhReg 3#3 3#3 0#3 ∧
    decode (.thumb 0b0101110_000_010_101#16) = .tLdrbReg 0#3 2#3 5#3 ∧
    decode (.thumb 0b0101111_100_100_011#16) = .tLdrshReg 4#3 4#3 3#3 ∧
    decode (.thumb 0b01100_11110_001_101#16) = .tStrImm 30#5 1#3 5#3 ∧
    decode (.thumb 0b01101_10010_010_001#16) = .tLdrImm 18#5 2#3 1#3 ∧
    decode (.thumb 0b01110_00111_011_100#16) = .tStrbImm 7#5 3#3 4#3 ∧
    decode (.thumb 0b01111_00001_101_001#16) = .tLdrbImm 1#5 5#3 1#3 ∧
    decode (.thumb 0b10000_11001_101_100#16) = .tStrhImm 25#5 5#3 4#3 ∧
    decode (.thumb 0b10001_01001_101_000#16) = .tLdrhImm 9#5 5#3 0#3 ∧
    decode (.thumb 0b10010_000_11010111#16) = .tStrSp 0#3 215#8 ∧
    decode (.thumb 0b10011_100_11111111#16) = .tLdrSp 4#3 255#8 := by
  decide

theorem test_decode_thumbStack :
    decode (.thumb 0b10100_100_01000111#16) = .tAddPc 4#3 71#8 ∧
    decode (.thumb 0b10101_001_10011110#16) = .tAddSpRd 1#3 158#8 ∧
    decode (.thumb 0b101100000_0111110#16) = .tAddSp 62#7 ∧
    decode (.thumb 0b101100001_0010100#16) = .tSubSp 20#7 ∧
    decode (.thumb 0b1011010_1_00110001#16) = .tPush true 49#8 ∧
    decode (.thumb 0b1011110_0_01011011#16) = .tPop false 91#8 ∧
    decode (.thumb 0b10111110_00111000#16) = .tBkpt 56#8 ∧
    decode (.thumb 0b1011_0001_0010_0011#16) = .tUnd1011 0x123#12 ∧
    decode (.thumb 0b11000_100_01010111#16) = .tStmia 4#3 87#8 ∧
    decode (.thumb 0b11001_000_00001010#16) = .tLdmia 0#3 10#8 := by
  decide

theorem test_decode_thumbBranch :
    decode (.thumb 0b11011111_11100010#16) = .tSwi 226#8 ∧
    decode (.thumb 0b11011110_10100101#16) = .tUndCond 0xA5#8 ∧
    decode (.thumb 0b1101_0011_10000111#16) = .tBcond .cc 135#8 ∧
    decode (.thumb 0b11100_10001001010#16) = .tB 1098#11 ∧
    decode (.thumb 0b11101_1010010110_1#16) = .tUndBlx 0x296#10 ∧
    decode (.thumb 0b11101_1010010110_0#16) = .tBlxSuffix 0x296#10 ∧
    decode (.thumb 0b11110_00100111000#16) = .tBlPrefix 312#11 ∧
    decode (.thumb 0b11111_01100110010#16) = .tBlSuffix 818#11 := by
  decide

/-! ### One instruction on a small state: the vectors of spec/96, at most two for each instruction -/

/-- V3: ADDS r0, r1, r2 -/
theorem test_add_a :
    armAt 0x8000#32 0xE0910002#32 (vec 0xd3#32 [(1#4, 0x80000000#32), (2#4, 0x80000000#32)] [])
      (fun t => t.reg 0#4 == 0#32 && nzcv t == 0b0111#4) = true := by decide
/-- V3: ADD pc, pc, r0, LSL #2 -/
theorem test_add_b :
    armAt 0x8000#32 0xE08FF100#32 (vec 0xd3#32 [(0#4, 1#32)] [])
      (fun t => t.pc == 0x800C#32) = true := by decide
/-- V3: SUBS r0, r1, r2 -/
theorem test_sub_a :
    armAt 0x8000#32 0xE0510002#32 (vec 0xd3#32 [(1#4, 0x80000000#32), (2#4, 1#32)] [])
      (fun t => t.reg 0#4 == 0x7FFFFFFF#32 && nzcv t == 0b0011#4) = true := by decide
/-- V3: SUBS r0, r1, r2 -/
theorem test_sub_b :
    armAt 0x8000#32 0xE0510002#32 (vec 0xd3#32 [(1#4, 0#32), (2#4, 0x80000000#32)] [])
      (fun t => t.reg 0#4 == 0x80000000#32 && nzcv t == 0b1001#4) = true := by decide
/-- V3: RSBS r0, r1, #0 -/
theorem test_rsb_a :
    armAt 0x8000#32 0xE2710000#32 (vec 0xd3#32 [(1#4, 0x80000000#32)] [])
      (fun t => t.reg 0#4 == 0x80000000#32 && nzcv t == 0b1001#4) = true := by decide
/-- V3: RSBS r0, r1, #0 -/
theorem test_rsb_b :
    armAt 0x8000#32 0xE2710000#32 (vec 0xd3#32 [(1#4, 0#32)] [])
      (fun t => t.reg 0#4 == 0#32 && nzcv t == 0b0110#4) = true := by decide
/-- V3: ADCS r0, r1, r2 -/
theorem test_adc_a :
    armAt 0x8000#32 0xE0B10002#32 (vec 0x200000d3#32 [(1#4, 0x7fffffff#32), (2#4, 0#32)] [])
      (fun t => t.reg 0#4 == 0x80000000#32 && nzcv t == 0b1001#4) = true := by decide
/-- V3: ADCS r0, r1, r2 -/
theorem test_adc_b :
    armAt 0x8000#32 0xE0B10002#32 (vec 0x200000d3#32 [(1#4, 0xffffffff#32), (2#4, 0xffffffff#32)] [])
      (fun t => t.reg 0#4 == 0xFFFFFFFF#32 && nzcv t == 0b1010#4) = true := by decide
/-- V3: SBCS r0, r1, r2 -/
theorem test_sbc_a :
    armAt 0x8000#32 0xE0D10002#32 (vec 0x200000d3#32 [(1#4, 0#32), (2#4, 0#32)] [])
      (fun t => t.reg 0#4 == 0#32 && nzcv t == 0b0110#4) = true := by decide
/-- V3: SBCS r0, r1, r2 -/
theorem test_sbc_b :
    armAt 0x8000#32 0xE0D10002#32 (vec 0xd3#32 [(1#4, 0x80000000#32), (2#4, 0#32)] [])
      (fun t => t.reg 0#4 == 0x7FFFFFFF#32 && nzcv t == 0b0011#4) = true := by decide
/-- V3: RSCS r0, r1, r2 -/
theorem test_rsc_a :
    armAt 0x8000#32 0xE0F10002#32 (vec 0x200000d3#32 [(1#4, 1#32), (2#4, 0#32)] [])
      (fun t => t.reg 0#4 == 0xFFFFFFFF#32 && nzcv t == 0b1000#4) = true := by decide
/-- V3: RSCS r0, r1, #0 -/
theorem test_rsc_b :
    armAt 0x8000#32 0xE2F10000#32 (vec 0xd3#32 [(1#4, 0#32)] [])
      (fun t => t.reg 0#4 == 0xFFFFFFFF#32 && nzcv t == 0b1000#4) = true := by decide
/-- V3: ANDS r0, r1, #0x80000000 -/
theorem test_and :
    armAt 0x8000#32 0xE2110102#32 (vec 0x100000d3#32 [(1#4, 0xffffffff#32)] [])
      (fun t => t.reg 0#4 == 0x80000000#32 && nzcv t == 0b1011#4) = true := by decide
/-- V3: EORS r0, r1, r2, LSL #1 -/
theorem test_eor :
    armAt 0x8000#32 0xE0310082#32 (vec 0xd3#32 [(1#4, 0xffffffff#32), (2#4, 0xffffffff#32)] [])
      (fun t => t.reg 0#4 == 0x0001#32 && nzcv t == 0b0010#4) = true := by decide
/-- V3: ORRS r0, r1, r2, LSR #1 -/
theorem test_orr :
    armAt 0x8000#32 0xE19100A2#32 (vec 0x200000d3#32 [(1#4, 0#32), (2#4, 2#32)] [])
      (fun t => t.reg 0#4 == 0x0001#32 && nzcv t == 0b0000#4) = true := by decide
/-- V3: BICS r0, r1, r2 -/
theorem test_bic :
    armAt 0x8000#32 0xE1D10002#32 (vec 0x200000d3#32 [(1#4, 0xffffffff#32), (2#4, 0xffffffff#32)] [])
      (fun t => t.reg 0#4 == 0#32 && nzcv t == 0b0110#4) = true := by decide
/-- V3: MVNS r0, r1, ASR #31 -/
theorem test_mvn :
    armAt 0x8000#32 0xE1F00FC1#32 (vec 0xd3#32 [(1#4, 0x80000000#32)] [])
      (fun t => t.reg 0#4 == 0#32 && nzcv t == 0b0100#4) = true := by decide
/-- V3: TST r1, r2, LSL #1 -/
theorem test_tst :
    armAt 0x8000#32 0xE1110082#32 (vec 0xd3#32 [(1#4, 0xffffffff#32), (2#4, 0x80000000#32)] [])
      (fun t => nzcv t == 0b0110#4) = true := by decide
/-- V3: TEQ r1, r2 -/
theorem test_teq :
    armAt 0x8000#32 0xE1310002#32 (vec 0x300000d3#32 [(1#4, 0x80000000#32), (2#4, 0#32)] [])
      (fun t => nzcv t == 0b1011#4) = true := by decide
/-- V3: CMP r1, r2 -/
theorem test_cmp_a :
    armAt 0x8000#32 0xE1510002#32 (vec 0xd3#32 [(1#4, 0x80000000#32), (2#4, 0x7fffffff#32)] [])
      (fun t => nzcv t == 0b0011#4) = true := by decide
/-- V3: CMP r1, r2 -/
theorem test_cmp_b :
    armAt 0x8000#32 0xE1510002#32 (vec 0xd3#32 [(1#4, 1#32), (2#4, 2#32)] [])
      (fun t => nzcv t == 0b1000#4) = true := by decide
/-- V3: CMN r1, r2 -/
theorem test_cmn_a :
    armAt 0x8000#32 0xE1710002#32 (vec 0xd3#32 [(1#4, 0x7fffffff#32), (2#4, 1#32)] [])
      (fun t => nzcv t == 0b1001#4) = true := by decide
/-- V3: CMN r1, #0 -/
theorem test_cmn_b :
    armAt 0x8000#32 0xE3710000#32 (vec 0xd3#32 [(1#4, 0#32)] [])
      (fun t => nzcv t == 0b0100#4) = true := by decide
/-- V3: MOV pc, r1 -/
theorem test_mov_a :
    armAt 0x8000#32 0xE1A0F001#32 (vec 0xa00000d3#32 [(1#4, 0x9000#32)] [])
      (fun t => t.pc == 0x9000#32 && nzcv t == 0b1010#4) = true := by decide
/-- V3: MOVS pc, r14 -/
theorem test_mov_b :
    armAt 0x8000#32 0xE1B0F00E#32 ((vec 0xd3#32 [(14#4, 0x9004#32)] []).setSpsrIn (bankOf 0x13#5) 0x60000010#32)
      (fun t => t.pc == 0x9004#32 && t.cpsr == 0x60000010#32) = true := by decide
/-- V4: MULS r0, r1, r2 -/
theorem test_mul_a :
    armAt 0x8000#32 0xE0100291#32 (vec 0x300000d3#32 [(1#4, 0xffffffff#32), (2#4, 0xffffffff#32)] [])
      (fun t => t.reg 0#4 == 0x0001#32 && nzcv t == 0b0011#4) = true := by decide
/-- V4: MULS r0, r1, r2 -/
theorem test_mul_b :
    armAt 0x8000#32 0xE0100291#32 (vec 0xd3#32 [(1#4, 0x10000#32), (2#4, 0x10000#32)] [])
      (fun t => t.reg 0#4 == 0#32 && nzcv t == 0b0100#4) = true := by decide
/-- V4: MLAS r0, r1, r2, r3 -/
theorem test_mla_a :
    armAt 0x8000#32 0xE0303291#32 (vec 0xd3#32 [(1#4, 0xffffffff#32), (2#4, 1#32), (3#4, 1#32)] [])
      (fun t => t.reg 0#4 == 0#32 && nzcv t == 0b0100#4) = true := by decide
/-- V4: MLA r0, r1, r2, r0 -/
theorem test_mla_b :
    armAt 0x8000#32 0xE0200291#32 (vec 0xd3#32 [(0#4, 7#32), (1#4, 3#32), (2#4, 5#32)] [])
      (fun t => t.reg 0#4 == 0x0016#32) = true := by decide
/-- V4: UMULLS r0, r1, r2, r3 -/
theorem test_umull_a :
    armAt 0x8000#32 0xE0910392#32 (vec 0xd3#32 [(2#4, 0xffffffff#32), (3#4, 0xffffffff#32)] [])
      (fun t => t.reg 0#4 == 0x0001#32 && t.reg 1#4 == 0xFFFFFFFE#32 && nzcv t == 0b1000#4) = true := by decide
/-- V4: UMULLS r0, r1, r2, r3 -/
theorem test_umull_b :
    armAt 0x8000#32 0xE0910392#32 (vec 0xd3#32 [(2#4, 0#32), (3#4, 0xffffffff#32)] [])
      (fun t => t.reg 0#4 == 0#32 && t.reg 1#4 == 0#32 && nzcv t == 0b0100#4) = true := by decide
/-- V4: SMULLS r0, r1, r2, r3 -/
theorem test_smull_a :
    armAt 0x8000#32 0xE0D10392#32 (vec 0xd3#32 [(2#4, 0x80000000#32), (3#4, 0x80000000#32)] [])
      (fun t => t.reg 0#4 == 0#32 && t.reg 1#4 == 0x40000000#32 && nzcv t == 0b0000#4) = true := by decide
/-- V4: SMULLS r0, r1, r2, r3 -/
theorem test_smull_b :
    armAt 0x8000#32 0xE0D10392#32 (vec 0xd3#32 [(2#4, 0x80000000#32), (3#4, 1#32)] [])
      (fun t => t.reg 0#4 == 0x80000000#32 && t.reg 1#4 == 0xFFFFFFFF#32 && nzcv t == 0b1000#4) = true := by decide
/-- V4: UMLALS r0, r1, r2, r3 -/
theorem test_umlal :
    armAt 0x8000#32 0xE0B10392#32 (vec 0xd3#32 [(0#4, 0xffffffff#32), (1#4, 0xffffffff#32), (2#4, 1#32), (3#4, 1#32)] [])
      (fun t => t.reg 0#4 == 0#32 && t.reg 1#4 == 0#32 && nzcv t == 0b0100#4) = true := by decide
/-- V4: SMLALS r0, r1, r2, r3 -/
theorem test_smlal :
    armAt 0x8000#32 0xE0F10392#32 (vec 0xd3#32 [(0#4, 0#32), (1#4, 0x80000000#32), (2#4, 0xffffffff#32), (3#4, 1#32)] [])
      (fun t => t.reg 0#4 == 0xFFFFFFFF#32 && t.reg 1#4 == 0x7FFFFFFF#32 && nzcv t == 0b0000#4) = true := by decide
/-- V4: SMULBT r0, r1, r2 -/
theorem test_smulxy_a :
    armAt 0x8000#32 0xE16002C1#32 (vec 0xd3#32 [(1#4, 0x7fff8000#32), (2#4, 0x28000#32)] [])
      (fun t => t.reg 0#4 == 0xFFFF0000#32 && !t.cpsr.getLsbD 27) = true := by decide
/-- V4: SMULTB r0, r1, r2 -/
theorem test_smulxy_b :
    armAt 0x8000#32 0xE16002A1#32 (vec 0xd3#32 [(1#4, 0x7fff8000#32), (2#4, 0x28000#32)] [])
      (fun t => t.reg 0#4 == 0xC0008000#32 && !t.cpsr.getLsbD 27) = true := by decide
/-- V4: SMLABB r0, r1, r2, r3 -/
theorem test_smlaxy_a :
    armAt 0x8000#32 0xE1003281#32 (vec 0xd3#32 [(1#4, 0x8000#32), (2#4, 0x8000#32), (3#4, 0x40000000#32)] [])
      (fun t => t.reg 0#4 == 0x80000000#32 && t.cpsr.getLsbD 27) = true := by decide
/-- V4: SMLABT r0, r1, r2, r3 -/
theorem test_smlaxy_b :
    armAt 0x8000#32 0xE10032C1#32 (vec 0xd3#32 [(1#4, 0xffff#32), (2#4, 0x30000#32), (3#4, 0xa#32)] [])
      (fun t => t.reg 0#4 == 0x0007#32 && !t.cpsr.getLsbD 27) = true := by decide
/-- V4: SMLALTB r0, r1, r2, r3 -/
theorem test_smlalxy_a :
    armAt 0x8000#32 0xE14103A2#32 (vec 0xd3#32 [(0#4, 0#32), (1#4, 0#32), (2#4, 0xffff0000#32), (3#4, 1#32)] [])
      (fun t => t.reg 0#4 == 0xFFFFFFFF#32 && t.reg 1#4 == 0xFFFFFFFF#32 && !t.cpsr.getLsbD 27) = true := by decide
/-- V4: SMLALBB r0, r1, r2, r3 -/
theorem test_smlalxy_b :
    armAt 0x8000#32 0xE1410382#32 (vec 0xd3#32 [(0#4, 0xffffffff#32), (1#4, 0x7fffffff#32), (2#4, 1#32), (3#4, 1#32)] [])
      (fun t => t.reg 0#4 == 0#32 && t.reg 1#4 == 0x80000000#32 && nzcv t == 0b0000#4 && !t.cpsr.getLsbD 27) = true := by decide
/-- V4: SMULWB r0, r1, r2 -/
theorem test_smulwy_a :
    armAt 0x8000#32 0xE12002A1#32 (vec 0xd3#32 [(1#4, 0x80000000#32), (2#4, 0x8000#32)] [])
      (fun t => t.reg 0#4 == 0x40000000#32 && !t.cpsr.getLsbD 27) = true := by decide
/-- V4: SMULWT r0, r1, r2 -/
theorem test_smulwy_b :
    armAt 0x8000#32 0xE12002E1#32 (vec 0xd3#32 [(1#4, 0xffffffff#32), (2#4, 0x10000#32)] [])
      (fun t => t.reg 0#4 == 0xFFFFFFFF#32 && !t.cpsr.getLsbD 27) = true := by decide
/-- V4: SMLAWB r0, r1, r2, r3 -/
theorem test_smlawy_a :
    armAt 0x8000#32 0xE1203281#32 (vec 0xd3#32 [(1#4, 0x80000000#32), (2#4, 0x8000#32), (3#4, 0x40000000#32)] [])
      (fun t => t.reg 0#4 == 0x80000000#32 && t.cpsr.getLsbD 27) = true := by decide
/-- V4: SMLAWT r0, r1, r2, r3 -/
theorem test_smlawy_b :
    armAt 0x8000#32 0xE12032C1#32 (vec 0xd3#32 [(1#4, 0x20000#32), (2#4, 0xffff0000#32), (3#4, 1#32)] [])
      (fun t => t.reg 0#4 == 0xFFFFFFFF#32 && !t.cpsr.getLsbD 27) = true := by decide
/-- V5: CLZ r0, r1 -/
theorem test_clz_a :
    armAt 0x8000#32 0xE16F0F11#32 (vec 0xd3#32 [(1#4, 0#32)] [])
      (fun t => t.reg 0#4 == 0x0020#32) = true := by decide
/-- V5: CLZ r0, r1 -/
theorem test_clz_b :
    armAt 0x8000#32 0xE16F0F11#32 (vec 0xd3#32 [(1#4, 0x10000#32)] [])
      (fun t => t.reg 0#4 == 0x000F#32) = true := by decide
/-- V5: QADD r0, r1, r2 -/
theorem test_qadd_a :
    armAt 0x8000#32 0xE1020051#32 (vec 0xd3#32 [(1#4, 0x80000000#32), (2#4, 0xffffffff#32)] [])
      (fun t => t.reg 0#4 == 0x80000000#32 && t.cpsr.getLsbD 27) = true := by decide
/-- V5: QADD r0, r1, r2 -/
theorem test_qadd_b :
    armAt 0x8000#32 0xE1020051#32 (vec 0x80000d3#32 [(1#4, 1#32), (2#4, 1#32)] [])
      (fun t => t.reg 0#4 == 0x0002#32 && t.cpsr.getLsbD 27) = true := by decide
/-- V5: QSUB r0, r1, r2 -/
theorem test_qsub_a :
    armAt 0x8000#32 0xE1220051#32 (vec 0xd3#32 [(1#4, 0x7fffffff#32), (2#4, 0xffffffff#32)] [])
      (fun t => t.reg 0#4 == 0x7FFFFFFF#32 && t.cpsr.getLsbD 27) = true := by decide
/-- V5: QSUB r0, r1, r2 -/
theorem test_qsub_b :
    armAt 0x8000#32 0xE1220051#32 (vec 0xd3#32 [(1#4, 0#32), (2#4, 0x80000000#32)] [])
      (fun t => t.reg 0#4 == 0x7FFFFFFF#32 && t.cpsr.getLsbD 27) = true := by decide
/-- V5: QDADD r0, r1, r2 -/
theorem test_qdadd_a :
    armAt 0x8000#32 0xE1420051#32 (vec 0xd3#32 [(1#4, 0x7fffffff#32), (2#4, 0x80000000#32)] [])
      (fun t => t.reg 0#4 == 0xFFFFFFFF#32 && t.cpsr.getLsbD 27) = true := by decide
/-- V5: QDADD r0, r1, r2 -/
theorem test_qdadd_b :
    armAt 0x8000#32 0xE1420051#32 (vec 0xd3#32 [(1#4, 1#32), (2#4, 0x3fffffff#32)] [])
      (fun t => t.reg 0#4 == 0x7FFFFFFF#32 && !t.cpsr.getLsbD 27) = true := by decide
/-- V5: QDSUB r0, r1, r2 -/
theorem test_qdsub_a :
    armAt 0x8000#32 0xE1620051#32 (vec 0xd3#32 [(1#4, 0x80000000#32), (2#4, 0x40000000#32)] [])
      (fun t => t.reg 0#4 == 0x80000000#32 && t.cpsr.getLsbD 27) = true := by decide
/-- V5: QDSUB r0, r1, r2 -/
theorem test_qdsub_b :
    armAt 0x8000#32 0xE1620051#32 (vec 0xd3#32 [(1#4, 0xffffffff#32), (2#4, 0x80000000#32)] [])
      (fun t => t.reg 0#4 == 0x7FFFFFFF#32 && t.cpsr.getLsbD 27) = true := by decide
/-- V6: B (imm24 = 0x7FFFFF) -/
theorem test_b_a : armAt 0x8000#32 0xEA7FFFFF#32 (vec 0xd3#32 [] []) (fun t => t.pc == 0x2008004#32) = true := by decide
/-- V6: B (imm24 = 0x800000) -/
theorem test_b_b : armAt 0x2008000#32 0xEA800000#32 (vec 0xd3#32 [] []) (fun t => t.pc == 0x8008#32) = true := by decide
/-- V6: BLNE 0x9000 -/
theorem test_bl_a :
    armAt 0x8000#32 0x1B0003FE#32 (vec 0x400000d3#32 [(14#4, 0x1234#32)] [])
      (fun t => t.reg 14#4 == 0x1234#32 && t.pc == 0x8004#32) = true := by decide
/-- V6: BL 0x9000 -/
theorem test_bl_b :
    armAt 0x8000#32 0xEB0003FE#32 (vec 0xd3#32 [(14#4, 0x1234#32)] [])
      (fun t => t.reg 14#4 == 0x8004#32 && t.pc == 0x9000#32) = true := by decide
/-- V6: BX r0 -/
theorem test_bx_a :
    armAt 0x8000#32 0xE12FFF10#32 (vec 0xd3#32 [(0#4, 0x9003#32)] [])
      (fun t => t.pc == 0x9002#32 && t.thumb) = true := by decide
/-- V6: BX pc -/
theorem test_bx_b :
    armAt 0x8000#32 0xE12FFF1F#32 (vec 0xd3#32 [] [])
      (fun t => t.pc == 0x8008#32 && !t.thumb) = true := by decide
/-- V6: BLX 0x9002 -/
theorem test_blxImm_a :
    armAt 0x8000#32 0xFB0003FE#32 (vec 0xd3#32 [] [])
      (fun t => t.reg 14#4 == 0x8004#32 && t.pc == 0x9002#32 && t.thumb) = true := by decide
/-- V6: BLX 0x7FF0 -/
theorem test_blxImm_b :
    armAt 0x8000#32 0xFAFFFFFA#32 (vec 0xd3#32 [] [])
      (fun t => t.reg 14#4 == 0x8004#32 && t.pc == 0x7FF0#32 && t.thumb) = true := by decide
/-- V6: BLX r14 -/
theorem test_blxReg_a :
    armAt 0x8000#32 0xE12FFF3E#32 (vec 0xd3#32 [(14#4, 0x9001#32)] [])
      (fun t => t.reg 14#4 == 0x8004#32 && t.pc == 0x9000#32 && t.thumb) = true := by decide
/-- V6: BLXNE r0 -/
theorem test_blxReg_b :
    armAt 0x8000#32 0x112FFF30#32 (vec 0x400000d3#32 [(0#4, 0x9001#32), (14#4, 5#32)] [])
      (fun t => t.reg 14#4 == 0x0005#32 && t.pc == 0x8004#32 && !t.thumb) = true := by decide
/-- V7: LDR r0, [r1, r2, ASR #32]! -/
theorem test_ldr_a :
    armAt 0x8000#32 0xE7B10042#32 (vec 0xd3#32 [(1#4, 0x9005#32), (2#4, 0x80000000#32)] m3)
      (fun t => t.reg 0#4 == 0x55667788#32 && t.reg 1#4 == 0x9004#32) = true := by decide
/-- V7: LDR r0, [r1, #1] -/
theorem test_ldr_b :
    armAt 0x8000#32 0xE5910001#32 (vec 0xd3#32 [(1#4, 0x9000#32)] m3)
      (fun t => t.reg 0#4 == 0x44112233#32) = true := by decide
/-- V7: LDRB r0, [r1, #1] -/
theorem test_ldrb :
    armAt 0x8000#32 0xE5D10001#32 (vec 0xd3#32 [(1#4, 0x9000#32)] m3)
      (fun t => t.reg 0#4 == 0x0033#32) = true := by decide
/-- V7: STR r0, [r1, #-4]! -/
theorem test_str_a :
    armAt 0x8000#32 0xE5210004#32 (vec 0xd3#32 [(0#4, 0xaabbccdd#32), (1#4, 0x9004#32)] [])
      (fun t => t.reg 1#4 == 0x9000#32 && t.wordAt 0x9000#32 == 0xAABBCCDD#32) = true := by decide
/-- V7: STR r0, [r1, #2] -/
theorem test_str_b :
    armAt 0x8000#32 0xE5810002#32 (vec 0xd3#32 [(0#4, 0xaabbccdd#32), (1#4, 0x9000#32)] [])
      (fun t => t.reg 1#4 == 0x9000#32 && t.wordAt 0x9000#32 == 0xAABBCCDD#32 && t.wordAt 0x9004#32 == 0#32) = true := by decide
/-- V7: STRB r0, [r1, #3] -/
theorem test_strb :
    armAt 0x8000#32 0xE5C10003#32 (vec 0xd3#32 [(0#4, 0x123456ff#32), (1#4, 0x9000#32)] [(0x9000#32, 0x11223344#32)])
      (fun t => t.wordAt 0x9000#32 == 0xFF223344#32) = true := by decide
/-- V7: LDRH r0, [r1, r2]! -/
theorem test_ldrh_a :
    armAt 0x8000#32 0xE1B100B2#32 (vec 0xd3#32 [(1#4, 0x9000#32), (2#4, 6#32)] m3)
      (fun t => t.reg 0#4 == 0x5566#32 && t.reg 1#4 == 0x9006#32) = true := by decide
/-- V7: LDRH r0, [r1, #255] -/
theorem test_ldrh_b :
    armAt 0x8000#32 0xE1D10FBF#32 (vec 0xd3#32 [(1#4, 0x8f01#32)] m3)
      (fun t => t.reg 0#4 == 0x3344#32) = true := by decide
/-- V7: LDRSH r0, [r1, #10] -/
theorem test_ldrsh_a :
    armAt 0x8000#32 0xE1D100FA#32 (vec 0xd3#32 [(1#4, 0x9000#32)] m3)
      (fun t => t.reg 0#4 == 0xFFFF99AA#32) = true := by decide
/-- V7: LDRSH r0, [r1] -/
theorem test_ldrsh_b :
    armAt 0x8000#32 0xE1D100F0#32 (vec 0xd3#32 [(1#4, 0x9000#32)] m3)
      (fun t => t.reg 0#4 == 0x3344#32) = true := by decide
/-- V7: LDRSB r0, [r1, #8] -/
theorem test_ldrsb_a :
    armAt 0x8000#32 0xE1D100D8#32 (vec 0xd3#32 [(1#4, 0x9000#32)] m3)
      (fun t => t.reg 0#4 == 0xFFFFFFCC#32) = true := by decide
/-- V7: LDRSB r0, [r1, #3] -/
theorem test_ldrsb_b :
    armAt 0x8000#32 0xE1D100D3#32 (vec 0xd3#32 [(1#4, 0x9000#32)] m3)
      (fun t => t.reg 0#4 == 0x0011#32) = true := by decide
/-- V7: STRH r0, [r1, #2] -/
theorem test_strh :
    armAt 0x8000#32 0xE1C100B2#32 (vec 0xd3#32 [(0#4, 0x1234abcd#32), (1#4, 0x9000#32)] [(0x9000#32, 0x11223344#32)])
      (fun t => t.wordAt 0x9000#32 == 0xABCD3344#32) = true := by decide
/-- V7: LDRD r2, [r1, #8]! -/
theorem test_ldrd_a :
    armAt 0x8000#32 0xE1E120D8#32 (vec 0xd3#32 [(1#4, 0x8ff8#32)] m3)
      (fun t => t.reg 1#4 == 0x9000#32 && t.reg 2#4 == 0x11223344#32 && t.reg 3#4 == 0x55667788#32) = true := by decide
/-- V7: LDRD r2, [r1], #8 -/
theorem test_ldrd_b :
    armAt 0x8000#32 0xE0C120D8#32 (vec 0xd3#32 [(1#4, 0x9000#32)] m3)
      (fun t => t.reg 1#4 == 0x9008#32 && t.reg 2#4 == 0x11223344#32 && t.reg 3#4 == 0x55667788#32) = true := by decide
/-- V7: STRD r2, [r1, #-8] -/
theorem test_strd :
    armAt 0x8000#32 0xE14120F8#32 (vec 0xd3#32 [(1#4, 0x9008#32), (2#4, 0xaaaaaaaa#32), (3#4, 0xbbbbbbbb#32)] [])
      (fun t => t.reg 1#4 == 0x9008#32 && t.wordAt 0x9000#32 == 0xAAAAAAAA#32 && t.wordAt 0x9004#32 == 0xBBBBBBBB#32) = true := by decide
/-- V7: PLD [r1, #4] -/
theorem test_pld :
    armAt 0x8000#32 0xF5D1F004#32 (vec 0xd3#32 [(1#4, 0x9000#32)] m3)
      (fun t => t.reg 1#4 == 0x9000#32) = true := by decide
/-- V7: SWP r0, r0, [r2] -/
theorem test_swp_a :
    armAt 0x8000#32 0xE1020090#32 (vec 0xd3#32 [(0#4, 0xaabbccdd#32), (2#4, 0x9004#32)] m3)
      (fun t => t.reg 0#4 == 0x55667788#32 && t.wordAt 0x9004#32 == 0xAABBCCDD#32) = true := by decide
/-- V7: SWP r0, r1, [r2] -/
theorem test_swp_b :
    armAt 0x8000#32 0xE1020091#32 (vec 0xd3#32 [(1#4, 0xaabbccdd#32), (2#4, 0x9001#32)] m3)
      (fun t => t.reg 0#4 == 0x44112233#32 && t.wordAt 0x9000#32 == 0xAABBCCDD#32) = true := by decide
/-- V7: SWPB r0, r1, [r2] -/
theorem test_swpb :
    armAt 0x8000#32 0xE1420091#32 (vec 0xd3#32 [(1#4, 0xaabbccdd#32), (2#4, 0x9002#32)] m3)
      (fun t => t.reg 0#4 == 0x0022#32 && t.wordAt 0x9000#32 == 0x11DD3344#32) = true := by decide
/-- V8: LDMDB r0!, {r1, r2, r3} -/
theorem test_ldm1_a :
    armAt 0x8000#32 0xE930000E#32 (vec 0xd3#32 [(0#4, 0x9010#32)] m8)
      (fun t => t.reg 0#4 == 0x9004#32 && t.reg 1#4 == 0x0101#32 && t.reg 2#4 == 0x0102#32 && t.reg 3#4 == 0x0103#32) = true := by decide
/-- V8: LDMIA r13!, {r0, pc} -/
theorem test_ldm1_b :
    armAt 0x8000#32 0xE8BD8001#32 (vec 0xd3#32 [(13#4, 0x9008#32)] [(0x9008#32, 0xc0#32), (0x900c#32, 0x8125#32)])
      (fun t => t.reg 0#4 == 0x00C0#32 && t.reg 13#4 == 0x9010#32 && t.pc == 0x8124#32 && t.thumb) = true := by decide
/-- V8: STMIB r0!, {r1, r2, r3} -/
theorem test_stm1_a :
    armAt 0x8000#32 0xE9A0000E#32 (vec 0xd3#32 [(0#4, 0x9010#32), (1#4, 0xa1#32), (2#4, 0xa2#32), (3#4, 0xa3#32)] [])
      (fun t => t.reg 0#4 == 0x901C#32 && t.wordAt 0x9014#32 == 0x00A1#32 && t.wordAt 0x9018#32 == 0x00A2#32 && t.wordAt 0x901C#32 == 0x00A3#32) = true := by decide
/-- V8: STMIA r0!, {r0, r1} -/
theorem test_stm1_b :
    armAt 0x8000#32 0xE8A00003#32 (vec 0xd3#32 [(0#4, 0x9000#32), (1#4, 0xb1#32)] [])
      (fun t => t.reg 0#4 == 0x9008#32 && t.wordAt 0x9000#32 == 0x9000#32 && t.wordAt 0x9004#32 == 0x00B1#32) = true := by decide
/-- V8: STMIA r0, {r13, r14}^ -/
theorem test_stm2 :
    armAt 0x8000#32 0xE8C06000#32 (((vec 0xd2#32 [(0#4, 0x9000#32), (13#4, 0x1111#32), (14#4, 0x2222#32)] []).setRegIn .usr 13#4 0xaaaa#32).setRegIn .usr 14#4 0xbbbb#32)
      (fun t => t.reg 0#4 == 0x9000#32 && t.reg 13#4 == 0x1111#32 && t.reg 14#4 == 0x2222#32 && t.wordAt 0x9000#32 == 0xAAAA#32 && t.wordAt 0x9004#32 == 0xBBBB#32) = true := by decide
/-- V8: LDMIA r0, {r13, r14}^ -/
theorem test_ldm2 :
    armAt 0x8000#32 0xE8D06000#32 (((vec 0xd2#32 [(0#4, 0x9000#32), (13#4, 0x1111#32), (14#4, 0x2222#32)] m8).setRegIn .usr 13#4 0xaaaa#32).setRegIn .usr 14#4 0xbbbb#32)
      (fun t => t.reg 13#4 == 0x1111#32 && t.reg 14#4 == 0x2222#32 && t.regIn .usr 13#4 == 0x0100#32 && t.regIn .usr 14#4 == 0x0101#32) = true := by decide
/-- V8: LDMIA r13!, {r0, pc}^ -/
theorem test_ldm3 :
    armAt 0x8000#32 0xE8FD8001#32 ((vec 0xd2#32 [(13#4, 0x9008#32)] [(0x9008#32, 0xc0#32), (0x900c#32, 0x8124#32)]).setSpsrIn (bankOf 0x12#5) 0x80000010#32)
      (fun t => t.reg 0#4 == 0x00C0#32 && t.pc == 0x8124#32 && t.cpsr == 0x80000010#32) = true := by decide
/-- V9: MRS r0, CPSR -/
theorem test_mrs_a :
    armAt 0x8000#32 0xE10F0000#32 (vec 0xf00000d3#32 [] [])
      (fun t => t.reg 0#4 == 0xF00000D3#32) = true := by decide
/-- V9: MRS r0, SPSR -/
theorem test_mrs_b :
    armAt 0x8000#32 0xE14F0000#32 ((vec 0xd3#32 [] []).setSpsrIn (bankOf 0x13#5) 0x60000030#32)
      (fun t => t.reg 0#4 == 0x60000030#32) = true := by decide
/-- V9: MSR CPSR_f, #0xF0000000 -/
theorem test_msrImm_a :
    armAt 0x8000#32 0xE328F20F#32 (vec 0x80000d3#32 [] [])
      (fun t => t.cpsr == 0xF00000D3#32) = true := by decide
/-- V9: MSR CPSR_c, #0x10 -/
theorem test_msrImm_b :
    armAt 0x8000#32 0xE321F010#32 (vec 0xd3#32 [] [])
      (fun t => t.cpsr == 0x0010#32) = true := by decide
/-- V9: MSR CPSR_cxsf, r0 -/
theorem test_msrReg_a :
    armAt 0x8000#32 0xE12FF000#32 (vec 0x10#32 [(0#4, 0xf80000df#32)] [])
      (fun t => t.cpsr == 0xF8000010#32) = true := by decide
/-- V9: MSR CPSR_c, r0 -/
theorem test_msrReg_b :
    armAt 0x8000#32 0xE121F000#32 (vec 0xd3#32 [(0#4, 0x1f#32)] [])
      (fun t => t.cpsr == 0x001F#32) = true := by decide
/-- V11: LSL r0, r1, #0 -/
theorem test_tLslImm_a :
    thumbAt 0x8000#32 0x0008#16 (vec 0x200000f3#32 [(1#4, 0x80000000#32)] [])
      (fun t => t.reg 0#4 == 0x80000000#32 && nzcv t == 0b1010#4) = true := by decide
/-- V11: LSL r0, r1, #31 -/
theorem test_tLslImm_b :
    thumbAt 0x8000#32 0x07C8#16 (vec 0xf3#32 [(1#4, 3#32)] [])
      (fun t => t.reg 0#4 == 0x80000000#32 && nzcv t == 0b1010#4) = true := by decide
/-- V11: LSR r0, r1, #32 -/
theorem test_tLsrImm :
    thumbAt 0x8000#32 0x0808#16 (vec 0xf3#32 [(1#4, 0x80000000#32)] [])
      (fun t => t.reg 0#4 == 0#32 && nzcv t == 0b0110#4) = true := by decide
/-- V11: ASR r0, r1, #32 -/
theorem test_tAsrImm_a :
    thumbAt 0x8000#32 0x1008#16 (vec 0xf3#32 [(1#4, 0x80000000#32)] [])
      (fun t => t.reg 0#4 == 0xFFFFFFFF#32 && nzcv t == 0b1010#4) = true := by decide
/-- V11: ASR r0, r1, #1 -/
theorem test_tAsrImm_b :
    thumbAt 0x8000#32 0x1048#16 (vec 0xf3#32 [(1#4, 0x7fffffff#32)] [])
      (fun t => t.reg 0#4 == 0x3FFFFFFF#32 && nzcv t == 0b0010#4) = true := by decide
/-- V11: ADD r0, r1, r2 -/
theorem test_tAddReg :
    thumbAt 0x8000#32 0x1888#16 (vec 0xf3#32 [(1#4, 0xffffffff#32), (2#4, 1#32)] [])
      (fun t => t.reg 0#4 == 0#32 && nzcv t == 0b0110#4) = true := by decide
/-- V11: SUB r0, r1, r2 -/
theorem test_tSubReg :
    thumbAt 0x8000#32 0x1A88#16 (vec 0xf3#32 [(1#4, 0x80000000#32), (2#4, 1#32)] [])
      (fun t => t.reg 0#4 == 0x7FFFFFFF#32 && nzcv t == 0b0011#4) = true := by decide
/-- V11: ADD r0, r1, #0 -/
theorem test_tAddImm3 :
    thumbAt 0x8000#32 0x1C08#16 (vec 0x300000f3#32 [(1#4, 0x80000000#32)] [])
      (fun t => t.reg 0#4 == 0x80000000#32 && nzcv t == 0b1000#4) = true := by decide
/-- V11: SUB r0, r0, #7 -/
theorem test_tSubImm3 :
    thumbAt 0x8000#32 0x1FC0#16 (vec 0xf3#32 [(0#4, 7#32)] [])
      (fun t => t.reg 0#4 == 0#32 && nzcv t == 0b0110#4) = true := by decide
/-- V11: MOV r0, #0 -/
theorem test_tMovImm :
    thumbAt 0x8000#32 0x2000#16 (vec 0x300000f3#32 [(0#4, 5#32)] [])
      (fun t => t.reg 0#4 == 0#32 && nzcv t == 0b0111#4) = true := by decide
/-- V11: CMP r0, #255 -/
theorem test_tCmpImm :
    thumbAt 0x8000#32 0x28FF#16 (vec 0xf3#32 [(0#4, 0#32)] [])
      (fun t => nzcv t == 0b1000#4) = true := by decide
/-- V11: ADD r0, #255 -/
theorem test_tAddImm8 :
    thumbAt 0x8000#32 0x30FF#16 (vec 0xf3#32 [(0#4, 0xffffff01#32)] [])
      (fun t => t.reg 0#4 == 0#32 && nzcv t == 0b0110#4) = true := by decide
/-- V11: SUB r0, #1 -/
theorem test_tSubImm8 :
    thumbAt 0x8000#32 0x3801#16 (vec 0xf3#32 [(0#4, 0x80000000#32)] [])
      (fun t => t.reg 0#4 == 0x7FFFFFFF#32 && nzcv t == 0b0011#4) = true := by decide
/-- V11: ADC r0, r1 -/
theorem test_tAdc :
    thumbAt 0x8000#32 0x4148#16 (vec 0x200000f3#32 [(0#4, 0x7fffffff#32), (1#4, 0#32)] [])
      (fun t => t.reg 0#4 == 0x80000000#32 && nzcv t == 0b1001#4) = true := by decide
/-- V11: SBC r0, r1 -/
theorem test_tSbc :
    thumbAt 0x8000#32 0x4188#16 (vec 0xf3#32 [(0#4, 0#32), (1#4, 0#32)] [])
      (fun t => t.reg 0#4 == 0xFFFFFFFF#32 && nzcv t == 0b1000#4) = true := by decide
/-- V11: NEG r0, r1 -/
theorem test_tNeg_a :
    thumbAt 0x8000#32 0x4248#16 (vec 0xf3#32 [(1#4, 0x80000000#32)] [])
      (fun t => t.reg 0#4 == 0x80000000#32 && nzcv t == 0b1001#4) = true := by decide
/-- V11: NEG r0, r1 -/
theorem test_tNeg_b :
    thumbAt 0x8000#32 0x4248#16 (vec 0xf3#32 [(1#4, 0#32)] [])
      (fun t => t.reg 0#4 == 0#32 && nzcv t == 0b0110#4) = true := by decide
/-- V11: CMP r0, r1 -/
theorem test_tCmpReg :
    thumbAt 0x8000#32 0x4288#16 (vec 0xf3#32 [(0#4, 0#32), (1#4, 0x80000000#32)] [])
      (fun t => nzcv t == 0b1001#4) = true := by decide
/-- V11: CMN r0, r1 -/
theorem test_tCmn :
    thumbAt 0x8000#32 0x42C8#16 (vec 0xf3#32 [(0#4, 0x7fffffff#32), (1#4, 1#32)] [])
      (fun t => nzcv t == 0b1001#4) = true := by decide
/-- V11: TST r0, r1 -/
theorem test_tTst :
    thumbAt 0x8000#32 0x4208#16 (vec 0x200000f3#32 [(0#4, 0x80000000#32), (1#4, 0x80000000#32)] [])
      (fun t => nzcv t == 0b1010#4) = true := by decide
/-- V11: AND r0, r1 -/
theorem test_tAnd :
    thumbAt 0x8000#32 0x4008#16 (vec 0xf3#32 [(0#4, 0xf0f0f0f0#32), (1#4, 0xff00ff0#32)] [])
      (fun t => t.reg 0#4 == 0xF000F0#32 && nzcv t == 0b0000#4) = true := by decide
/-- V11: EOR r0, r1 -/
theorem test_tEor :
    thumbAt 0x8000#32 0x4048#16 (vec 0xf3#32 [(0#4, 0xffffffff#32), (1#4, 0x7fffffff#32)] [])
      (fun t => t.reg 0#4 == 0x80000000#32 && nzcv t == 0b1000#4) = true := by decide
/-- V11: ORR r0, r1 -/
theorem test_tOrr :
    thumbAt 0x8000#32 0x4308#16 (vec 0x100000f3#32 [(0#4, 0#32), (1#4, 0#32)] [])
      (fun t => t.reg 0#4 == 0#32 && nzcv t == 0b0101#4) = true := by decide
/-- V11: LSL r0, r1 -/
theorem test_tLslReg_a :
    thumbAt 0x8000#32 0x4088#16 (vec 0x200000f3#32 [(0#4, 0xffffffff#32), (1#4, 0x21#32)] [])
      (fun t => t.reg 0#4 == 0#32 && nzcv t == 0b0100#4) = true := by decide
/-- V11: LSL r0, r1 -/
theorem test_tLslReg_b :
    thumbAt 0x8000#32 0x4088#16 (vec 0xf3#32 [(0#4, 1#32), (1#4, 0x101#32)] [])
      (fun t => t.reg 0#4 == 0x0002#32 && nzcv t == 0b0000#4) = true := by decide
/-- V11: LSR r0, r1 -/
theorem test_tLsrReg_a :
    thumbAt 0x8000#32 0x40C8#16 (vec 0x200000f3#32 [(0#4, 0xffffffff#32), (1#4, 0x21#32)] [])
      (fun t => t.reg 0#4 == 0#32 && nzcv t == 0b0100#4) = true := by decide
/-- V11: LSR r0, r1 -/
theorem test_tLsrReg_b :
    thumbAt 0x8000#32 0x40C8#16 (vec 0xf3#32 [(0#4, 0x80000000#32), (1#4, 0x20#32)] [])
      (fun t => t.reg 0#4 == 0#32 && nzcv t == 0b0110#4) = true := by decide
/-- V11: ASR r0, r1 -/
theorem test_tAsrReg :
    thumbAt 0x8000#32 0x4108#16 (vec 0xf3#32 [(0#4, 0x80000000#32), (1#4, 0x20#32)] [])
      (fun t => t.reg 0#4 == 0xFFFFFFFF#32 && nzcv t == 0b1010#4) = true := by decide
/-- V11: ROR r0, r1 -/
theorem test_tRor_a :
    thumbAt 0x8000#32 0x41C8#16 (vec 0xf3#32 [(0#4, 0x80000001#32), (1#4, 0x100#32)] [])
      (fun t => t.reg 0#4 == 0x80000001#32 && nzcv t == 0b1000#4) = true := by decide
/-- V11: ROR r0, r1 -/
theorem test_tRor_b :
    thumbAt 0x8000#32 0x41C8#16 (vec 0xf3#32 [(0#4, 0xf#32), (1#4, 0x24#32)] [])
      (fun t => t.reg 0#4 == 0xF0000000#32 && nzcv t == 0b1010#4) = true := by decide
/-- V11: MUL r0, r1 -/
theorem test_tMul_a :
    thumbAt 0x8000#32 0x4348#16 (vec 0x300000f3#32 [(0#4, 0xffffffff#32), (1#4, 0xffffffff#32)] [])
      (fun t => t.reg 0#4 == 0x0001#32 && nzcv t == 0b0011#4) = true := by decide
/-- V11: MUL r0, r1 -/
theorem test_tMul_b :
    thumbAt 0x8000#32 0x4348#16 (vec 0xf3#32 [(0#4, 0x8000#32), (1#4, 0x10000#32)] [])
      (fun t => t.reg 0#4 == 0x80000000#32 && nzcv t == 0b1000#4) = true := by decide
/-- V11: BIC r0, r1 -/
theorem test_tBic :
    thumbAt 0x8000#32 0x4388#16 (vec 0x200000f3#32 [(0#4, 0xff#32), (1#4, 0xff#32)] [])
      (fun t => t.reg 0#4 == 0#32 && nzcv t == 0b0110#4) = true := by decide
/-- V11: MVN r0, r1 -/
theorem test_tMvn :
    thumbAt 0x8000#32 0x43C8#16 (vec 0xf3#32 [(1#4, 0xffffffff#32)] [])
      (fun t => t.reg 0#4 == 0#32 && nzcv t == 0b0100#4) = true := by decide
/-- V11: ADD r0, pc -/
theorem test_tAddHi_a :
    thumbAt 0x8002#32 0x4478#16 (vec 0xf3#32 [(0#4, 0x10#32)] [])
      (fun t => t.reg 0#4 == 0x8016#32) = true := by decide
/-- V11: ADD pc, r0 -/
theorem test_tAddHi_b :
    thumbAt 0x8000#32 0x4487#16 (vec 0xf3#32 [(0#4, 0x11#32)] [])
      (fun t => t.pc == 0x8014#32 && t.thumb) = true := by decide
/-- V11: CMP r0, r8 -/
theorem test_tCmpHi :
    thumbAt 0x8000#32 0x4540#16 (vec 0xf3#32 [(0#4, 0x80000000#32), (8#4, 1#32)] [])
      (fun t => nzcv t == 0b0011#4) = true := by decide
/-- V11: MOV r0, pc -/
theorem test_tMovHi_a :
    thumbAt 0x8002#32 0x4678#16 (vec 0xf3#32 [] [])
      (fun t => t.reg 0#4 == 0x8006#32) = true := by decide
/-- V11: MOV pc, r0 -/
theorem test_tMovHi_b :
    thumbAt 0x8000#32 0x4687#16 (vec 0xf3#32 [(0#4, 0x9001#32)] [])
      (fun t => t.pc == 0x9000#32 && t.thumb) = true := by decide
/-- V11: ADD r0, pc, #1020 -/
theorem test_tAddPc :
    thumbAt 0x8002#32 0xA0FF#16 (vec 0xf3#32 [] [])
      (fun t => t.reg 0#4 == 0x8400#32) = true := by decide
/-- V11: ADD r0, sp, #1020 -/
theorem test_tAddSpRd :
    thumbAt 0x8000#32 0xA8FF#16 (vec 0xf3#32 [(13#4, 0x10000#32)] [])
      (fun t => t.reg 0#4 == 0x103FC#32) = true := by decide
/-- V11: ADD sp, #508 -/
theorem test_tAddSp :
    thumbAt 0x8000#32 0xB07F#16 (vec 0xf3#32 [(13#4, 0x10000#32)] [])
      (fun t => t.reg 13#4 == 0x101FC#32) = true := by decide
/-- V11: SUB sp, #508 -/
theorem test_tSubSp :
    thumbAt 0x8000#32 0xB0FF#16 (vec 0xf3#32 [(13#4, 0x10000#32)] [])
      (fun t => t.reg 13#4 == 0xFE04#32) = true := by decide
/-- V12: LDR r0, [r1, #124] -/
theorem test_tLdrImm :
    thumbAt 0x8000#32 0x6FC8#16 (vec 0xf3#32 [(1#4, 0x9000#32)] [(0x907c#32, 0xcafebabe#32)])
      (fun t => t.reg 0#4 == 0xCAFEBABE#32) = true := by decide
/-- V12: LDRB r0, [r1, #31] -/
theorem test_tLdrbImm :
    thumbAt 0x8000#32 0x7FC8#16 (vec 0xf3#32 [(1#4, 0x9000#32)] [(0x901c#32, 0x80000000#32)])
      (fun t => t.reg 0#4 == 0x0080#32) = true := by decide
/-- V12: LDRH r0, [r1, #62] -/
theorem test_tLdrhImm :
    thumbAt 0x8000#32 0x8FC8#16 (vec 0xf3#32 [(1#4, 0x9000#32)] [(0x903c#32, 0x80010000#32)])
      (fun t => t.reg 0#4 == 0x8001#32) = true := by decide
/-- V12: LDR r0, [r1, r2] -/
theorem test_tLdrReg :
    thumbAt 0x8000#32 0x5888#16 (vec 0xf3#32 [(1#4, 0x9000#32), (2#4, 8#32)] m3)
      (fun t => t.reg 0#4 == 0x99AABBCC#32) = true := by decide
/-- V12: LDRH r0, [r1, r2] -/
theorem test_tLdrhReg :
    thumbAt 0x8000#32 0x5A88#16 (vec 0xf3#32 [(1#4, 0x9000#32), (2#4, 6#32)] m3)
      (fun t => t.reg 0#4 == 0x5566#32) = true := by decide
/-- V12: LDRB r0, [r1, r2] -/
theorem test_tLdrbReg :
    thumbAt 0x8000#32 0x5C88#16 (vec 0xf3#32 [(1#4, 0x9000#32), (2#4, 5#32)] m3)
      (fun t => t.reg 0#4 == 0x0077#32) = true := by decide
/-- V12: LDRSH r0, [r1, r2] -/
theorem test_tLdrshReg :
    thumbAt 0x8000#32 0x5E88#16 (vec 0xf3#32 [(1#4, 0x9000#32), (2#4, 0x3e#32)] [(0x903c#32, 0x80010000#32)])
      (fun t => t.reg 0#4 == 0xFFFF8001#32) = true := by decide
/-- V12: LDRSB r0, [r1, r2] -/
theorem test_tLdrsbReg :
    thumbAt 0x8000#32 0x5688#16 (vec 0xf3#32 [(1#4, 0x9000#32), (2#4, 0xffffffff#32)] [(0x8ffc#32, 0x7f000000#32)])
      (fun t => t.reg 0#4 == 0x007F#32) = true := by decide
/-- V12: LDR r0, [pc, #1020] -/
theorem test_tLdrPc :
    thumbAt 0x8002#32 0x48FF#16 (vec 0xf3#32 [] [(0x8400#32, 0x12345678#32)])
      (fun t => t.reg 0#4 == 0x12345678#32) = true := by decide
/-- V12: LDR r0, [sp, #1020] -/
theorem test_tLdrSp :
    thumbAt 0x8000#32 0x98FF#16 (vec 0xf3#32 [(13#4, 0x9000#32)] [(0x93fc#32, 0x87654321#32)])
      (fun t => t.reg 0#4 == 0x87654321#32) = true := by decide
/-- V12: STR r0, [r1, #4] -/
theorem test_tStrImm :
    thumbAt 0x8000#32 0x6048#16 (vec 0xf3#32 [(0#4, 0xaabbccdd#32), (1#4, 0x9000#32)] [])
      (fun t => t.wordAt 0x9004#32 == 0xAABBCCDD#32) = true := by decide
/-- V12: STR r0, [r1, r2] -/
theorem test_tStrReg :
    thumbAt 0x8000#32 0x5088#16 (vec 0xf3#32 [(0#4, 0xaabbccdd#32), (1#4, 0x9000#32), (2#4, 8#32)] [])
      (fun t => t.wordAt 0x9008#32 == 0xAABBCCDD#32) = true := by decide
/-- V12: STRB r0, [r1, #3] -/
theorem test_tStrbImm :
    thumbAt 0x8000#32 0x70C8#16 (vec 0xf3#32 [(0#4, 0x1ff#32), (1#4, 0x9000#32)] [(0x9000#32, 0x11223344#32)])
      (fun t => t.wordAt 0x9000#32 == 0xFF223344#32) = true := by decide
/-- V12: STRB r0, [r1, r2] -/
theorem test_tStrbReg :
    thumbAt 0x8000#32 0x5488#16 (vec 0xf3#32 [(0#4, 0x1ff#32), (1#4, 0x9000#32), (2#4, 1#32)] [(0x9000#32, 0x11223344#32)])
      (fun t => t.wordAt 0x9000#32 == 0x1122FF44#32) = true := by decide
/-- V12: STRH r0, [r1, #2] -/
theorem test_tStrhImm :
    thumbAt 0x8000#32 0x8048#16 (vec 0xf3#32 [(0#4, 0x1234abcd#32), (1#4, 0x9000#32)] [(0x9000#32, 0x11223344#32)])
      (fun t => t.wordAt 0x9000#32 == 0xABCD3344#32) = true := by decide
/-- V12: STRH r0, [r1, r2] -/
theorem test_tStrhReg :
    thumbAt 0x8000#32 0x5288#16 (vec 0xf3#32 [(0#4, 0x1234abcd#32), (1#4, 0x9000#32), (2#4, 0#32)] [(0x9000#32, 0x11223344#32)])
      (fun t => t.wordAt 0x9000#32 == 0x1122ABCD#32) = true := by decide
/-- V12: STR r0, [sp, #0] -/
theorem test_tStrSp :
    thumbAt 0x8000#32 0x9000#16 (vec 0xf3#32 [(0#4, 0x77#32), (13#4, 0x9000#32)] [])
      (fun t => t.wordAt 0x9000#32 == 0x0077#32) = true := by decide
/-- V12: LDMIA r0!, {r0, r1} -/
theorem test_tLdmia_a :
    thumbAt 0x8000#32 0xC803#16 (vec 0xf3#32 [(0#4, 0x9000#32)] m8)
      (fun t => t.reg 0#4 == 0x0100#32 && t.reg 1#4 == 0x0101#32) = true := by decide
/-- V12: LDMIA r3!, {r0, r7} -/
theorem test_tLdmia_b :
    thumbAt 0x8000#32 0xCB81#16 (vec 0xf3#32 [(3#4, 0x9000#32)] m8)
      (fun t => t.reg 0#4 == 0x0100#32 && t.reg 3#4 == 0x9008#32 && t.reg 7#4 == 0x0101#32) = true := by decide
/-- V12: STMIA r0!, {r0, r1} -/
theorem test_tStmia :
    thumbAt 0x8000#32 0xC003#16 (vec 0xf3#32 [(0#4, 0x9000#32), (1#4, 0xb1#32)] [])
      (fun t => t.reg 0#4 == 0x9008#32 && t.wordAt 0x9000#32 == 0x9000#32 && t.wordAt 0x9004#32 == 0x00B1#32) = true := by decide
/-- V12: PUSH {r0, r7, lr} -/
theorem test_tPush :
    thumbAt 0x8000#32 0xB581#16 (vec 0xf3#32 [(0#4, 0xa0#32), (7#4, 0xa7#32), (13#4, 0x9010#32), (14#4, 0x8001#32)] [])
      (fun t => t.reg 13#4 == 0x9004#32 && t.wordAt 0x9004#32 == 0x00A0#32 && t.wordAt 0x9008#32 == 0x00A7#32 && t.wordAt 0x900C#32 == 0x8001#32) = true := by decide
/-- V12: POP {r0, r7, pc} -/
theorem test_tPop_a :
    thumbAt 0x8000#32 0xBD81#16 (vec 0xf3#32 [(13#4, 0x9004#32)] [(0x9004#32, 0xa0#32), (0x9008#32, 0xa7#32), (0x900c#32, 0x8001#32)])
      (fun t => t.reg 0#4 == 0x00A0#32 && t.reg 7#4 == 0x00A7#32 && t.reg 13#4 == 0x9010#32 && t.pc == 0x8000#32 && t.thumb) = true := by decide
/-- V12: POP {pc} -/
theorem test_tPop_b :
    thumbAt 0x8000#32 0xBD00#16 (vec 0xf3#32 [(13#4, 0x9004#32)] [(0x9004#32, 0x8000#32)])
      (fun t => t.reg 13#4 == 0x9008#32 && t.pc == 0x8000#32 && !t.thumb) = true := by decide
/-- V12: BGT 0x8010 -/
theorem test_tBcond_a :
    thumbAt 0x8000#32 0xDC06#16 (vec 0x900000f3#32 [] [])
      (fun t => t.pc == 0x8010#32) = true := by decide
/-- V12: BEQ (immed_8 = 0x80) -/
theorem test_tBcond_b :
    thumbAt 0x8000#32 0xD080#16 (vec 0x400000f3#32 [] [])
      (fun t => t.pc == 0x7F04#32) = true := by decide
/-- V12: B (offset_11 = 0x3FF) -/
theorem test_tB_a : thumbAt 0x8000#32 0xE3FF#16 (vec 0xf3#32 [] []) (fun t => t.pc == 0x8802#32) = true := by decide
/-- V12: B (offset_11 = 0x400) -/
theorem test_tB_b : thumbAt 0x8000#32 0xE400#16 (vec 0xf3#32 [] []) (fun t => t.pc == 0x7804#32) = true := by decide
/-- V12: BX r1 -/
theorem test_tBx_a :
    thumbAt 0x8000#32 0x4708#16 (vec 0xf3#32 [(1#4, 0x9003#32)] [])
      (fun t => t.pc == 0x9002#32 && t.thumb) = true := by decide
/-- V12: BX pc -/
theorem test_tBx_b :
    thumbAt 0x8000#32 0x4778#16 (vec 0xf3#32 [] [])
      (fun t => t.pc == 0x8004#32 && !t.thumb) = true := by decide
/-- V12: BLX r1 -/
theorem test_tBlxReg :
    thumbAt 0x8002#32 0x4788#16 (vec 0xf3#32 [(1#4, 0x9001#32)] [])
      (fun t => t.reg 14#4 == 0x8005#32 && t.pc == 0x9000#32 && t.thumb) = true := by decide

/-! ### Instructions that the tables of spec/96 give with another bank, an exception, or a coprocessor -/

/-- V7's last paragraph: LDRT, LDRBT, STRT and STRBT give what the post-indexed forms give. -/
theorem test_ldrt : armAt 0x8000#32 0xE4B10004#32 (vec 0xd3#32 [(1#4, 0x9000#32)] m3)
    (fun t => t.reg 0#4 == 0x11223344#32 && t.reg 1#4 == 0x9004#32) = true := by decide
theorem test_ldrbt : armAt 0x8000#32 0xE4F10004#32 (vec 0xd3#32 [(1#4, 0x9001#32)] m3)
    (fun t => t.reg 0#4 == 0x33#32 && t.reg 1#4 == 0x9005#32) = true := by decide
theorem test_strt : armAt 0x8000#32 0xE4A10004#32 (vec 0xd3#32 [(0#4, 0xAABBCCDD#32), (1#4, 0x9000#32)] m3)
    (fun t => t.wordAt 0x9000#32 == 0xAABBCCDD#32 && t.reg 1#4 == 0x9004#32) = true := by decide
theorem test_strbt : armAt 0x8000#32 0xE4E10004#32 (vec 0xd3#32 [(0#4, 0xAABBCCDD#32), (1#4, 0x9000#32)] m3)
    (fun t => t.wordAt 0x9000#32 == 0x112233DD#32 && t.reg 1#4 == 0x9004#32) = true := by decide
/-- V7: LDRB r0, [r1, #1] with B = 1, image M3 -/
theorem test_ldrb_big : gives (exec (decode (.arm 0xE5D10001#32)) { State.reset with
      regs := State.reset.regs.set 1 0x9000#32
      cp15 := { State.reset.cp15 with ctl := 0xF8#32 }
      mem := physWrite [] true .word 0x9000#32 0x11223344#32 })
    (fun t => t.reg 0#4 == 0x22#32) = true := by decide
/-- V12: BL +0x3FFFFE, the two halves -/
theorem test_tBlPrefix : thumbAt 0x8000#32 0xF3FF#16 (vec 0xf3#32 [] [])
    (fun t => t.reg 14#4 == 0x407004#32 && t.pc == 0x8002#32) = true := by decide
theorem test_tBlSuffix : thumbAt 0x8002#32 0xFFFF#16 (vec 0xf3#32 [(14#4, 0x407004#32)] [])
    (fun t => t.reg 14#4 == 0x8005#32 && t.pc == 0x408002#32 && t.thumb) = true := by decide
/-- V12: BLX 0x9000, its second half -/
theorem test_tBlxSuffix : thumbAt 0x8004#32 0xEFFE#16 (vec 0xf3#32 [(14#4, 0x8006#32)] [])
    (fun t => t.reg 14#4 == 0x8007#32 && t.pc == 0x9000#32 && !t.thumb) = true := by decide

/-- V13: a bank's r14, its SPSR, the CPSR after entry and the pc. -/
def entered (b : Bank) (link spsr cpsr pc : Word) (t : State) : Bool :=
  t.regIn b 14#4 == link && (spsrIndex b).any (fun k => t.spsr[k] == spsr) && t.cpsr == cpsr && t.pc == pc

/-- V13 and V15, X1 to X8: the UNDEFINED rows of the ARM table, each with one of its words. -/
theorem test_undefined_arm :
    [0xE7F000F0#32, 0xE6000010#32, 0xE3000000#32, 0xE1000010#32, 0xEC000000#32, 0xF0000000#32, 0xFF000000#32,
      0xF7D1F233#32, 0xF8112345#32, 0xE0400090#32].all (fun w =>
        armAt 0x8000#32 w (vec 0x60000010#32 [] []) (entered .und 0x8004#32 0x60000010#32 0x6000009B#32 4#32)) = true := by
  decide
/-- V13 and V15, X69 to X72: the UNDEFINED rows of the Thumb table. -/
theorem test_undefined_thumb :
    [0xDE00#16, 0xB100#16, 0xBF00#16, 0xE801#16].all (fun h =>
      thumbAt 0x8002#32 h (vec 0x60000030#32 [] []) (entered .und 0x8004#32 0x60000030#32 0x6000009B#32 4#32)) = true := by
  decide
/-- V15, X3: the condition fails first. -/
theorem test_undefined_condition : armAt 0x8000#32 0x07F000F0#32 (vec 0xd3#32 [] [])
    (fun t => t.pc == 0x8004#32 && t.cpsr == 0xd3#32) = true := by decide
theorem test_swi : armAt 0x8000#32 0xEF000000#32 (vec 0x60000010#32 [] [])
    (entered .svc 0x8004#32 0x60000010#32 0x60000093#32 8#32) = true := by decide
theorem test_tSwi : thumbAt 0x8002#32 0xDF01#16 (vec 0x60000030#32 [] [])
    (entered .svc 0x8004#32 0x60000030#32 0x60000093#32 8#32) = true := by decide
/-- V13, V15 X19 -/
theorem test_bkpt : armAt 0x8000#32 0xE1200070#32 (vec 0x60000010#32 [] [])
    (entered .abt 0x8004#32 0x60000010#32 0x60000097#32 0x0C#32) = true := by decide
theorem test_tBkpt : thumbAt 0x8002#32 0xBE00#16 (vec 0x60000030#32 [] [])
    (entered .abt 0x8006#32 0x60000030#32 0x60000097#32 0x0C#32) = true := by decide
/-- V13's Data Abort record: LDR r0, [r4, #2]! at 0x8014 with A = 1 -/
theorem test_data_abort : gives (exec (decode (.arm 0xE5B40002#32)) { State.reset with
      pc := 0x8014#32
      regs := State.reset.regs.set 4 0x9000#32
      cp15 := { State.reset.cp15 with ctl := 0x7A#32 } })
    (fun t => t.cp15.dfar == 0x9002#32 && t.cp15.ifar == 0x801C#32 &&
      t.regIn .abt 14#4 == 0x801C#32 && t.reg 0#4 == 0#32 && t.reg 4#4 == 0x9000#32 && t.pc == 0x10#32) = true := by decide
/-- V13: IRQ from Thumb state, FIQ from ARM state -/
theorem test_irq : gives (step { State.reset with
      pc := 0x8002#32, cpsr := 0x60000030#32, pins := { Pins.reset with nirq := false } })
    (entered .irq 0x8006#32 0x60000030#32 0x60000092#32 0x18#32) = true := by decide
theorem test_fiq : gives (step { State.reset with
      pc := 0x8000#32, cpsr := 0x60000010#32, pins := { Pins.reset with nfiq := false } })
    (entered .fiq 0x8004#32 0x60000010#32 0x600000D1#32 0x1C#32) = true := by decide

/-- V10: the cache type register, c13, and CP15 in User mode (X11) -/
theorem test_mrc : armAt 0x8000#32 0xEE100F30#32 (vec 0xd3#32 [] []) (fun t => t.reg 0#4 == 0x0D1B21B2#32) = true := by
  decide
theorem test_mrc_user : armAt 0x8000#32 0xEE110F10#32 (vec 0x10#32 [] [])
    (entered .und 0x8004#32 0x10#32 0x9B#32 4#32) = true := by decide
theorem test_mcr : armAt 0x8000#32 0xEE0D0F10#32 (vec 0xd3#32 [(0#4, 0x02000000#32)] [])
    (fun t => t.cp15.pid == 1#7) = true := by decide
/-- V10: MCR p15, 0, r0, c7, c10, 4 with a buffered store -/
theorem test_mcr_drain : gives (exec (decode (.arm 0xEE070F9A#32)) { State.reset with
      wbuf := [⟨0x9000#32, .word, 0x11223344#64, 7#4, false, .single⟩] })
    (fun t => t.wbuf.isEmpty && t.wordAt 0x9000#32 == 0x11223344#32) = true := by decide
/-- V10: the debug ID register -/
theorem test_mrc_debug : armAt 0x8000#32 0xEE100E10#32 (vec 0x10#32 [] []) (fun t => t.reg 0#4 == 0x41006201#32) = true := by
  decide
/-- V10, V15 X9, X10, X13, X14: absent coprocessors, what CP15 has not, and the cond = 1111 forms -/
theorem test_coprocessor_absent :
    [0xEE1327A4#32, 0xEE000A10#32, 0xEE100A10#32, 0xEDB10A01#32, 0xED810A01#32, 0xEC410A00#32, 0xEC510A00#32,
      0xFE1327A4#32, 0xFE000A10#32, 0xFE100A10#32, 0xFDB10A01#32, 0xFD810A01#32, 0xEE0C0F10#32, 0xEE000F00#32,
      0xEC410F00#32].all (fun w => armAt 0x8000#32 w (vec 0xd3#32 [(1#4, 0x9000#32)] [])
        (fun t => entered .und 0x8004#32 0xd3#32 0xDB#32 4#32 t && t.regs[1] == 0x9000#32)) = true := by decide
/-- A present coprocessor that is busy: the processor waits (spec/46 R702). -/
theorem test_coprocessor_busy : gives (exec (decode (.arm 0xEE1327A4#32)) { State.reset with
      pins := { Pins.reset with cpPresent := 0x80#14, cpbusye := true } }) (fun t => t == { State.reset with
      pins := { Pins.reset with cpPresent := 0x80#14, cpbusye := true } }) = true := by decide

/-! ### What is refused (V15) -/

/-- The instruction is refused for this reason. -/
def refuses (x : Outcome State) (r : Refusal) : Bool :=
  match x with
  | .refused q => q == r
  | _ => false

/-- X21 to X26, X33, X34, X47, X49, X59; X20; X27 in System mode; X28, X29; X54, X57; X40; X44. -/
theorem test_refused :
    [0xE0000190#32, 0xE00F0190#32, 0xE0800291#32, 0xE16F0F1F#32, 0xE081021F#32, 0xE5B00004#32, 0xE49F0004#32,
      0xE8B00003#32, 0xE8900000#32, 0xE1010091#32].all
        (fun w => refuses (exec (decode (.arm w)) (vec 0xd3#32 [] [])) .operandRestriction) = true ∧
    refuses (exec (decode (.arm 0xE16F0010#32)) (vec 0xd3#32 [] [])) .shouldBeField = true ∧
    refuses (exec (decode (.arm 0x01200070#32)) (vec 0xd3#32 [] [])) .conditionalBkpt = true ∧
    refuses (exec (decode (.arm 0xE1B0F00E#32)) (vec 0xdf#32 [] [])) .noSpsr = true ∧
    refuses (exec (decode (.arm 0xE1A0F000#32)) (vec 0xd3#32 [(0#4, 0x9002#32)] [])) .pcMisaligned = true ∧
    refuses (exec (decode (.arm 0xE12FFF10#32)) (vec 0xd3#32 [(0#4, 0x9002#32)] [])) .pcMisaligned = true ∧
    refuses (exec (decode (.arm 0xE121F000#32)) (vec 0xd3#32 [(0#4, 0x33#32)] [])) .msrSetsT = true ∧
    refuses (exec (decode (.arm 0xE121F000#32)) (vec 0xd3#32 [(0#4, 5#32)] [])) .illegalMode = true ∧
    refuses (exec (decode (.arm 0xE1C100B0#32)) (vec 0xd3#32 [(1#4, 0x9001#32)] [])) .misalignedHalfwordStore = true ∧
    refuses (exec (decode (.arm 0xE1C120D0#32)) (vec 0xd3#32 [(1#4, 0x9004#32)] [])) .misalignedDoubleword = true := by
  decide

/-! ### Translation (V14) -/

/-- The tables of rows W1 to W7, with the DACR of the T rows and a TTBR of 0x104000. -/
def walks : State :=
  { vec 0xd3#32 [] [(0x10448C#32, 0xABC00C1E#32), (0x104000#32, 0x00200031#32), (0x200048#32, 0x0ABCDD5A#32),
      (0x200070#32, 0x0BCD0555#32), (0x105000#32, 0x00300053#32), (0x30000C#32, 0xDEADBC23#32),
      (0x20004C#32, 0x12345003#32)] with
    cp15 := { State.reset.cp15 with ctl := 0x79#32, ttbr := 0x104000#32, dacr := 0xD#32 } }

/-- W1, W3, W4, W6, W7, F3, and T16: the tiny page of W5 is in domain 2, which gives no access. -/
theorem test_translate :
    (translate .data 0x12345678#32 true true walks).1 = .ok 0xABC45678#32 true true ∧
    (translate .data 0x00012ABC#32 false true walks).1 = .ok 0x0ABCDABC#32 true false ∧
    (translate .data 0x0001C123#32 false true walks).1 = .ok 0x0BCDC123#32 false true ∧
    (translate .data 0x80000000#32 false true walks).1 = .fault 5#4 none ∧
    (translate .data 0x00013000#32 false true walks).1 = .fault 7#4 (some 1#4) ∧
    (translate .data 0x40000FFF#32 false true walks).1 = .fault 0xB#4 (some 2#4) ∧
    relocate 0x7F#7 0x01FFFFFC#32 = 0xFFFFFFFC#32 := by decide

/-- A soft entry with the size code 2 is written, and an access by it runs; one with a section's size is refused (N13). -/
theorem test_unlisted_size :
    let s : State := { vec 0xd3#32 [] [] with
      cp15 := { State.reset.cp15 with ctl := 0x79#32, dacr := 1#32 }
      dtlb := { State.reset.dtlb with camHold := 0x08000000#32, protHold := 0x80#32, paHold := 0x42#32 } }
    let write : Instr := decode (.arm 0xEE0F0FB0#32)
    gives (exec write s) (fun t => gives (exec (decode (.arm 0xE5910000#32)) t) (fun u => u.pc == t.pc + 4#32)) = true ∧
    refuses (exec write { s with dtlb := { s.dtlb with paHold := 0x4F#32 } }) .tlbFormat = true := by decide

/-! ### The words an instruction is stored as, and the first step -/

/-- `decodeTableWord` reads a row's word as the decoder does. -/
theorem test_decodeTableWord :
    decodeTableWord 32 0xE0010002 = some (.and .al false 1#4 0#4 (.shiftImm 0#5 .lsl 2#4)) ∧
    decodeTableWord 16 0xDF01 = some (.tSwi 1#8) := by decide
/-- The first step after reset runs the instruction placed there (spec/40 R517; spec/47 R740), in either byte order. -/
theorem test_first_step :
    gives (step (State.reset.withFetchWord 32 0xE3E00000)) (fun t => t.reg 0#4 == 0xFFFFFFFF#32 && t.pc == 4#32) = true ∧
    gives (step (State.reset.withFetchWord 16 0x2305)) (fun t => t.reg 3#4 == 5#32 && t.pc == 2#32) = true ∧
    gives (step ({ State.reset with cp15 := Cp15.reset false true pllReset }.withFetchWord 16 0x2305))
      (fun t => t.reg 3#4 == 5#32) = true := by decide

/-! ### Witnesses: a concrete state and operands that meet the hypotheses of each statement, clause by clause -/

/-- An access that answers. -/
def okRes {α : Type} : Res α → Bool
  | .ok _ _ => true
  | _ => false

theorem ok_of {α : Type} {x : Res α} (h : okRes x = true) : ∃ a t, x = .ok a t := by
  cases x with
  | ok a t => exact ⟨a, t, rfl⟩
  | abort => exact absurd h Bool.false_ne_true
  | refuse => exact absurd h Bool.false_ne_true

/-- An access that aborts. -/
def abortRes {α : Type} : Res α → Bool
  | .abort _ _ => true
  | _ => false

theorem abort_of {α : Type} {x : Res α} (h : abortRes x = true) : ∃ e t, x = .abort e t := by
  cases x with
  | abort e t => exact ⟨e, t, rfl⟩
  | ok => exact absurd h Bool.false_ne_true
  | refuse => exact absurd h Bool.false_ne_true

theorem next_of {x : Outcome State} (h : gives x (fun _ => true) = true) : ∃ t, x = .next t := by
  cases x with
  | next t => exact ⟨t, rfl⟩
  | fault => exact absurd h Bool.false_ne_true
  | refused => exact absurd h Bool.false_ne_true

/-- The state after reset, and others near it. -/
def s0 : State := State.reset
def user : State := { s0 with cpsr := 0x10#32 }
def thumb0 : State := { s0 with cpsr := 0xF3#32 }
def lastArm : State := { s0 with pc := 0xFFFFFFFC#32 }
def aligning : State := { s0 with cp15 := { s0.cp15 with ctl := 0x7A#32 } }
def withL4 : State := { s0 with cp15 := { s0.cp15 with ctl := 0x8078#32 } }
def halted0 : State := { s0 with dbg := { s0.dbg with dscr := 1#32 } }
def debugging (dscr : Word) : State := { s0 with dbg := { s0.dbg with dscr := dscr }, pins := { s0.pins with dbgen := true } }
/-- The MMU is on, and the empty translation table maps nothing. -/
def translating : State := { s0 with cp15 := { s0.cp15 with ctl := 0x79#32 } }
/-- r1 is 0x9001, for misaligned accesses. -/
def odd (s : State) : State := s.setReg 1#4 0x9001#32

theorem witness_DecodeInvertsEncode : (Instr.tB 0#11).encodable = true ∧
    (Instr.ldc .al ⟨false, true, false, false, 0#4, 0#4, 0#4, 0#8⟩).encodable = true := by decide

/-- BLEQ backward; BL backward; B forward, alone and behind an instruction; BEQ forward (spec/71 R1027 notes b and e). -/
theorem test_prediction :
    let before : Option Prefetched := some ⟨0xFC#32, false, false, .word 0xE1A00000#32, .unpredicted⟩
    predictionOf before 0x100#32 false 0x0BFFFFFC#32 = .unpredicted ∧
    predictionOf none 0x100#32 false 0xEBFFFFFC#32 = .taken 0xF8#32 false ∧
    predictionOf none 0x100#32 false 0xEA000002#32 = .unpredicted ∧
    predictionOf before 0x100#32 false 0xEA000002#32 = .taken 0x110#32 false ∧
    predictionOf before 0x100#32 false 0x0A000002#32 = .notTaken := by decide

/-- STANDBY left with an unmasked IRQ and EDBGRQ: the interrupt is taken (spec/60 R890). -/
theorem test_wake_takes_interrupt :
    gives (step { debugging 0xC0000000#32 with
      run := .standby, cpsr := 0x53#32, pins := { s0.pins with dbgen := true, edbgrq := true, nirq := false } })
      (fun t => t.mode == 0x12#5 && t.pc == 0x18#32 && !t.halted) = true := by decide

/-- R960: after a DORMANT command SFRESETN is LOW when the power goes, and rises when it is back. -/
theorem test_power_goes_in_reset :
    let s : State := { s0 with
      pm := { s0.pm with powerOff := true, ackState := 4#4 }
      inputs := [.resetPins true false, .powerOff, .resetPins true true] }
    gives (step s) (fun t => gives (step t) (fun u => u.run == .poweredDown && gives (step u)
      (fun v => v.run == .running && v.pc == 0#32 && !v.pm.powerOff))) = true := by decide

/-- R951: without a power manager a write of PMTDR is discarded, of any value; with one its should-be-zero bits are checked. -/
theorem test_pmtdr_absent :
    let s : State := s0.setReg 0#4 0xFFFFFFFF#32
    gives (exec (decode (.arm 0xEE0F0F3E#32)) s) (fun t => t.pm == s.pm && t.pc == 4#32) = true ∧
    refuses (exec (decode (.arm 0xEE0F0F3E#32)) { s with pins := { s.pins with pmexists := true } }) .cp15ShouldBe = true := by
  decide

/-- IDLE acknowledged while a removal of power waits for the write buffer: the removal still waits (spec/62 R953). -/
theorem test_power_off_outlives_idle :
    gives (step { s0 with
      inputs := [.pmTxAck]
      wbuf := [⟨0#32, .word, 0#64, 0#4, false, .single⟩]
      pins := { s0.pins with hgrantd := false }
      pm := { s0.pm with txReq := true, txState := 8#4, pending := some .poweredDown } })
      (fun t => t.pm.pending == some .poweredDown && t.pm.w) = true := by decide

/-- ANDEQ r0, r0, r0 lies in the empty memory; LSL r0, r0, #0 in Thumb state; MVN r0, #0 in the prefetch buffer; a fetch with
HGRANTI LOW; a coprocessor instruction with CPBUSYE HIGH; a store with HGRANTD LOW; a fetch that empty tables do not translate. Fetches: from RAM, ROM and a
region that answers ERROR; an ICache hit and a miss, in ARM and Thumb state; with the MMU on at 0x12FFC, cachable with the ICache on. -/
theorem witness_StepRunsDecoded :
    let mvn : State := { s0 with prefetch := [⟨0#32, false, false, .word 0xE3E00000#32, .unpredicted⟩] }
    let held : State := { s0 with pins := { s0.pins with hgranti := false } }
    let busy : State := { s0 with pins := { s0.pins with cpPresent := 0x80#14, cpbusye := true } }
    let mapped (k : RegionKind) : State := { s0 with memMap := [⟨0, 4096, k⟩] }
    let cached : State := { s0 with
      cp15 := { s0.cp15 with ctl := 0x1078#32 }
      icache := s0.icache.setLine 0#4 0#6 (some ⟨0#23, Vector.replicate 8 5#32, false, false, 0#27⟩) }
    let walking : State := { walks with cp15 := { walks.cp15 with ctl := 0x1079#32 } }
    s0.quietFetch = true ∧ thumb0.quietFetch = true ∧ (∃ i, decode s0.codeAt = i ∧ busyWaits i s0 = false ∧
      writesPid i s0 = false) ∧ mvn.quiet = true ∧
    (∃ p s1 w s2, nextInstruction mvn = .ok (p, s1) ∧ granted mvn s1 = true ∧ p.what = .word w ∧ p.breakpoint = false ∧
      busyWaits (decode (fetchedCode s1.thumb w)) s1 = false ∧
      lookAhead p (decode (fetchedCode s1.thumb w)) s1 = .ok s2 ∧ granted s1 s2 = true) ∧
    held.quiet = true ∧ (∃ p s1, nextInstruction held = .ok (p, s1) ∧ granted held s1 = false) ∧
    busyWaits (.cdp .al ⟨0#4, 0#4, 0#4, 7#4, 0#3, 0#4⟩) busy = true ∧
    (∃ s2, lookAhead ⟨0#32, false, false, .word 0#32, .unpredicted⟩ (.mcr .al ⟨0#3, 13#4, 0#4, 15#4, 0#3, 0#4⟩) held = .ok s2 ∧
      granted held s2 = false) ∧
    translating.quiet = true ∧ (∃ p s1 status, nextInstruction translating = .ok (p, s1) ∧ granted translating s1 = true ∧
      p.what = .abort status) ∧
    s0.dbg.watch = none ∧ s0.wbuf = [] ∧ s0.castout = none ∧ s0.halted = false ∧ s0.mmuOn = false ∧ s0.icacheOn = false ∧
    s0.intruders = [] ∧ kindAt s0.memMap 0 = .ram ∧ kindAt (mapped .rom).memMap 0 = .rom ∧ (mapped .rom).icacheOn = false ∧
    kindAt (mapped .error).memMap 0 = .error ∧ cached.icacheOn = true ∧ cached.mmuOn = false ∧ cached.memMap = [] ∧
    (∃ k l, cached.icache.lookup (relocate cached.cp15.pid 2#32) = some (k, l)) ∧
    cached.icache.lookup (relocate cached.cp15.pid 32#32) = none ∧ walking.mmuOn = true ∧ walking.icacheOn = true ∧
    walking.halted = false ∧
    (∃ pa b s1, translate .instr (relocate walking.cp15.pid 0x12FFC#32) false true walking = (.ok pa true b, s1) ∧
      s1.icache.lookup 0x12FFC#32 = none ∧ s1.memMap = [] ∧ s1.intruders = []) ∧
    (∃ st d s1, translate .instr (relocate walking.cp15.pid 0x13000#32) false true walking = (.fault st d, s1)) ∧
    s0.prefetch = [] ∧ ∃ f t, fetch s0.pc s0.thumb s0.priv s0 = .got f t :=
  ⟨by decide, by decide, ⟨_, rfl, by decide, by decide⟩, by decide,
    ⟨_, _, _, _, rfl, by decide, rfl, rfl, by decide, rfl, by decide⟩, by decide, ⟨_, _, rfl, by decide⟩, by decide,
    ⟨_, rfl, by decide⟩, by decide, ⟨_, _, _, rfl, by decide, rfl⟩, rfl, rfl, rfl, by decide, by decide, by decide, rfl,
    by decide, by decide, by decide, by decide, by decide, by decide, rfl, ⟨_, _, rfl⟩, by decide, by decide, by decide,
    by decide, ⟨_, _, _, rfl, by decide, rfl, rfl⟩, ⟨_, _, _, rfl⟩, rfl, _, _, rfl⟩

theorem witness_SoundKept : s0.sound = true ∧ ∃ t, step s0 = .next t := ⟨by decide, next_of (by decide)⟩

/-- A power-on reset; a soft reset of a running machine, out of DORMANT, out of an emulated SHUTDOWN, and out of SHUTDOWN. -/
theorem witness_CoreResetState :
    let off : State := { s0 with run := .poweredDown }
    let dormant : State := { off with pm := { s0.pm with ackState := 4#4 } }
    let emulated : State := { off with pm := { s0.pm with ackEmul := true } }
    ({ s0 with inputs := [.powerOnReset] }).inputs = Event.powerOnReset :: [] ∧
    ¬(s0.run = .poweredDown ∧ s0.pm.ackState.extractLsb' 2 2 = 0#2 ∧ s0.pm.ackEmul = false) ∧
    ¬(dormant.run = .poweredDown ∧ dormant.pm.ackState.extractLsb' 2 2 = 0#2 ∧ dormant.pm.ackEmul = false) ∧
    ¬(emulated.run = .poweredDown ∧ emulated.pm.ackState.extractLsb' 2 2 = 0#2 ∧ emulated.pm.ackEmul = false) ∧
    off.run = .poweredDown ∧ off.pm.ackState.extractLsb' 2 2 = 0#2 ∧ off.pm.ackEmul = false ∧ s0.run ≠ .poweredDown ∧
    emulated.pm.ackEmul = true := by decide

/-- BEQ with Z = 0, at an address that has a next one and at the last. -/
theorem witness_Conditions : condOf (.b .eq 0#24) = some .eq ∧ s0.passes .eq = false ∧ s0.canAdvance = true ∧
    lastArm.passes .eq = false ∧ lastArm.canAdvance = false ∧
    ({ thumb0 with pc := 0xFFFFFFFE#32 } : State).canAdvance = false := by decide

theorem witness_UnpredictableFormsRefused :
    s0.condHolds (.mul .al false 0#4 1#4 0#4 1#4) = true ∧ (Instr.mul .al false 0#4 1#4 0#4 1#4).regular = false ∧
    s0.condHolds (.mul .al false 0#4 0#4 1#4 0#4) = true ∧ (Instr.mul .al false 0#4 0#4 1#4 0#4).regular = true ∧
    operandsAllowed (.mul .al false 0#4 0#4 1#4 0#4) = false := by decide

/-- Register shift amounts of 0, 31, 32, 33, 255 and 256, of which the low byte counts. -/
theorem witness_ShifterOperands :
    [0, 31, 32, 33, 255, 256].map (fun n => ((s0.setReg 2#4 (BitVec.ofNat 32 n)).reg 2#4).toNat % 256)
      = [0, 31, 32, 33, 255, 0] := by decide

theorem witness_LogicalResults : s0.ready (.and .al true 1#4 14#4 (.imm 0#4 1#8)) = true ∧
    s0.ready (.eor .al true 1#4 0#4 (.shiftReg 2#4 .ror 3#4)) = true ∧ s0.ready (.orr .al false 1#4 0#4 (.imm 0#4 1#8)) = true ∧
    s0.ready (.bic .al true 1#4 0#4 (.imm 0#4 1#8)) = true ∧ s0.ready (.mov .al true 0#4 0#4 (.imm 0#4 1#8)) = true ∧
    s0.ready (.mvn .ne true 0#4 0#4 (.imm 0#4 1#8)) = true := by decide

theorem witness_ArithmeticResults : s0.ready (.add .al true 15#4 0#4 (.imm 0#4 1#8)) = true ∧
    s0.ready (.adc .al true 1#4 0#4 (.imm 0#4 1#8)) = true ∧ s0.ready (.sub .al true 1#4 0#4 (.imm 0#4 1#8)) = true ∧
    s0.ready (.sbc .al true 1#4 0#4 (.imm 0#4 1#8)) = true ∧ s0.ready (.rsb .al true 1#4 0#4 (.imm 0#4 1#8)) = true ∧
    s0.ready (.rsc .al true 1#4 0#4 (.imm 0#4 1#8)) = true := by decide

theorem witness_Comparisons : s0.ready (.tst .al 1#4 0#4 (.imm 0#4 1#8)) = true ∧
    s0.ready (.teq .al 1#4 0#4 (.imm 0#4 1#8)) = true ∧ s0.ready (.cmp .al 1#4 0#4 (.imm 0#4 1#8)) = true ∧
    s0.ready (.cmn .al 1#4 0#4 (.imm 0#4 1#8)) = true := by decide

/-- MOV pc, #0 and #2; MOVS pc with a legal mode in the SPSR, with none, and in System mode. -/
theorem witness_ResultsToPc :
    (∃ v, dataResult s0 (.mov .al false 0#4 15#4 (.imm 0#4 0#8)) = some (false, regPc, v) ∧ v.toNat % 4 = 0) ∧
    (∃ v, dataResult s0 (.mov .al false 0#4 15#4 (.imm 0#4 2#8)) = some (false, regPc, v) ∧ v.toNat % 4 ≠ 0) ∧
    (∃ v, dataResult s0 (.mov .al true 0#4 15#4 (.imm 0#4 0#8)) = some (true, regPc, v)) ∧
    s0.runs (.mov .al false 0#4 15#4 (.imm 0#4 0#8)) = true ∧ s0.runs (.mov .al true 0#4 15#4 (.imm 0#4 0#8)) = true ∧
    s0.hasSpsr = true ∧ legalMode (s0.readSpsr.extractLsb' 0 5) = false ∧
    legalMode ((s0.setSpsrIn .svc 0x30#32).readSpsr.extractLsb' 0 5) = true ∧
    ({ s0 with cpsr := 0x1F#32 } : State).hasSpsr = false :=
  ⟨⟨_, rfl, by decide⟩, ⟨_, rfl, by decide⟩, ⟨_, rfl⟩, by decide, by decide, by decide, by decide, by decide, by decide⟩

theorem witness_DataInstructionFrame : dataDests (.add .al true 1#4 0#4 (.imm 0#4 1#8)) = some [0#4] ∧
    dataDests (.umull .al true 0#4 1#4 2#4 3#4) = some [0#4, 1#4] ∧ dataDests (.tTst 0#3 1#3) = some [] ∧
    (∃ t, exec (.add .al true 1#4 0#4 (.imm 0#4 1#8)) s0 = .next t) ∧ (∃ t, exec (.tTst 0#3 1#3) thumb0 = .next t) :=
  ⟨by decide, by decide, by decide, next_of (by decide), next_of (by decide)⟩

theorem witness_ClzAndSaturation : s0.ready (.clz .al 15#4 0#4 15#4 1#4) = true ∧ s0.ready (.qadd .al 1#4 0#4 0#4 2#4) = true ∧
    s0.ready (.qsub .al 1#4 0#4 0#4 2#4) = true ∧ s0.ready (.qdadd .al 1#4 0#4 0#4 2#4) = true ∧
    s0.ready (.qdsub .al 1#4 0#4 0#4 2#4) = true := by decide

theorem witness_Multiplies : s0.ready (.mul .al true 0#4 0#4 2#4 1#4) = true ∧ s0.ready (.mla .al true 0#4 3#4 2#4 1#4) = true ∧
    s0.ready (.umull .al true 0#4 1#4 2#4 3#4) = true ∧ s0.ready (.umlal .al true 0#4 1#4 2#4 3#4) = true ∧
    s0.ready (.smull .al true 0#4 1#4 2#4 3#4) = true ∧ s0.ready (.smlal .al true 0#4 1#4 2#4 3#4) = true := by decide

theorem witness_HalfwordMultiplies : s0.ready (.smulxy .al 0#4 0#4 2#4 true false 1#4) = true ∧
    s0.ready (.smlaxy .al 0#4 3#4 2#4 true false 1#4) = true ∧ s0.ready (.smulwy .al 0#4 0#4 2#4 true 1#4) = true ∧
    s0.ready (.smlawy .al 0#4 3#4 2#4 true 1#4) = true ∧ s0.ready (.smlalxy .al 0#4 3#4 2#4 true false 1#4) = true := by decide

theorem witness_ExchangeBranches : s0.runs (.bx .al 15#4 15#4 15#4 0#4) = true ∧
    s0.runs (.blxReg .al 15#4 15#4 15#4 0#4) = true ∧ thumb0.runs (.tBx 0#4 0#3) = true ∧
    thumb0.runs (.tBlxReg 0#4 0#3) = true := by decide

theorem witness_BranchesAndCalls : s0.passes .al = true ∧ s0.canAdvance = true := by decide

theorem witness_SingleLoads :
    let ix : Index := ⟨true, true, false, 1#4⟩
    s0.ready (.ldr .al ix 0#4 (.imm 4#12)) = true ∧ s0.ready (.ldrb .al ix 0#4 (.imm 4#12)) = true ∧
    s0.ready (.ldrt .al true 1#4 0#4 (.imm 4#12)) = true ∧ s0.ready (.ldrbt .al true 1#4 0#4 (.imm 4#12)) = true ∧
    s0.ready (.ldrh .al ix 0#4 (.imm 4#8)) = true ∧ s0.ready (.ldrsb .al ix 0#4 (.imm 4#8)) = true ∧
    s0.ready (.ldrsh .al ix 0#4 (.imm 4#8)) = true ∧ (∃ v t, memRead 4#32 .word true s0 = .ok v t) ∧
    (∃ v t, memRead 0x9001#32 .word false s0 = .ok v t) ∧ (∃ v t, memRead 0x9001#32 .half true s0 = .ok v t) ∧
    (∃ v t, memRead 0xFFFFFFFF#32 .byte true s0 = .ok v t) :=
  ⟨by decide, by decide, by decide, by decide, by decide, by decide, by decide, ok_of (by decide), ok_of (by decide),
    ok_of (by decide), ok_of (by decide)⟩

/-- A loaded word that ends in 00, in 1 and in 10, with L4 = 0 and 1. -/
theorem witness_LoadsToPc : s0.runs (.ldr .al ⟨true, true, false, 1#4⟩ regPc (.imm 4#12)) = true ∧
    (∃ v t, memRead 4#32 .word true s0 = .ok v t) ∧ s0.l4 = false ∧ withL4.l4 = true ∧
    s0.runs (.ldm1 .al ⟨false, true, true, 13#4⟩ 0x8001#16) = true ∧
    (∃ vs v t, readList (.ordinary true) ⟨false, true, true, 13#4⟩ 0x8001#16 s0 = .ok (vs ++ [v]) t) ∧
    (∃ vs v t, readList (.ordinary true) ⟨false, true, true, regSp⟩ (popList true 1#8) thumb0 = .ok (vs ++ [v]) t) ∧
    (s0.reg 13#4).toNat % 4 = 0 ∧ ((odd s0).reg 1#4).toNat % 4 ≠ 0 :=
  ⟨by decide, ok_of (by decide), by decide, by decide, by decide, ⟨[0#32], 0#32, _, rfl⟩, ⟨[0#32], 0#32, _, rfl⟩,
    by decide, by decide⟩

theorem witness_SingleStores :
    let ix : Index := ⟨true, true, false, 1#4⟩
    s0.ready (.str .al ix 15#4 (.imm 4#12)) = true ∧ s0.ready (.strb .al ix 0#4 (.imm 4#12)) = true ∧
    s0.ready (.strt .al true 1#4 0#4 (.imm 4#12)) = true ∧ s0.ready (.strbt .al true 1#4 0#4 (.imm 4#12)) = true ∧
    s0.ready (.strh .al ix 0#4 (.imm 4#8)) = true ∧ (∃ t, memWrite 4#32 .word 0#32 true s0 = .ok () t) ∧
    (∃ t, memWrite 0x9001#32 .word 0#32 false s0 = .ok () t) ∧ (∃ t, memWrite 4#32 .half 0#32 true s0 = .ok () t) ∧
    s0.alignOn = false ∧ (4#32).getLsbD 0 = false ∧ s0.runs (.strh .al ix 0#4 (.imm 1#8)) = true ∧
    (indexAddress ix (offset3 (.imm 1#8) s0) s0).getLsbD 0 = true :=
  ⟨by decide, by decide, by decide, by decide, by decide, ok_of' (by decide), ok_of' (by decide), ok_of' (by decide),
    by decide, by decide, by decide, by decide⟩
where
  ok_of' {x : Res Unit} (h : okRes x = true) : ∃ t, x = .ok () t := (ok_of h).elim fun _ ht => ht

/-- Addresses 0 and 8 (doubleword aligned), 4 (word aligned), 2 and 0x9001 with A = 1; an even and an odd Rd; accesses that
answer, that abort by alignment, and that abort by an empty translation table. -/
theorem witness_PairsSwapsAndPreload :
    let ix : Index := ⟨true, true, false, 1#4⟩
    let bad : State → Word → Bool := fun s a => a.toNat % 8 != 0 && (!s.alignOn || a.toNat % 4 == 0)
    ((∀ i ∈ [Instr.ldrd .al ix 2#4 (.imm 8#8), .strd .al ix 2#4 (.imm 8#8), .swp .al 2#4 0#4 0#4 1#4,
        .swpb .al 2#4 0#4 0#4 1#4, .pld true 1#4 (.imm 4#12)], s0.ready i = true) ∧
      (∀ rd ∈ [2#4, 3#4], s0.runs (.ldrd .al ix rd (.imm 4#8)) = true ∧ s0.runs (.strd .al ix rd (.imm 4#8)) = true) ∧
      (2#4).getLsbD 0 = false ∧ (3#4).getLsbD 0 = true ∧ s0.plain = true ∧ s0.halted = false ∧ s0.mmuOn = false ∧
      bad s0 0#32 = false ∧ bad aligning 4#32 = true ∧ bad aligning 2#32 = false ∧ aligning.alignOn = true ∧
      (odd aligning).runs (.ldrd .al ix 2#4 (.imm 0#8)) = true ∧ (0x9001#32).toNat % 4 ≠ 0 ∧
      translating.runs (.ldrd .al ix 2#4 (.imm 8#8)) = true ∧ translating.mmuOn = true ∧
      (translating.dtlb.matching 4#32).length ≤ 1) ∧
    (∃ v w t, memReadMany (.ordinary true) 2 8#32 s0 = .ok [v, w] t) ∧
    (∃ t, memWriteMany (.ordinary true) [0#32, 0#32] 8#32 s0 = .ok () t) ∧
    (∃ e t, memReadMany (.ordinary true) 2 8#32 translating = .abort e t) ∧
    (∃ e t, memWriteMany (.ordinary true) [0#32, 0#32] 8#32 translating = .abort e t) ∧
    (∃ v t, memSwap 1#32 .word 0#32 true s0 = .ok v t) ∧ (∃ v t, memSwap 1#32 .byte 0#32 true s0 = .ok v t) ∧
    (∃ e t, memSwap 1#32 .word 0#32 true aligning = .abort e t) ∧
    (∃ e t, memSwap 1#32 .byte 0#32 true translating = .abort e t) :=
  ⟨by decide, ⟨_, _, _, rfl⟩, (ok_of (by decide)).elim fun _ h => h, abort_of (by decide), abort_of (by decide),
    ok_of (by decide), ok_of (by decide), abort_of (by decide), abort_of (by decide)⟩

theorem witness_LoadMultiples : s0.ready (.ldm1 .al ⟨false, true, true, 13#4⟩ 3#16) = true ∧
    s0.ready (.ldm2 .al ⟨false, true, false, 13#4⟩ 3#15) = true ∧ s0.hasSpsr = true ∧
    thumb0.ready (.tLdmia 0#3 6#8) = true ∧ thumb0.ready (.tLdmia 0#3 3#8) = true ∧ thumb0.ready (.tPop false 3#8) = true ∧
    (∃ vs t, readList (.ordinary true) ⟨false, true, true, 13#4⟩ 3#16 s0 = .ok vs t) ∧
    (∃ vs t, readList (userTransfer true) ⟨true, false, true, 13#4⟩ 0x7FFF#16 s0 = .ok vs t) :=
  ⟨by decide, by decide, by decide, by decide, by decide, by decide, ok_of (by decide), ok_of (by decide)⟩

theorem witness_LoadMultipleWithReturn :
    let s := s0.setSpsrIn .svc 0x30#32
    s.runs (.ldm3 .al ⟨false, true, true, 13#4⟩ 1#15) = true ∧ s.hasSpsr = true ∧
    legalMode (s.readSpsr.extractLsb' 0 5) = true ∧ (s.reg 13#4).toNat % 4 = 0 ∧
    (∃ vs v t, readList (.ordinary true) ⟨false, true, true, 13#4⟩ (1#1 ++ 1#15) s = .ok (vs ++ [v]) t) ∧ user.hasSpsr = false ∧
    user.runs (.ldm3 .al ⟨false, true, true, 13#4⟩ 1#15) = true ∧
    user.runs (.ldm2 .al ⟨false, true, false, 13#4⟩ 1#15) = true ∧
    user.runs (.stm2 .al ⟨false, true, false, 13#4⟩ 1#16) = true :=
  ⟨by decide, by decide, by decide, by decide, ⟨[0#32], 0#32, _, rfl⟩, by decide, by decide, by decide, by decide⟩

/-- A base that is not in the list, one that is its lowest register, and one that is not. -/
theorem witness_StoreMultiples : s0.ready (.stm1 .al ⟨true, false, true, 13#4⟩ 3#16) = true ∧
    s0.ready (.stm1 .al ⟨false, true, true, 0#4⟩ 3#16) = true ∧ s0.ready (.stm1 .al ⟨false, true, true, 1#4⟩ 3#16) = true ∧
    s0.ready (.stm2 .al ⟨false, true, false, 0#4⟩ 0x8003#16) = true ∧ s0.hasSpsr = true ∧
    thumb0.ready (.tStmia 1#3 3#8) = true ∧ thumb0.ready (.tPush true 0#8) = true ∧
    (∃ t, memWriteMany (.ordinary true) [0#32, 1#32] 0xFFFFFFFC#32 s0 = .ok () t) ∧
    (∃ t, memWriteMany (userTransfer true) [0#32, 1#32] 0#32 s0 = .ok () t) :=
  ⟨by decide, by decide, by decide, by decide, by decide, by decide, by decide, (ok_of (by decide)).elim fun _ h => h,
    (ok_of (by decide)).elim fun _ h => h⟩

/-- Another bus master is about to write the byte at 0x9008. -/
def intruded : State := { s0 with intruders := [⟨0, 0x9008#32, 7#8⟩] }

/-- R208: the second word of an LDM shows what another master wrote between the two, and a pair read as one doubleword does not; a
swap is locked. -/
theorem test_other_master_between :
    (match memReadMany (.ordinary true) 2 0x9004#32 intruded with
      | .ok v t => v == [0#32, 7#32] && t.intruders.isEmpty
      | _ => false) = true ∧
    (match memReadMany (.ordinary true) 2 0x9008#32 intruded with | .ok v _ => v == [0#32, 0#32] | _ => false) = true ∧
    (match memSwap 0x9008#32 .word 0x100#32 true intruded with
      | .ok v t => v == 0#32 && t.wordAt 0x9008#32 == 0x107#32
      | _ => false) = true := by decide

/-- Plain memory; with the MMU on, a read and a write that translate to an address and that fault; a write of another master. -/
theorem witness_PlainAccesses :
    let ok : Xlate × State → Bool := fun r => match r.1 with | .ok .. => true | .fault .. => false | .ambiguous => false
    let faults : Xlate × State → Bool := fun r => match r.1 with | .ok .. => false | .fault .. => true | .ambiguous => false
    s0.plain = true ∧ Memory.wf s0.mem = true ∧ user.plain = true ∧ walks.uncached = true ∧ walks.mmuOn = true ∧
    walks.memMap = [] ∧ walks.noDebug = true ∧ walks.alignOn = false ∧ misaligned .word 0x12FFC#32 = false ∧
    relocate walks.cp15.pid 0x12FFC#32 = 0x12FFC#32 ∧
    ok (Sys2Proof.Machine.translate .data 0x12FFC#32 false true walks) = true ∧
    ok (Sys2Proof.Machine.translate .data 0x12FFC#32 true true walks) = true ∧
    faults (Sys2Proof.Machine.translate .data 0x13000#32 false true walks) = true ∧
    faults (Sys2Proof.Machine.translate .data 0x13000#32 true true walks) = true ∧
    misaligned .word 0x13001#32 = true ∧ relocate walks.cp15.pid 0x13001#32 = 0x13001#32 ∧
    faults (Sys2Proof.Machine.translate .data 0x13001#32 false true walks) = true ∧
    ({ intruded with intruders := [] } : State).plain = true ∧ intruded.intruders = [⟨0, 0x9008#32, 7#8⟩] ∧
    (0x9004#32).getLsbD 2 = true := by decide

/-- LDR, STRH, LDM and STM at 0x9001 with A = 1, in ARM and in debug state; LDC and STC of CP14 with an empty translation table;
an STM whose second word meets an unmapped page after its first word was stored. -/
theorem witness_AbortedAccesses :
    let ix : Index := ⟨true, true, false, 1#4⟩
    let up : Index := ⟨false, true, false, 1#4⟩
    let f : CpMem := ⟨true, true, false, false, 1#4, 5#4, 14#4, 1#8⟩
    let s := odd aligning
    s.runs (.ldr .al ix 0#4 (.imm 0#12)) = true ∧ s.runs (.strh .al ix 0#4 (.imm 0#8)) = true ∧
    loadTarget s (.ldr .al ix 0#4 (.imm 0#12)) = some (0x9001#32, .word, true) ∧
    storeTarget s (.strh .al ix 0#4 (.imm 0#8)) = some (0x9001#32, .half, true) ∧
    (∃ e t, memRead 0x9001#32 .word true s = .abort e t) ∧ (∃ e t, memWrite 0x9001#32 .half 0#32 true s = .abort e t) ∧
    s.alignOn = true ∧ misaligned .word 0x9001#32 = true ∧ misaligned .half 0x9001#32 = true ∧ aligning.halted = false ∧
    ({ aligning with dbg := { aligning.dbg with dscr := 1#32 } } : State).halted = true ∧
    s.runs (.ldm1 .al up 5#16) = true ∧ s.runs (.stm1 .al up 5#16) = true ∧ s.hasSpsr = true ∧
    (∃ e t, readList (.ordinary true) up 5#16 s = .abort e t) ∧ (∃ e t, readList (userTransfer true) up 5#16 s = .abort e t) ∧
    (∃ e t, memWriteMany (.ordinary true) [0#32, 1#32] 0x9001#32 s = .abort e t) ∧ cpMemAllowed f = true ∧
    (∃ e t, memReadMany (cpMultiple false translating) 1 (cpStart f translating) translating = .abort e t) ∧
    (∃ e t, memWriteMany (cpMultiple false translating) [0#32] (cpStart f translating) translating = .abort e t) ∧
    walks.uncached = true ∧
    (∃ e t, memWriteMany (.ordinary true) [7#32, 8#32] 0x12FFC#32 walks = .abort e t ∧
      t.wordAt 0x0ABCDFFC#32 = 7#32) :=
  ⟨by decide, by decide, by decide, by decide, abort_of (by decide), abort_of (by decide), by decide, by decide, by decide,
    by decide, by decide, by decide, by decide, by decide, abort_of (by decide), abort_of (by decide), abort_of (by decide),
    by decide, abort_of (by decide), abort_of (by decide), by decide, ⟨_, _, rfl, by decide⟩⟩

/-- A load, a store, and a store that translates to no address: the empty page tables give a translation fault. -/
theorem witness_SingleAccessMemoryFrame :
    let ix : Index := ⟨true, true, false, 1#4⟩
    let mmu : State := { s0 with cp15 := { s0.cp15 with ctl := 0x79#32 } }
    isLoad (.ldr .al ix 0#4 (.imm 4#12)) = true ∧ s0.uncached = true ∧ mmu.uncached = true ∧
    (∃ t, exec (.ldr .al ix 0#4 (.imm 4#12)) s0 = .next t) ∧
    storeTarget s0 (.str .al ix 0#4 (.imm 4#12)) = some (4#32, .word, true) ∧
    (∃ t, exec (.str .al ix 0#4 (.imm 4#12)) s0 = .next t) ∧ (∃ loc t, locate 4#32 true true s0 = .ok loc t) ∧
    (∃ t, exec (.str .al ix 0#4 (.imm 4#12)) mmu = .next t) ∧ okRes (locate 4#32 true true mmu) = false :=
  ⟨by decide, by decide, by decide, next_of (by decide), by decide, next_of (by decide), ok_of (by decide),
    next_of (by decide), by decide⟩

/-- The MMU off, and the MMU on: two words and a swap at 0x12FF0, which lies in the page at 0x0ABCD000. -/
theorem witness_MultipleStoreFrame :
    let stm : Instr := .stm1 .al ⟨false, true, true, 13#4⟩ 3#16
    let mmu : State := (walks.setReg 13#4 0x12FF0#32).setReg 2#4 0x12FF0#32
    storeMany s0 stm = some (.ordinary true, [0#32, 0#32], 0#32, s0) ∧ s0.uncached = true ∧ s0.mmuOn = false ∧
    (∃ t, exec stm s0 = .next t) ∧ (∃ t, exec (.swp .al 2#4 0#4 0#4 1#4) s0 = .next t) ∧
    (∃ t, exec (.swpb .al 2#4 0#4 0#4 1#4) s0 = .next t) ∧ mmu.uncached = true ∧ mmu.mmuOn = true ∧
    storeMany mmu stm = some (.ordinary true, [0#32, 0#32], 0x12FF0#32, mmu) ∧ (∃ t, exec stm mmu = .next t) ∧
    writtenBytes (.ordinary true) [0#32, 0#32] true 0x12FF0#32 mmu = (List.range 8).map (0x0ABCDFF0 + ·) ∧
    (∃ t, exec (.swp .al 2#4 0#4 0#4 1#4) mmu = .next t) ∧ (∃ t, exec (.swpb .al 2#4 0#4 0#4 1#4) mmu = .next t) ∧
    (∃ v s1, memReadX (mmu.reg 2#4) .word ⟨true, true, true, true⟩ mmu = .ok v s1 ∧
      okRes (locate (mmu.reg 2#4) true true s1) = true) :=
  ⟨by decide, by decide, by decide, next_of (by decide), next_of (by decide), next_of (by decide), by decide, by decide,
    by decide, next_of (by decide), by decide, next_of (by decide), next_of (by decide), ⟨_, _, rfl, by decide⟩⟩

theorem witness_AccessRegisterFrame :
    accessDests (.ldr .al ⟨true, true, true, 1#4⟩ 0#4 (.imm 4#12)) = some [0#4, 1#4] ∧
    (∃ t, exec (.ldr .al ⟨true, true, true, 1#4⟩ 0#4 (.imm 4#12)) s0 = .next t) ∧ s0.halted = false ∧
    s0.mode ≠ 0x17#5 ∧ gives (exec (.ldr .al ⟨true, true, true, 1#4⟩ 0#4 (.imm 4#12)) s0) (fun t => t.mode == s0.mode) = true :=
  ⟨by decide, next_of (by decide), by decide, by decide, by decide⟩

theorem witness_StatusReads : s0.ready (.mrs .al false 15#4 0#4 0#4 0#4) = true ∧ s0.hasSpsr = true ∧
    user.ready (.mrs .al true 15#4 0#4 0#4 0#4) = true ∧ user.hasSpsr = false := by decide

/-- Operands 0x1F (System mode), 0x33 (T set) and 5 (no mode). -/
theorem witness_StatusWrites : s0.ready (.msrReg .al false 1#4 15#4 0#4 0#4) = true ∧
    s0.ready (.msrImm .al false 1#4 15#4 0#4 0x1F#8) = true ∧ (s0.priv || s0.halted) = true ∧
    (user.priv || user.halted) = false ∧ (0x33#32).getLsbD 5 = true ∧ legalMode ((0x1F#32).extractLsb' 0 5) = true ∧
    legalMode ((5#32).extractLsb' 0 5) = false := by decide

theorem witness_SavedStatusWrites : s0.ready (.msrReg .al true 15#4 15#4 0#4 0#4) = true ∧
    s0.ready (.msrImm .al true 8#4 15#4 2#4 0xF#8) = true ∧ spsrIndex s0.bank = some 2 ∧
    user.ready (.msrReg .al true 15#4 15#4 0#4 0#4) = true ∧ spsrIndex user.bank = none := by decide

theorem witness_SoftwareTraps : s0.passes .al = true ∧ s0.halted = false ∧ isUndefined (.undMedia .al 0#5 0#4 0#4 0#4 0#3 0#4) = true ∧
    s0.condHolds (.undMedia .al 0#5 0#4 0#4 0#4 0#3 0#4) = true ∧ isUndefined (.tUndCond 0#8) = true := by decide

/-- Debugging disabled; enabled in monitor mode; enabled in halt mode. -/
theorem witness_Breakpoints : s0.debugEnabled = false ∧ (debugging 0x80000000#32).debugEnabled = true ∧
    (debugging 0x80000000#32).haltMode = false ∧ (debugging 0xC0000000#32).haltMode = true ∧
    (debugging 0xC0000000#32).halted = false ∧ Cond.ne ≠ Cond.al := by decide

theorem witness_BoundaryEvents : s0.inputs = [] ∧ s0.run = .running ∧ s0.pins.hresetn = true ∧ s0.pins.sfresetn = true ∧
    s0.pm.pending = none ∧ halted0.halted = true ∧ halted0.dbg.itrWait = false ∧
    ({ s0 with pins := { s0.pins with sfresetn := false } } : State).pins.sfresetn = false ∧
    (debugging 0xC0000000#32).debugEnabled = true ∧ (debugging 0xC0000000#32).haltMode = true ∧
    ({ debugging 0xC0000000#32 with pins := { s0.pins with dbgen := true, edbgrq := true } } : State).pins.edbgrq = true ∧
    ({ s0 with pins := { s0.pins with nfiq := false }, cpsr := 0x13#32 } : State).cpsr.getLsbD 6 = false ∧
    ({ s0 with pins := { s0.pins with nirq := false }, cpsr := 0x53#32 } : State).cpsr.getLsbD 6 = true ∧
    ({ s0 with pins := { s0.pins with nirq := false }, cpsr := 0x53#32 } : State).cpsr.getLsbD 7 = false := by decide

/-- No request, a masked IRQ, an FIQ, an IRQ together with EDBGRQ, and EDBGRQ alone in halt mode. -/
theorem witness_WaitForInterrupt :
    let wfi : State := { s0 with run := .standby }
    let stop : State := { debugging 0xC0000000#32 with run := .standby, pins := { s0.pins with dbgen := true, edbgrq := true } }
    let irq : State := { stop with cpsr := 0x53#32, pins := { stop.pins with nirq := false } }
    s0.priv = true ∧ s0.passes .al = true ∧ s0.canAdvance = true ∧ s0.sent 0#4 = 0#32 ∧ (s0.setReg 1#4 1#32).sent 1#4 ≠ 0#32 ∧
    s0.pins.nfiq = true ∧ s0.pins.nirq = true ∧ s0.pins.edbgrq = false ∧ wfi.halted = false ∧ wfi.inputs = [] ∧
    wfi.pins.hresetn = true ∧ wfi.pins.sfresetn = true ∧ wfi.pm.pending = none ∧
    wfi.cpsr.getLsbD 7 = true ∧ ({ wfi with pins := { s0.pins with nirq := false } } : State).pins.nirq = false ∧
    ({ wfi with pins := { s0.pins with nfiq := false }, cpsr := 0x13#32 } : State).cpsr.getLsbD 6 = false ∧
    irq.pins.nirq = false ∧ irq.cpsr.getLsbD 6 = true ∧ irq.cpsr.getLsbD 7 = false ∧ debugRequest irq = true ∧
    irq.halted = false ∧ stop.pins.edbgrq = true ∧ stop.haltMode = true ∧ stop.debugEnabled = true ∧ stop.halted = false ∧
    stop.pins.nfiq = true ∧ stop.pins.nirq = true := by decide

/-- For the reads, the writes and the operations of CP15: allowed and refused values of c1, PMTDR with and without a power manager,
holding registers with V = 0, of a 4KB page, with a mask that is not listed, with a section's size, and with a size that is not
listed; lines and line formats for the cleans; drains of an entry, before a castout and alone, to RAM and to a device, and of a
castout, behind an entry and next; a store into a full buffer. -/
theorem witness_SystemControl :
    let pm : State := { s0 with pins := { s0.pins with pmexists := true }, pm := { s0.pm with r := true } }
    let page : Tlb := { s0.itlb with camHold := 0x08400000#32, paHold := 1#32 }
    let bad : Tlb := { s0.itlb with camHold := 0x08800000#32 }
    let dirty : CacheLine := ⟨0#23, Vector.replicate 8 5#32, true, true, 0#27⟩
    let s : State := { s0 with dcache := s0.dcache.setLine 0#4 0#6 (some dirty) }
    let open1 : Tlb := { s0.itlb with camHold := 0x08400000#32, paHold := 2#32 }
    let sect : Tlb := { s0.itlb with camHold := 0x08400000#32, paHold := 15#32 }
    let entry : WriteEntry := ⟨0x9001#32, .byte, 0x77#64, 0#4, true, .single⟩
    let line (n : Nat) : Castout := ⟨0x480#27, Vector.replicate 8 5#32, 1#2, n⟩
    let stored : State := { s0 with wbuf := [entry] }
    let behind : State := { stored with castout := some (line 1) }
    let next : State := { stored with castout := some (line 0) }
    s0.priv = true ∧ s0.passes .al = true ∧ s0.canAdvance = true ∧ s0.pm.r = false ∧ s0.intruders = [] ∧
    (s0.setReg 1#4 0x200#32).sent 1#4 = 0x200#32 ∧ open1.paHold.extractLsb' 0 4 = 2#4 ∧ sect.paHold.extractLsb' 0 4 = 15#4 ∧
    s0.pins.pmexists = false ∧ pm.pm.r = true ∧ pm.pins.pmexists = true ∧
    s0.pm.w = true ∧ ({ pm with pm := { pm.pm with w := false } } : State).pm.w = false ∧ s0.reg 0#4 = 0#32 ∧
    (0x79#32).extractLsb' 22 10 = 0#10 ∧ (0x79#32) &&& 0x001F0400#32 = 0#32 ∧ (0x79#32) &&& 0x70#32 = 0x70#32 ∧
    (1#32) &&& 0x70#32 ≠ 0x70#32 ∧ (0xFFC00070#32).extractLsb' 22 10 ≠ 0#10 ∧
    (0xFFFFFFFF#32) &&& 0x3FFF#32 ≠ 0#32 ∧ s0.itlb.camHold.getLsbD 27 = false ∧ page.camHold.getLsbD 27 = true ∧
    page.camHold.extractLsb' 22 4 = 1#4 ∧ page.paHold.extractLsb' 0 4 = 1#4 ∧ bad.camHold.getLsbD 27 = true ∧
    bad.camHold.extractLsb' 22 4 = 2#4 ∧ s.dcache.lookup 0#32 = some (0#6, dirty) ∧ s.dcache.line 0#4 0#6 = some dirty ∧
    s0.dcache.lookup 0#32 = none ∧ s0.mmuOn = false ∧ s0.halted = false ∧ s0.memMap = [] ∧ s0.icacheOn = false ∧
    ({ s0 with cp15 := { s0.cp15 with ctl := 0x1078#32 } } : State).icacheOn = true ∧
    stored.wbuf = entry :: [] ∧ stored.castout = none ∧ stored.intruders = [] ∧ Memory.wf stored.mem = true ∧
    kindAt stored.memMap entry.pa.toNat = .ram ∧ behind.castout = some (line 1) ∧ (line 1).ahead ≠ 0 ∧
    kindAt [⟨0x9000, 4096, .device⟩] entry.pa.toNat ≠ .ram ∧ next.castout = some (line 0) ∧ (line 0).ahead = 0 ∧
    ({ s0 with castout := some (line 1) } : State).wbuf = [] ∧ ({ stored with inputs := [.drain] } : State).run ≠ .poweredDown ∧
    ({ s0 with wbuf := List.replicate 8 entry } : State).wbuf.length = (if s0.fastInt then 4 else 8) := by decide

/-- c4; c1 with CRm = 1, which is not listed; and CP14 registers out of range. -/
theorem witness_InternalCoprocessorTraps : s0.passes .al = true ∧ s0.halted = false ∧ user.priv = false ∧ s0.priv = true ∧
    (4#4 : BitVec 4) ∈ [4#4, 11#4, 12#4, 14#4] ∧ (1#4 : BitVec 4) ∉ [4#4, 11#4, 12#4, 14#4] ∧ (1#3 : BitVec 3) ≠ 0#3 ∧
    (2#4 : BitVec 4) ∉ [0#4, 1#4, 5#4] ∧ 6 ≤ (6#4 : BitVec 4).toNat ∧ 2 ≤ (2#4 : BitVec 4).toNat ∧
    (4#3 : BitVec 3) ∈ [4#3, 5#3, 6#3, 7#3] := by decide

/-- Monitor mode and debug state may write the breakpoint registers, halt mode may not; listed and reserved values; LDC and STC of
c5, allowed, and barred with write-back of r15. -/
theorem witness_DebugCoprocessor : s0.passes .al = true ∧ s0.canAdvance = true ∧ s0.halted = false ∧ s0.haltMode = false ∧
    (debugging 0xC0000000#32).haltMode = true ∧ bcAllowed 0x1F#32 = true ∧ wcAllowed 0xFF#32 = true ∧
    bcAllowed 0x20#32 = false ∧ wcAllowed 1#32 = false ∧ cpMemAllowed ⟨true, true, false, true, 15#4, 5#4, 14#4, 1#8⟩ = false ∧
    cpMemAllowed ⟨true, true, false, true, 1#4, 5#4, 14#4, 1#8⟩ = true ∧
    (∃ w t, memReadMany (cpMultiple false s0) 1 4#32 s0 = .ok [w] t) ∧
    (∃ t, memWriteMany (cpMultiple false s0) [s0.dbg.rdtr] 4#32 s0 = .ok () t) :=
  ⟨by decide, by decide, by decide, by decide, by decide, by decide, by decide, by decide, by decide, by decide, by decide,
    ⟨_, _, rfl⟩, (ok_of (by decide)).elim fun _ h => h⟩

/-- Coprocessor 7 absent, present and busy, present and ready. -/
theorem witness_ExternalCoprocessors :
    let here : State := { s0 with pins := { s0.pins with cpPresent := 0x80#14 } }
    let busy : State := { s0 with pins := { s0.pins with cpPresent := 0x80#14, cpbusye := true } }
    (7#4 : BitVec 4) ≠ 14#4 ∧ (7#4 : BitVec 4) ≠ 15#4 ∧ here.passes .al = true ∧ here.canAdvance = true ∧
    here.halted = false ∧ cpPresent 7#4 s0 = false ∧ cpPresent 7#4 busy = true ∧ busy.pins.cpbusye = true ∧
    cpPresent 7#4 here = true ∧ here.pins.cpbusye = false ∧ here.plain = true ∧
    cpMemAllowed ⟨true, true, false, true, 1#4, 5#4, 7#4, 1#8⟩ = true ∧
    cpMemAllowed ⟨true, true, false, false, 15#4, 5#4, 7#4, 255#8⟩ = true := by decide

theorem witness_ThumbArithmetic : thumb0.canAdvance = true ∧ thumb0.runs (.tCmpHi 8#4 0#4) = true := by decide

theorem witness_ThumbHighAndAddresses : thumb0.runs (.tAddHi 0#4 regPc) = true ∧ thumb0.runs (.tMovHi 14#4 regPc) = true ∧
    thumb0.runs (.tAddHi 15#4 8#4) = true ∧ thumb0.runs (.tMovHi 0#4 8#4) = true ∧ thumb0.canAdvance = true := by decide

/-- Aligned and misaligned addresses, with A = 0 and A = 1. -/
theorem witness_ThumbTransfers : (∃ v t, memRead 4#32 .word true thumb0 = .ok v t) ∧
    (∃ v t, memRead 0x9001#32 .half true thumb0 = .ok v t) ∧ misaligned .half 0x9001#32 = true ∧
    misaligned .word 4#32 = false ∧ (∃ t, memWrite 4#32 .word 0#32 true thumb0 = .ok () t) ∧ thumb0.alignOn = false ∧
    ({ thumb0 with cp15 := aligning.cp15 } : State).alignOn = true :=
  ⟨ok_of (by decide), ok_of (by decide), by decide, by decide, (ok_of (by decide)).elim fun _ h => h, by decide, by decide⟩

/-- A client's entry for the first kilobyte that gives no access. -/
def noAccess : TlbEntry := ⟨false, false, 0#22, .kb1, 0#22, .kb1, 0#4, false, 1#4, false, false, false, true⟩

theorem witness_PermissionTable :
    let s : State := { s0 with
      cp15 := { s0.cp15 with ctl := 0x79#32 }
      itlb := { s0.itlb with entries := s0.itlb.entries.set 0 (some noAccess) } }
    noAccess.dfi = false ∧ noAccess.apSelect = 1#4 <<< (0#2).toNat ∧ s.mmuOn = true ∧
    s.itlb.matching (relocate s.cp15.pid 0#32) = [noAccess] ∧ apPermits 0#2 s.sysProt s.romProt true false = false ∧
    ∀ code, noAccess.size ≠ .unlisted code := by decide

/-- Descriptor 0 (invalid); W1's section, with its domain no access, client and manager; the coarse and fine tables of W3 to W7
with small, large, tiny and invalid pages. -/
theorem witness_TableTranslation :
    let l1 : Word → Word := fun mva =>
      physRead walks.mem walks.big .word ((walks.cp15.ttbr &&& 0xFFFFC000#32) ||| ((mva >>> 20) <<< 2))
    s0.dtlb.matching 0x12345678#32 = [] ∧ s0.cp15.cr2.getLsbD 4 = false ∧
    s0.memMap = [] ∧ s0.intruders = [] ∧ walks.intruders = [] ∧ s0.itlb.matching 0x12345678#32 = [] ∧
    walks.itlb.matching 0x12345678#32 = [] ∧ drainAll walks = walks ∧
    (physRead s0.mem false .word 0x48C#32).toNat % 4 = 0 ∧ walks.dtlb.matching 0x12345678#32 = [] ∧ walks.memMap = [] ∧
    walks.cp15.cr2.getLsbD 4 = false ∧
    (l1 0x12345678#32).toNat % 4 = 2 ∧ (l1 0x00012ABC#32).toNat % 4 = 1 ∧ (l1 0x40000FFF#32).toNat % 4 = 3 ∧
    [0x200048#32, 0x200070#32, 0x20004C#32, 0x30000C#32].map
      (fun a : Word => (physRead walks.mem walks.big .word a).toNat % 4) = [2, 1, 3, 3] ∧
    [0xC#32, 0xD#32, 0xE#32, 0xF#32].map (fun w : Word => (w >>> 0).toNat % 4) = [0, 1, 2, 3] := by decide

/-- A dirty write-back line at address 0, with the DCache, and with the write buffer, on; a miss at address 32 of an empty
segment, and one whose victim is a dirty line. -/
theorem witness_DataCacheHits :
    let l : CacheLine := ⟨0#23, Vector.replicate 8 5#32, true, true, 0#27⟩
    let s : State := { s0 with
      cp15 := { s0.cp15 with ctl := 0x7C#32, cr2 := 3#5 }
      dcache := s0.dcache.setLine 0#4 0#6 (some l) }
    s.dcacheOn = true ∧ s.mmuOn = false ∧ s.cp15.cr2.getLsbD 1 = true ∧ s.cp15.cr2.getLsbD 0 = true ∧ s.noDebug = true ∧
    s.wbufOn = true ∧ s.intruders = [] ∧ s.dcache.lookup 0#32 = some (0#6, l) ∧ l.dirty = true ∧ l.wb = true ∧ s.memMap = [] ∧
    s.dcache.lookup 32#32 = none ∧ s.dcache.lookup 512#32 = none ∧ s.dcache.occupant 512#32 = some l ∧
    s.dcache.occupant 32#32 = none := by decide

/-- A marked instruction and a caught vector, in halt mode and in monitor mode; breakpoint 0 at address 0; a watchpoint on word
accesses at 0x9000, hit by a load, and its event due. -/
theorem witness_DebugEvents :
    let marked (d : Word) : State := { debugging d with prefetch := [⟨0#32, false, true, .word 0#32, .unpredicted⟩] }
    let caught (d : Word) : State := { debugging d with
      prefetch := [⟨0#32, false, false, .word 0#32, .unpredicted⟩], dbg := { (debugging d).dbg with catchAt := [0#32] } }
    let s := marked 0xC0000000#32
    let bp : State := { debugging 0x80000000#32 with dbg := { (debugging 0x80000000#32).dbg with
      bc := s0.dbg.bc.set 0 0x15#5 } }
    let wp : State := { debugging 0x80000000#32 with dbg := { (debugging 0x80000000#32).dbg with
      wa := s0.dbg.wa.set 0 0x9000#32, wc := s0.dbg.wc.set 0 0x9D#11 } }
    s.inputs = [] ∧ s.inReset = false ∧ s.pm.pending = none ∧ s.run = .running ∧ s.halted = false ∧
    debugRequest s = false ∧ fiqPending s = false ∧ irqPending s = false ∧ s.haltMode = true ∧
    (marked 0x80000000#32).haltMode = false ∧ debugRequest (marked 0x80000000#32) = false ∧
    (∃ p s1 w, nextInstruction s = .ok (p, s1) ∧ granted s s1 = true ∧ p.what = .word w ∧ p.breakpoint = true) ∧
    (caught 0xC0000000#32).debugEnabled = true ∧ 0#32 ∈ (caught 0xC0000000#32).dbg.catchAt ∧
    (∃ p s1 w, nextInstruction (caught 0xC0000000#32) = .ok (p, s1) ∧ p.what = .word w ∧ p.breakpoint = false) ∧
    bp.debugEnabled = true ∧ breakMatches bp.dbg.ba[0] bp.dbg.bc[0] 0#32 false true = true ∧
    (∃ p s1, fetchEntry none 0#32 false bp = .ok (p, s1)) ∧ wp.debugEnabled = true ∧ wp.dbg.watch = none ∧
    watchMatches wp.dbg.wa[0] wp.dbg.wc[0] 0x9000#32 .word true true = true ∧ (∃ v t, memRead 0x9000#32 .word true wp = .ok v t ∧
      t.dbg.watch = some ⟨0x9000#32, 0#32, false, none⟩) ∧ (∃ t, memWrite 0x9000#32 .word 0#32 true wp = .ok () t) ∧
    (debugging 0x80020000#32).dbg.dscr.getLsbD 17 = true :=
  ⟨rfl, by decide, rfl, rfl, by decide, by decide, by decide, by decide, by decide, by decide, by decide,
    ⟨_, _, _, rfl, by decide, rfl, rfl⟩, by decide, by decide, ⟨_, _, _, rfl, rfl, rfl⟩, by decide, by decide, ⟨_, _, rfl⟩,
    by decide, rfl, by decide, ⟨_, _, rfl, by decide⟩, (ok_of (by decide)).elim fun _ h => h, by decide⟩

/-- Five edges and NTRST; a capture of each register, of chain 5 with the rDTR empty and full; shifts, pauses and the updates from
both exits; the scans of the instruction register; an ITR instruction, one of a busy coprocessor, RESTART and HALT. -/
theorem witness_TapReset :
    let tap (st : TapState) (ir : BitVec 4) (n : BitVec 5) : Tap := { s0.tap with state := st, ir := ir, chain := n }
    let at' (st : TapState) (ir : BitVec 4) (n : BitVec 5) (tms : Bool) : State :=
      { s0 with tap := tap st ir n, inputs := [.tck tms true] }
    let itr : State := { s0 with tap := tap .updateDr 0#4 4#5, dbg := { s0.dbg with dscr := 0x20000001#32, itr := 0xE3E00000#32 } }
    let busy : State := { itr with pins := { s0.pins with cpPresent := 0x80#14, cpbusye := true } }
    let halting : State := { debugging 0xC0000000#32 with tap := tap .updateIr 8#4 3#5 }
    ({ s0 with inputs := List.replicate 5 (Event.tck true false) } : State).inputs = List.replicate 5 (Event.tck true false) ++ [] ∧
    s0.run ≠ .poweredDown ∧ s0.pins.ntrst = true ∧ ({ s0 with inputs := [.ntrst] } : State).inputs = Event.ntrst :: [] ∧
    (∀ tms : Bool, (at' .captureDr 12#4 5#5 tms).inputs = Event.tck tms true :: []) ∧
    ([(0, 0), (0, 1), (0, 2), (0, 4), (0, 5), (12, 0), (12, 1), (12, 2), (12, 4), (12, 5), (14, 3), (2, 3), (15, 3)].all
      fun p => gives (step (at' .captureDr (BitVec.ofNat 4 p.1) (BitVec.ofNat 5 p.2) false))
        (fun t => t.tap.state == .shiftDr)) = true ∧
    (at' .shiftDr 12#4 5#5 true).tap.state = .shiftDr ∧ (at' .pauseDr 12#4 5#5 false).tap.state = .pauseDr ∧
    (at' .exit1Dr 0#4 1#5 true).tap.state = .exit1Dr ∧ (at' .exit2Dr 0#4 2#5 true).tap.state = .exit2Dr ∧
    (at' .captureIr 14#4 3#5 false).tap.state = .captureIr ∧ (at' .shiftIr 14#4 3#5 false).tap.state = .shiftIr ∧
    (at' .exit1Ir 14#4 3#5 true).tap.state = .exit1Ir ∧ (at' .exit2Ir 14#4 3#5 true).tap.state = .exit2Ir ∧
    s0.tap.rxReady = false ∧ ({ s0.tap with rxReady := true } : Tap).rxReady = true ∧
    itr.halted = true ∧ itr.dbg.dscr.getLsbD 29 = true ∧ itr.tap.state = .updateDr ∧
    busyWaits (decode (.arm itr.dbg.itr)) itr = false ∧ busyWaits (decode (.arm 0xEE1327A4#32)) busy = true ∧
    ({ itr with tap := tap .updateIr 4#4 3#5 } : State).tap.state = .updateIr ∧ halting.halted = false ∧
    halting.debugEnabled = true ∧ halting.haltMode = true := by decide

/-- R176, R925, R926, R931: the last bit of a scan of chain 5 under EXTEST is shifted in, Update-DR gives the core 0x80000001 and makes
COMMRX HIGH, and MRC takes it and makes COMMRX LOW. -/
theorem test_scan_rdtr :
    let s : State := { s0 with tap := { s0.tap with
      state := .shiftDr, ir := 0#4, chain := 5#5, rxReady := true, drShift := 0x6#66 } }
    gives (tckEdge true true s) (fun t => t.tap.drShift == 0x100000003#66 && t.tap.state == .exit1Dr && !t.commrx &&
      gives (tckEdge true false t) (fun u => u.dbg.rdtr == 0x80000001#32 && u.commrx &&
        gives (exec (decode (.arm 0xEE100E15#32)) u) (fun v => v.reg 0#4 == 0x80000001#32 && !v.commrx))) = true := by decide

/-- R204, R350, R353: a big-endian byte store at 0x9001 behind no castout is the byte at 0x9002; a castout drains from its start,
and an entry older than it goes first. -/
theorem test_drain :
    let s : State := { s0 with
      wbuf := [⟨0x9001#32, .byte, 0x77#64, 0#4, true, .single⟩, ⟨0x9020#32, .word, 0x11#64, 0#4, false, .single⟩]
      castout := some ⟨0x480#27, #v[0#32, 1#32, 2#32, 3#32, 4#32, 5#32, 6#32, 7#32], 1#2, 1⟩ }
    (drainOne s).wordAt 0x9000#32 = 0x00770000#32 ∧ (drainOne s).wordAt 0x9008#32 = 0#32 ∧
    (drainOne (drainOne s)).wordAt 0x9000#32 = 0#32 ∧ (drainOne (drainOne s)).wordAt 0x901C#32 = 7#32 ∧
    (drainOne (drainOne s)).wbuf.length = 1 ∧ (drainAll s).wordAt 0x9020#32 = 0x11#32 ∧
    (drainAll s).bus.reverse.map BusRecord.pa =
      [0x9001#32, 0x9008#32, 0x9010#32, 0x9018#32, 0x9000#32, 0x9020#32] := by decide

/-- An unasked acknowledgement; IDLE, with empty buffers and with HGRANTD LOW and a store waiting; DORMANT; without power. -/
theorem witness_PowerManagerMailbox :
    let sent (st : BitVec 4) : State := { s0 with pm := { s0.pm with txReq := true, txState := st } }
    let full : State := { sent 8#4 with
      wbuf := [⟨0#32, .word, 0#64, 0#4, false, .single⟩], pins := { s0.pins with hgrantd := false } }
    ({ s0 with inputs := [.pmTxAck] } : State).inputs = Event.pmTxAck :: [] ∧ s0.pm.txReq = false ∧
    (sent 8#4).pm.txReq = true ∧ (sent 8#4).pm.txState.extractLsb' 2 2 = 2#2 ∧ (sent 8#4).run ≠ .poweredDown ∧
    (sent 8#4).wbuf = [] ∧ (sent 8#4).castout = none ∧ (sent 8#4).pins.hgrantd = true ∧ full.pins.hgrantd = false ∧
    full.wbuf ≠ [] ∧ full.pm.pending ≠ some .poweredDown ∧
    ({ full with pm := { full.pm with pending := some .poweredDown } } : State).pm.pending = some .poweredDown ∧
    (sent 4#4).pm.txState.extractLsb' 2 2 ≠ 2#2 ∧ (sent 4#4).pm.txState.getLsbD 3 = false ∧
    ({ s0 with run := .poweredDown } : State).run = .poweredDown ∧ s0.pm.pending = none ∧
    ({ s0 with pm := { s0.pm with powerOff := true } } : State).pm.powerOff = true ∧ s0.pm.powerOff = false ∧
    ({ s0 with pm := PowerMgr.reset true } : State).pm.rxReq = true ∧ s0.pm.rxReq = false ∧ s0.pins.hresetn = true ∧
    s0.pins.sfresetn = true ∧ ({ s0.pm with powerOff := true, ackState := 4#4 } : PowerMgr).ackState.extractLsb' 2 2 = 1#2 ∧
    gives (step { s0 with run := .poweredDown, inputs := [.drain] }) (fun t => t.run == .poweredDown) = true := by decide

end Sys2Proof.Tests
end

section
/-!
SUPPORT. The invariant of spec/10 R34, R44, R46 instruction by instruction: the templates of the instructions that Laws/Kept.lean
does not have, and `exec` as a whole.
-/
namespace Sys2Proof.Machine

variable {s t : State}

/-- The state an outcome names. -/
theorem next_sound {u : State} (h : u.sound = true) (ht : (.next u : Outcome State) = .next t) : t.sound = true :=
  Host.Outcome.next.inj ht ▸ h

theorem dataOp_sound {c sf rn rd op f} (h : s.sound = true) (ht : dataOp c sf rn rd op f s = .next t) : t.sound = true :=
  whenCond_sound h (require_sound (writeResult_sound h)) ht

theorem moveOp_sound {c sf z rd op f} (h : s.sound = true) (ht : moveOp c sf z rd op f s = .next t) : t.sound = true :=
  whenCond_sound h (require_sound (require_sound (writeResult_sound h))) ht

theorem compareOp_sound {c rn z op f} (h : s.sound = true) (ht : compareOp c rn z op f s = .next t) : t.sound = true :=
  whenCond_sound h (require_sound (require_sound (advance_sound (setAlu_sound h)))) ht

theorem saturatingOp_sound {c rn rd z rm f} (h : s.sound = true) (ht : saturatingOp c rn rd z rm f s = .next t) :
    t.sound = true :=
  whenCond_sound h (require_sound (require_sound (advance_sound (setReg_sound _ _ (setQ_sound _ h))))) ht

theorem writeProduct_sound {sf rd p} (h : s.sound = true) (ht : writeProduct sf rd p s = .next t) : t.sound = true := by
  refine advance_sound (setReg_sound _ _ ?_) ht
  split
  · exact setNZCV_sound _ _ _ _ h
  · exact h

theorem writeLong_sound {sf hi lo p} (h : s.sound = true) (ht : writeLong sf hi lo p s = .next t) : t.sound = true := by
  refine advance_sound (setReg_sound _ _ (setReg_sound _ _ ?_)) ht
  split
  · exact setNZCV_sound _ _ _ _ h
  · exact h

theorem longOp_sound {c sf hi lo rs rm f} (h : s.sound = true) (ht : longOp c sf hi lo rs rm f s = .next t) :
    t.sound = true :=
  whenCond_sound h (require_sound (writeLong_sound h)) ht

theorem accumulateQ_sound {rd p rn} (h : s.sound = true) (ht : accumulateQ rd p rn s = .next t) : t.sound = true :=
  advance_sound (setReg_sound _ _ (setQ_sound _ h)) ht

theorem swapOp_sound {e c rn rd z rm} (h : s.sound = true) (ht : swapOp e c rn rd z rm s = .next t) : t.sound = true :=
  whenCond_sound h (require_sound (require_sound
    (finish_sound h (memSwap_memSide _ _ _ _ _) fun _ _ h1 => advance_sound (setReg_sound _ _ h1)))) ht

theorem loadMode3_sound {e c ix rd off} (h : s.sound = true) (ht : loadMode3 e c ix rd off s = .next t) :
    t.sound = true :=
  whenCond_sound h (require_sound (require_sound (loadReg_sound h))) ht

theorem execStrh_sound {c ix rd off} (h : s.sound = true) (ht : execStrh c ix rd off s = .next t) : t.sound = true :=
  whenCond_sound h (require_sound (require_sound (require_sound (storeReg_sound h)))) ht

theorem execLdr_sound {c ix rd off} (h : s.sound = true) (ht : execLdr c ix rd off s = .next t) : t.sound = true := by
  refine whenCond_sound h (require_sound fun ht => ?_) ht
  split at ht
  · exact loadToPc_sound h ht
  · exact loadReg_sound h ht

theorem execLdrd_sound {c ix rd off} (h : s.sound = true) (ht : execLdrd c ix rd off s = .next t) : t.sound = true := by
  refine whenCond_sound h (require_sound fun ht => ?_) ht
  split at ht
  · exact undefinedInstr_sound h ht
  · exact require_sound (require_sound (finish_sound h
      ((memReadMany_readSide _ _ _ _).mono fun _ h => h.toMemSide)
      fun _ _ h1 => advance_sound (setReg_sound _ _ (setReg_sound _ _ (writeBase_sound h1))))) ht

theorem execStrd_sound {c ix rd off} (h : s.sound = true) (ht : execStrd c ix rd off s = .next t) : t.sound = true := by
  refine whenCond_sound h (require_sound fun ht => ?_) ht
  split at ht
  · exact undefinedInstr_sound h ht
  · exact require_sound (require_sound (finish_sound h (memWriteMany_memSide _ _ _ _)
      fun _ _ h1 => advance_sound (writeBase_sound h1))) ht

theorem execPld_sound {u rn off} (h : s.sound = true) (ht : execPld u rn off s = .next t) : t.sound = true :=
  require_sound (finish_sound h ((preload_readSide _ _ _).mono fun _ h => h.toMemSide) fun _ _ => advance_sound) ht

theorem execLdm2_sound {c ix l} (h : s.sound = true) (ht : execLdm2 c ix l s = .next t) : t.sound = true :=
  whenCond_sound h (require_sound (require_sound (require_sound
    (finish_sound h ((memReadMany_readSide _ _ _ _).mono fun _ h => h.toMemSide)
      fun _ _ h1 => advance_sound (setRegs_sound h1))))) ht

theorem execLdm3_sound {c ix l} (h : s.sound = true) (ht : execLdm3 c ix l s = .next t) : t.sound = true :=
  whenCond_sound h (require_sound (require_sound
    (finish_sound h ((memReadMany_readSide _ _ _ _).mono fun _ h => h.toMemSide)
      fun _ _ h1 => require_sound (exceptionReturn_sound (setRegs_sound (multipleWriteBase_sound h1)))))) ht

theorem execStm2_sound {c ix l} (h : s.sound = true) (ht : execStm2 c ix l s = .next t) : t.sound = true :=
  whenCond_sound h (require_sound (require_sound (require_sound
    (finish_sound h (memWriteMany_memSide _ _ _ _) fun _ _ => advance_sound)))) ht

theorem execMrs_sound {c r o rd z1 z2} (h : s.sound = true) (ht : execMrs c r o rd z1 z2 s = .next t) :
    t.sound = true := by
  refine whenCond_sound h (require_sound (require_sound fun ht => ?_)) ht
  split at ht
  · split at ht
    · exact advance_sound (setReg_sound _ _ h) ht
    · exact advance_sound (setReg_sound _ _ (useFree_sound h)) ht
  · exact advance_sound (setReg_sound _ _ h) ht

theorem mcrExternal_sound {f} (h : s.sound = true) (ht : mcrExternal f s = .next t) : t.sound = true :=
  advance_sound (cpTell_sound (mcrValue_sound h)) ht

/-- An instruction that CP14 and CP15 answer with Undefined and an external coprocessor carries out. -/
theorem externalOnly_sound {n i u k} (h : s.sound = true) (hk : ∀ u, u.sound = true → k u = .next t → t.sound = true)
    (ht : (if internalCp n then undefinedInstr s else external n i u s k) = .next t) : t.sound = true := by
  split at ht
  · exact undefinedInstr_sound h ht
  · exact external_sound h hk ht

/-- An instruction with a meaning for CP15, one for CP14, and one for an external coprocessor. -/
theorem byCoprocessor_sound {n : BitVec 4} {a b k : Outcome State} (h15 : a = .next t → t.sound = true)
    (h14 : b = .next t → t.sound = true) (hk : k = .next t → t.sound = true)
    (ht : (if n = 15#4 then a else if n = 14#4 then b else k) = .next t) : t.sound = true := by
  split at ht
  · exact h15 ht
  · split at ht
    · exact h14 ht
    · exact hk ht

theorem execMcrr_sound {c rn rd cp opc crm} (h : s.sound = true) (ht : execMcrr c rn rd cp opc crm s = .next t) :
    t.sound = true :=
  whenCond_sound h (externalOnly_sound h fun _ h1 => require_sound (advance_sound (cpTell_sound h1))) ht

theorem execMrrc_sound {c rn rd cp opc crm} (h : s.sound = true) (ht : execMrrc c rn rd cp opc crm s = .next t) :
    t.sound = true :=
  whenCond_sound h (externalOnly_sound h fun _ h1 =>
    require_sound (advance_sound (setReg_sound _ _ (setReg_sound _ _ h1)))) ht

theorem execTBlSuffix_sound {imm} (h : s.sound = true) (ht : execTBlSuffix imm s = .next t) : t.sound = true :=
  next_sound (branchTo_sound (alignPc_even s _) (setReg_sound _ _ h)) ht

theorem execTBlxSuffix_sound {imm} (h : s.sound = true) (ht : execTBlxSuffix imm s = .next t) : t.sound = true :=
  next_sound (branchTo_sound (even_and (by decide)) (setThumb_sound _ (setReg_sound _ _ h))) ht

/-- The offsets of the branches are even (spec/42 R580, R583; spec/48 R820). -/
theorem armOffset_even (x : Int) : (8 + 4 * x) % 2 = 0 := by omega

theorem blxOffset_even (x : Int) (h : Bool) : (8 + 4 * x + 2 * (h.toNat : Int)) % 2 = 0 := by omega

/-- Every instruction keeps a state sound (spec/10 R34, R44, R46). -/
theorem exec_sound {i : Instr} (h : s.sound = true) (ht : exec i s = .next t) : t.sound = true := by
  cases i
  case undPld | undExt2 | undUncond | tUnd1011 | tUndCond | tUndBlx => exact undefinedInstr_sound h ht
  case undMiscA | undMiscB | undMul | undMsr | undMedia | undCpExt => exact whenCond_sound h (undefinedInstr_sound h) ht
  case pld => exact execPld_sound h ht
  case blxImm b _ =>
    exact branchRelative_sound h (setThumb_sound _ (setReg_sound _ _ h)) (blxOffset_even _ b) ht
  case b => exact whenCond_sound h (branchRelative_sound h h (armOffset_even _)) ht
  case bl => exact whenCond_sound h (branchRelative_sound h (setReg_sound _ _ h) (armOffset_even _)) ht
  case ldc2 => exact externalOnly_sound h (fun _ => ldcExternal_sound) ht
  case stc2 => exact externalOnly_sound h (fun _ => stcExternal_sound) ht
  case cdp2 => exact externalOnly_sound h (fun _ => advance_sound) ht
  case mcr2 => exact externalOnly_sound h (fun _ => mcrExternal_sound) ht
  case mrc2 => exact externalOnly_sound h (fun _ => mrcResult_sound) ht
  case cdp => exact whenCond_sound h (externalOnly_sound h fun _ => advance_sound) ht
  case ldc =>
    exact whenCond_sound h (byCoprocessor_sound (undefinedInstr_sound h) (ldc14_sound h)
      (external_sound h fun _ => ldcExternal_sound)) ht
  case stc =>
    exact whenCond_sound h (byCoprocessor_sound (undefinedInstr_sound h) (stc14_sound h)
      (external_sound h fun _ => stcExternal_sound)) ht
  case mcr =>
    exact whenCond_sound h (byCoprocessor_sound (mcr15_sound h) (mcr14_sound h)
      (external_sound h fun _ => mcrExternal_sound)) ht
  case mrc =>
    exact whenCond_sound h (byCoprocessor_sound (mrc15_sound h) (mrc14_sound h)
      (external_sound h fun _ => mrcResult_sound)) ht
  case mcrr => exact execMcrr_sound h ht
  case mrrc => exact execMrrc_sound h ht
  case mrs => exact execMrs_sound h ht
  case msrReg => exact whenCond_sound h (require_sound (require_sound (msrWrite_sound h))) ht
  case msrImm => exact whenCond_sound h (require_sound (msrWrite_sound h)) ht
  case bx => exact whenCond_sound h (require_sound (exchangeTo_sound h)) ht
  case blxReg => exact whenCond_sound h (require_sound (require_sound (exchangeTo_sound (setReg_sound _ _ h)))) ht
  case clz => exact whenCond_sound h (require_sound (require_sound (advance_sound (setReg_sound _ _ h)))) ht
  case qadd => exact saturatingOp_sound (f := fun m n => saturate (m + n)) h ht
  case qsub => exact saturatingOp_sound (f := fun m n => saturate (m - n)) h ht
  case qdadd | qdsub => exact saturatingOp_sound h ht
  case bkpt => exact require_sound (breakpointInstr_sound h) ht
  case tBkpt => exact breakpointInstr_sound h ht
  case swi => exact whenCond_sound h (softwareInterrupt_sound h) ht
  case tSwi => exact softwareInterrupt_sound h ht
  case smlaxy | smlawy => exact whenCond_sound h (require_sound (accumulateQ_sound h)) ht
  case smulwy | smulxy =>
    exact whenCond_sound h (require_sound (require_sound (advance_sound (setReg_sound _ _ h)))) ht
  case smlalxy => exact whenCond_sound h (require_sound (writeLong_sound h)) ht
  case mul => exact whenCond_sound h (require_sound (require_sound (writeProduct_sound h))) ht
  case mla => exact whenCond_sound h (require_sound (writeProduct_sound h)) ht
  case umull => exact longOp_sound (f := unsignedProduct) h ht
  case smull => exact longOp_sound (f := signedProduct) h ht
  case umlal _ hi lo _ _ =>
    exact longOp_sound (f := fun a b => unsignedProduct a b + accumulator hi lo s) h ht
  case smlal _ hi lo _ _ =>
    exact longOp_sound (f := fun a b => signedProduct a b + accumulator hi lo s) h ht
  case swp | swpb => exact swapOp_sound h ht
  case ldrh | ldrsb | ldrsh => exact loadMode3_sound h ht
  case strh => exact execStrh_sound h ht
  case ldrd => exact execLdrd_sound h ht
  case strd => exact execStrd_sound h ht
  case and | eor | sub | rsb | add | adc | sbc | rsc | orr | bic => exact dataOp_sound h ht
  case tst | teq | cmp | cmn => exact compareOp_sound h ht
  case mov | mvn => exact moveOp_sound h ht
  case ldrt | ldrbt | ldrb => exact whenCond_sound h (require_sound (loadReg_sound h)) ht
  case strt | strbt | str | strb => exact whenCond_sound h (require_sound (storeReg_sound h)) ht
  case ldr => exact execLdr_sound h ht
  case ldm1 => exact whenCond_sound h (require_sound (loadMultiple_sound h)) ht
  case ldm2 => exact execLdm2_sound h ht
  case ldm3 => exact execLdm3_sound h ht
  case stm1 => exact whenCond_sound h (require_sound (storeMultiple_sound h)) ht
  case stm2 => exact execStm2_sound h ht
  case tAddReg | tSubReg | tAddImm3 | tSubImm3 | tLslImm | tLsrImm | tAsrImm | tAddImm8 | tSubImm8 | tLslReg | tLsrReg
      | tAsrReg | tRor | tAdc | tSbc | tNeg => exact thumbAlu_sound h ht
  case tMovImm | tAnd | tEor | tOrr | tMul | tBic | tMvn => exact thumbLogic_sound h ht
  case tCmpImm | tCmpReg | tCmn => exact advance_sound (setAlu_sound h) ht
  case tTst => exact advance_sound (setNZCV_sound _ _ _ _ h) ht
  case tCmpHi => exact require_sound (advance_sound (setAlu_sound h)) ht
  case tAddHi | tMovHi => exact require_sound (thumbHigh_sound h) ht
  case tBx => exact require_sound (exchangeTo_sound h) ht
  case tBlxReg => exact require_sound (require_sound (exchangeTo_sound (setReg_sound _ _ h))) ht
  case tLdrPc | tLdrsbReg | tLdrReg | tLdrhReg | tLdrbReg | tLdrshReg | tLdrImm | tLdrbImm | tLdrhImm | tLdrSp =>
    exact thumbLoad_sound h ht
  case tStrReg | tStrhReg | tStrbReg | tStrImm | tStrbImm | tStrhImm | tStrSp => exact thumbStore_sound h ht
  case tAddPc | tAddSpRd | tAddSp | tSubSp | tBlPrefix => exact advance_sound (setReg_sound _ _ h) ht
  case tPush | tStmia => exact require_sound (storeMultiple_sound h) ht
  case tPop | tLdmia => exact require_sound (loadMultiple_sound h) ht
  case tBcond => exact whenCond_sound h (branchThumb_sound h) ht
  case tB => exact branchThumb_sound h ht
  case tBlSuffix => exact execTBlSuffix_sound h ht
  case tBlxSuffix => exact execTBlxSuffix_sound h ht

end Sys2Proof.Machine
end

section
/-!
SUPPORT. The invariant of spec/10 R34, R44, R46 across everything that happens between instructions: fetching, the buffers, debug
events, interrupts, the debugger's port and the moves of the outside world.
-/
namespace Sys2Proof.Machine

variable {s t : State}

/-! ### Fetching (spec/22 R373) -/

theorem fetchEntry_sound {prev pc thumb p} (h : s.sound = true) (ht : fetchEntry prev pc thumb s = .ok (p, t)) :
    t.sound = true := by
  unfold fetchEntry at ht
  split at ht
  next f s1 hf =>
    cases ht
    exact (fetch_readSide _ _ _ _ _ _ hf).toMemSide.sound h
  next => cases ht

/-- The prefetch buffer is nothing that soundness reads. -/
theorem withPrefetch_sound {l : List Prefetched} (h : s.sound = true) : State.sound { s with prefetch := l } = true :=
  sound_congr rfl rfl rfl rfl h

theorem nextInstruction_sound {p} (h : s.sound = true) (ht : nextInstruction s = .ok (p, t)) : t.sound = true := by
  unfold nextInstruction at ht
  split at ht
  · split at ht
    · cases ht
      exact withPrefetch_sound h
    · exact fetchEntry_sound (withPrefetch_sound h) ht
  · exact fetchEntry_sound h ht

theorem fetchBehind_sound {ahead p} (h : s.sound = true) (ht : fetchBehind ahead s = .ok (some (p, t))) :
    t.sound = true := by
  have entry : ∀ prev pc thumb, (match fetchEntry prev pc thumb s with
      | .ok (p, s1) => Except.ok (some (p, s1))
      | .error r => .error r) = .ok (some (p, t)) → t.sound = true := by
    intro prev pc thumb ht
    split at ht
    next hf =>
      cases ht
      exact fetchEntry_sound h hf
    next => cases ht
  unfold fetchBehind at ht
  split at ht
  · exact entry _ _ _ ht
  · split at ht
    · cases ht
    · split at ht
      · split at ht
        · cases ht
          exact h
        · cases ht
      · exact entry _ _ _ ht

theorem fillBehind_sound {p n} (h : s.sound = true) (ht : fillBehind p n s = .ok t) : t.sound = true := by
  induction n generalizing t with
  | zero =>
    cases ht
    exact h
  | succ n ih =>
    unfold fillBehind at ht
    split at ht
    next => cases ht
    next s1 h1 =>
      split at ht
      · cases ht
        exact ih h1
      · split at ht
        next => cases ht
        next =>
          cases ht
          exact ih h1
        next h2 =>
          cases ht
          exact withPrefetch_sound (fetchBehind_sound (ih h1) h2)

theorem lookAhead_sound {p i} (h : s.sound = true) (ht : lookAhead p i s = .ok t) : t.sound = true := by
  unfold lookAhead at ht
  split at ht
  · exact fillBehind_sound h ht
  · cases ht
    exact h

/-! ### The end of an instruction -/

/-- The debug unit is nothing that soundness reads. -/
theorem withDebug_sound {d : Debug} (h : s.sound = true) : State.sound { s with dbg := d } = true :=
  sound_congr rfl rfl rfl rfl h

theorem watchEvent_sound {hit} (h : s.sound = true) : (watchEvent hit s).sound = true := by
  unfold watchEvent
  extract_lets s1
  have h1 : s1.sound = true := recordDataFault_sound h
  split
  · exact enterDebug_sound h1
  · exact takeException_sound (withDebug_sound h1)

theorem settleWatch_sound (h : s.sound = true) : (settleWatch s).sound = true := by
  unfold settleWatch
  split
  · exact watchEvent_sound h
  · exact h

theorem complete_sound (h : s.sound = true) : (complete s).sound = true :=
  (drainIfGranted_readSide _).toMemSide.sound (sound_congr (s := s) rfl rfl rfl rfl h)

theorem settle_sound (h : s.sound = true) : (settle s).sound = true := complete_sound (settleWatch_sound h)

theorem resolve_sound {pr rest} (h : s.sound = true) : (resolve pr rest s).sound = true := by
  rw [resolve_eq]
  exact withPrefetch_sound h

theorem hold_sound {p} (h : s.sound = true) : (hold p s).sound = true := withPrefetch_sound h

/-! ### Running an instruction -/

theorem runCode_sound {p i} (h : s.sound = true) (ht : runCode p i s = .next t) : t.sound = true := by
  unfold runCode at ht
  split at ht
  next u hu =>
    split at ht
    · exact next_sound (settle_sound (resolve_sound (exec_sound (caughtHere_sound h) hu))) ht
    · exact next_sound (hold_sound h) ht
  next => cases ht
  next => cases ht

theorem issue_sound {p i} (h : s.sound = true) (ht : issue p i s = .next t) : t.sound = true := by
  unfold issue at ht
  split at ht
  · exact next_sound (hold_sound h) ht
  · split at ht
    next s1 h1 =>
      split at ht
      · exact runCode_sound (lookAhead_sound h h1) ht
      · exact next_sound (hold_sound h) ht
    next => cases ht

theorem runFetched_sound {p} (h : s.sound = true) (ht : runFetched p s = .next t) : t.sound = true := by
  unfold runFetched at ht
  split at ht
  · exact next_sound (prefetchAbort_sound h) ht
  · split at ht
    · exact next_sound (debugEvent_sound h) ht
    · split at ht
      · exact next_sound (debugEvent_sound h) ht
      · exact issue_sound h ht

theorem runInstruction_sound (h : s.sound = true) (ht : runInstruction s = .next t) : t.sound = true := by
  unfold runInstruction at ht
  split at ht
  next hn =>
    split at ht
    · exact runFetched_sound (nextInstruction_sound h hn) ht
    · exact next_sound h ht
  next => cases ht

theorem runItr_sound (h : s.sound = true) (ht : runItr s = .next t) : t.sound = true := by
  unfold runItr at ht
  split at ht
  · exact next_sound (withDebug_sound h) ht
  · split at ht
    next u hu =>
      split at ht
      · exact next_sound (complete_sound (withDebug_sound (exec_sound h hu))) ht
      · exact next_sound (withDebug_sound h) ht
    next => cases ht
    next => cases ht

/-! ### Instruction boundaries and run states -/

theorem interruptOr_sound {k} (h : s.sound = true) (hk : k = .next t → t.sound = true) (ht : interruptOr s k = .next t) :
    t.sound = true := by
  unfold interruptOr at ht
  split at ht
  · exact next_sound (takeException_sound h) ht
  · split at ht
    · exact next_sound (takeException_sound h) ht
    · exact hk ht

theorem boundary_sound (h : s.sound = true) (ht : boundary s = .next t) : t.sound = true := by
  unfold boundary at ht
  split at ht
  · exact next_sound (enterDebug_sound h) ht
  · exact interruptOr_sound h (runInstruction_sound h) ht

theorem wake_sound (h : s.sound = true) (ht : wake s = .next t) : t.sound = true :=
  interruptOr_sound h (boundary_sound h) ht

theorem enterLowPower_sound {r} (h : s.sound = true) : (enterLowPower r s).sound = true := by
  have h1 : (drainIfGranted s).sound = true := (drainIfGranted_readSide s).toMemSide.sound h
  unfold enterLowPower
  dsimp only
  split
  · exact sound_congr rfl rfl rfl rfl h1
  · exact sound_congr rfl rfl rfl rfl h1

theorem stepByRun_sound (h : s.sound = true) (ht : stepByRun s = .next t) : t.sound = true := by
  unfold stepByRun at ht
  split at ht
  case h_1 | h_3 =>
    exact next_sound h ht
  case h_2 =>
    split at ht
    · exact runItr_sound h ht
    · exact next_sound h ht
  case h_4 => exact boundary_sound h ht
  case h_5 =>
    split at ht
    · exact wake_sound (s := { s with run := .running }) (sound_congr rfl rfl rfl rfl h) ht
    · exact next_sound h ht

theorem processorStep_sound (h : s.sound = true) (ht : processorStep s = .next t) : t.sound = true := by
  unfold processorStep at ht
  split at ht
  · exact next_sound h ht
  · split at ht
    · exact next_sound (enterLowPower_sound h) ht
    · exact stepByRun_sound h ht

end Sys2Proof.Machine
end

section
/-!
SUPPORT. The invariant of spec/10 R34, R44, R46 across the moves of the outside world, and so across every step (O5), and the
reset state (O6).
-/
namespace Sys2Proof.Machine

variable {s t : State}

/-! ### The debugger's port (spec/61 R910-R933): nothing that soundness reads, but for an instruction from the ITR -/

/-- What the debugger's port changes by itself: the TAP controller and the debug unit. -/
def State.atPort (s : State) (tap : Tap) (dbg : Debug) : State := { s with tap := tap, dbg := dbg }

theorem atPort_sound {tap dbg} (h : s.sound = true) : (s.atPort tap dbg).sound = true := sound_congr rfl rfl rfl rfl h

/-- Being in an `atPort` of a state. -/
def AtPort (s t : State) : Prop := ∃ tap dbg, t = s.atPort tap dbg

theorem AtPort.sound (ht : AtPort s t) (h : s.sound = true) : t.sound = true := by
  obtain ⟨tap, dbg, rfl⟩ := ht
  exact atPort_sound h

theorem AtPort.refl (s : State) : AtPort s s := ⟨s.tap, s.dbg, rfl⟩

theorem captureDr_atPort (s : State) : AtPort s s.captureDr := by
  unfold State.captureDr
  split
  case h_3 | h_4 => split <;> exact ⟨_, _, rfl⟩
  all_goals exact ⟨_, _, rfl⟩

theorem jtagRdtr_atPort (s : State) (v : Word) : AtPort s (s.jtagRdtr v) := by
  unfold State.jtagRdtr
  split
  · exact ⟨_, _, rfl⟩
  · exact AtPort.refl s

theorem updateChain_atPort (s : State) : AtPort s s.updateChain := by
  unfold State.updateChain
  split
  case h_3 => exact jtagRdtr_atPort s _
  case h_4 =>
    obtain ⟨tap, dbg, e⟩ := jtagRdtr_atPort s (s.tap.drShift.extractLsb' 1 32)
    rw [e]
    exact ⟨_, _, rfl⟩
  all_goals exact ⟨_, _, rfl⟩

theorem updateDr_atPort (s : State) : AtPort s s.updateDr := by
  unfold State.updateDr
  split
  case h_2 => exact updateChain_atPort s
  all_goals exact ⟨_, _, rfl⟩

theorem tapAct_atPort (tdi : Bool) (s : State) : AtPort s (tapAct tdi s) := by
  unfold tapAct
  split
  case h_1 => exact captureDr_atPort s
  all_goals exact ⟨_, _, rfl⟩

/-- A choice between an update at the port and nothing. -/
theorem orStay_sound {b : Bool} {u : State} (h : s.sound = true) (hu : AtPort s u)
    (ht : (if b then .next u else .next s : Outcome State) = .next t) : t.sound = true := by
  cases b
  · exact next_sound h ht
  · exact next_sound (hu.sound h) ht

theorem enterIdle_sound (h : s.sound = true) (ht : enterIdle s = .next t) : t.sound = true := by
  have itr : ∀ {b : Bool}, (if b then runItr s else .next s) = .next t → t.sound = true := by
    intro b ht
    cases b
    · exact next_sound h ht
    · exact runItr_sound h ht
  unfold enterIdle at ht
  split at ht
  case h_1 | h_2 => exact orStay_sound h ⟨_, _, rfl⟩ ht
  case h_3 | h_4 => exact itr ht
  all_goals exact next_sound h ht

theorem tapEnter_sound {st} (h : s.sound = true) (ht : tapEnter st s = .next t) : t.sound = true := by
  unfold tapEnter at ht
  split at ht
  case h_4 => exact enterIdle_sound h ht
  case h_2 => exact next_sound ((updateDr_atPort s).sound h) ht
  all_goals exact next_sound (atPort_sound h) ht

theorem tckEdge_sound {tms tdi} (h : s.sound = true) (ht : tckEdge tms tdi s = .next t) : t.sound = true := by
  have h1 : (tapAct tdi s).sound = true := (tapAct_atPort tdi s).sound h
  unfold tckEdge at ht
  dsimp only at ht
  split at ht
  · exact next_sound (atPort_sound h1) ht
  · exact tapEnter_sound (atPort_sound h1) ht

/-! ### The power manager and the resets (spec/62 R953-R960; spec/70 R980-R985) -/

/-- The mailbox is nothing that soundness reads. -/
theorem withPm_sound {p : PowerMgr} (h : s.sound = true) : State.sound { s with pm := p } = true :=
  sound_congr rfl rfl rfl rfl h

/-- Nor are the pins. -/
theorem withPins_sound {p : Pins} (h : s.sound = true) : State.sound { s with pins := p } = true :=
  sound_congr rfl rfl rfl rfl h

theorem handlePmTxAck_sound (h : s.sound = true) (ht : handlePmTxAck s = .next t) : t.sound = true := by
  unfold handlePmTxAck at ht
  dsimp only at ht
  split at ht
  · split at ht
    · exact next_sound (withPm_sound h) ht
    · split at ht
      · split at ht
        · exact next_sound (withPm_sound h) ht
        · exact next_sound (enterLowPower_sound (withPm_sound h)) ht
      · exact next_sound (withPm_sound h) ht
  · cases ht

theorem handlePmRxAck_sound {st e} (h : s.sound = true) (ht : handlePmRxAck st e s = .next t) : t.sound = true := by
  unfold handlePmRxAck at ht
  split at ht
  · exact next_sound (withPm_sound h) ht
  · cases ht

theorem handlePowerOff_sound (h : s.sound = true) (ht : handlePowerOff s = .next t) : t.sound = true := by
  unfold handlePowerOff at ht
  split at ht
  · exact next_sound (enterLowPower_sound h) ht
  · cases ht

theorem handleSoftReset_sound (h : s.sound = true) (ht : handleSoftReset s = .next t) : t.sound = true := by
  unfold handleSoftReset at ht
  split at ht
  · exact next_sound h ht
  · exact next_sound (coreReset_sound h) ht

theorem handleResetPins_sound {a b} (h : s.sound = true) (ht : handleResetPins a b s = .next t) : t.sound = true := by
  unfold handleResetPins at ht
  dsimp only at ht
  split at ht
  · cases ht
  · split at ht
    · exact next_sound (coreReset_sound (withPins_sound h)) ht
    · split at ht
      · exact handleSoftReset_sound (withPins_sound h) ht
      · refine next_sound ?_ ht
        exact sound_congr (s := s) rfl rfl rfl rfl h

theorem prefetchMore_sound (h : s.sound = true) (ht : prefetchMore s = .next t) : t.sound = true := by
  unfold prefetchMore at ht
  split at ht
  · split at ht
    next hf =>
      split at ht
      · exact next_sound (withPrefetch_sound (fetchBehind_sound h hf)) ht
      · exact next_sound h ht
    next => exact next_sound h ht
    next => cases ht
  · exact next_sound h ht

/-! ### Every move of the outside world -/

theorem handleEvent_sound {e} (h : s.sound = true) (ht : handleEvent e s = .next t) : t.sound = true := by
  cases e with
  | nfiq | nirq | isync | edbgrq | hgrantd | hgranti | cpbusye | pconfigout => exact next_sound (withPins_sound h) ht
  | powerOnReset => exact next_sound (coreReset_sound (withPins_sound h)) ht
  | softReset => exact handleSoftReset_sound (withPins_sound h) ht
  | hresetAlone => cases ht
  | ntrst => exact next_sound (withPins_sound (s := s.tapReset) (atPort_sound h)) ht
  | resetPins => exact handleResetPins_sound h ht
  | ntrstPin high =>
    cases high
    · exact next_sound (withPins_sound (s := s.tapReset) (atPort_sound h)) ht
    · exact next_sound (withPins_sound h) ht
  | tck =>
    unfold handleEvent at ht
    dsimp only at ht
    split at ht
    · exact next_sound h ht
    · exact tckEdge_sound h ht
  | pmTxAck => exact handlePmTxAck_sound h ht
  | pmRxAck => exact handlePmRxAck_sound h ht
  | powerOff => exact handlePowerOff_sound h ht
  | otherMaster => exact next_sound (otherMasterWrite_sound h) ht
  | otherMasterLater =>
    refine next_sound ?_ ht
    exact sound_congr (s := s) rfl rfl rfl rfl h
  | drain =>
    unfold handleEvent at ht
    dsimp only at ht
    split at ht
    · exact next_sound h ht
    · exact next_sound ((drainOne_memSide s).sound h) ht
  | prefetch => exact prefetchMore_sound h ht
  | quiet => exact processorStep_sound h ht

theorem step_sound (h : s.sound = true) (ht : step s = .next t) : t.sound = true := by
  unfold step stepBody at ht
  split at ht
  next e rest _ => exact handleEvent_sound (s := { s with inputs := rest }) (sound_congr rfl rfl rfl rfl h) ht
  next => exact processorStep_sound h ht

/-- Settles O5: every move of the outside world and every step of the processor keeps soundness. -/
theorem soundKept : Obligations.SoundKept := fun _ _ => step_sound

/-- Settles O6. -/
theorem soundAtReset : Obligations.SoundAtReset := by
  unfold Obligations.SoundAtReset
  decide

end Sys2Proof.Machine
end

section
/-!
The register banks: which names select one physical register (O8).
-/
namespace Sys2Proof.Machine

/-- The name of one of the thirty registers: the left inverse of `regIndex` in every bank. -/
def registerName (k : Fin 30) : Reg :=
  BitVec.ofNat 4 (if k.val < 13 then k.val else if k.val < 18 then k.val - 5 else 13 + k.val % 2)

theorem registerName_regIndex (b : Bank) {r : Reg} (h : r ≠ regPc) : registerName (regIndex b r) = r := by
  revert r
  cases b <;> decide

/-- Two banks share a register: r0 to r7 all, r8 to r12 all but FIQ, r13 and r14 none. -/
def sharedBy (b b' : Bank) (r : Reg) : Prop :=
  r.toNat ≤ 7 ∨ (r.toNat ≤ 12 ∧ (b = .fiq ↔ b' = .fiq)) ∨ b' = b

theorem regIndex_eq_iff_shared (b b' : Bank) {r : Reg} (h : r ≠ regPc) :
    regIndex b r = regIndex b' r ↔ sharedBy b b' r := by
  unfold sharedBy
  revert r
  cases b <;> cases b' <;> decide

/-- Two names in two banks select one register exactly when they are one name that the banks share. -/
theorem regIndex_eq_iff (b b' : Bank) {r r' : Reg} (h : r ≠ regPc) (h' : r' ≠ regPc) :
    regIndex b r = regIndex b' r' ↔ r' = r ∧ sharedBy b b' r := by
  constructor
  · intro e
    have names : r' = r := by rw [← registerName_regIndex b h, e, registerName_regIndex b' h']
    subst names
    exact ⟨rfl, (regIndex_eq_iff_shared b b' h).mp e⟩
  · rintro ⟨rfl, shared⟩
    exact (regIndex_eq_iff_shared b b' h).mpr shared

/-- A register read under one bank after a write under another. -/
theorem State.regIn_setRegIn_banks (s : State) (b b' : Bank) {r r' : Reg} (v : Word) (h : r ≠ regPc) (h' : r' ≠ regPc) :
    (s.setRegIn b r v).regIn b' r' = if regIndex b r = regIndex b' r' then v else s.regIn b' r' := by
  simp only [State.regIn, State.setRegIn, if_neg h, if_neg h', Fin.getElem_fin, Vector.getElem_set, Fin.val_inj]

/-- A mode change moves no register: a register of the new mode is that of its bank. -/
theorem State.reg_withCpsr (s : State) (w : Word) {r : Reg} (h : r ≠ regPc) :
    { s with cpsr := w }.reg r = s.regIn (bankOf (w.extractLsb' 0 5)) r := by
  simp [State.reg, State.regIn, State.bank, State.mode, h]

theorem State.readSpsr_of_index {s : State} {k : Fin 5} (h : spsrIndex s.bank = some k) : s.readSpsr = s.spsr[k] := by
  simp [State.readSpsr, h]

theorem spsrIndex_eq_none_iff (b : Bank) : spsrIndex b = none ↔ b = .usr := by cases b <;> decide

theorem spsrIndex_injective {b b' : Bank} (h : spsrIndex b = spsrIndex b') : b = b' := by
  revert h
  cases b <;> cases b' <;> decide

/-- Settles O8: two names select one physical register exactly where the banks share it. -/
theorem bankedRegisters : Obligations.BankedRegisters := by
  refine ⟨by decide, fun s b b' r r' v h h' => ?_, fun s b h => ?_, fun b b' => ⟨spsrIndex_eq_none_iff b, spsrIndex_injective⟩,
    fun s w r h => ⟨s.reg_withCpsr w h, fun k hk => State.readSpsr_of_index (s := { s with cpsr := w }) hk⟩⟩
  · rw [s.regIn_setRegIn_banks b b' v h h']
    exact if_congr (regIndex_eq_iff b b' h h') rfl rfl
  · rw [State.regIn, if_pos rfl, State.pcOffset_running h]

end Sys2Proof.Machine
end

section
/-!
What goes to the pc: data-processing results (O15) and exchanges (O20).
-/
namespace Sys2Proof.Machine

/-! ### Data-processing results (spec/40 R500) -/

variable {s : State}

/-- A check that is met. -/
theorem require_pass {ok : Bool} {r : Refusal} {k : Outcome State} (h : ok = true) : require ok r k = k := if_pos h

/-- A two-operand instruction that runs writes the ALU's result. -/
theorem dataOp_eq {c sf rn rd op f} (hc : s.passes c = true) (ho : op2Allowed op rn rd = true) :
    dataOp c sf rn rd op f s = writeResult sf rd (aluResult f (s.reg rn) op s) s := by
  rw [dataOp, whenCond_pass hc, require_pass ho]

/-- So does a move that runs. -/
theorem moveOp_eq {c sf z rd op f} (hc : s.passes c = true) (hz : (z == 0#4) = true) (ho : op2Allowed op 0#4 rd = true) :
    moveOp c sf z rd op f s = writeResult sf rd (aluResult (logicalAlu fun _ m => f m) 0#32 op s) s := by
  rw [moveOp, whenCond_pass hc, require_pass hz, require_pass ho]

theorem addAlu_result (a b : Word) : (addAlu a b false).result = a + b := BitVec.add_zero _

theorem subAlu_result (a b : Word) : (subAlu a b false).result = a - b := BitVec.sub_zero _

theorem addAlu_carry_result (a b : Word) (k : Bool) :
    (addAlu a b k).result = a + b + (if k then 1#32 else 0#32) := by cases k <;> rfl

theorem subAlu_borrow_result (a b : Word) (k : Bool) :
    (subAlu a b (!k)).result = a - b - (if k then 0#32 else 1#32) := by cases k <;> rfl

/-- A data-processing instruction that runs writes the result that `dataResult` states, with the flags of some ALU operation. -/
theorem exec_data {i : Instr} {f : Bool} {rd : Reg} {v : Word} (hd : dataResult s i = some (f, rd, v))
    (hr : s.runs i = true) : ∃ a : Alu, a.result = v ∧ exec i s = writeResult f rd a s := by
  obtain ⟨hc, hz, ho⟩ := runs_iff.mp hr
  cases i
  case and | eor | orr | bic =>
    cases hd
    exact ⟨_, rfl, dataOp_eq hc ho⟩
  case sub | rsb =>
    cases hd
    exact ⟨_, subAlu_result _ _, dataOp_eq hc ho⟩
  case add =>
    cases hd
    exact ⟨_, addAlu_result _ _, dataOp_eq hc ho⟩
  case adc =>
    cases hd
    exact ⟨_, addAlu_carry_result _ _ _, dataOp_eq hc ho⟩
  case sbc | rsc =>
    cases hd
    exact ⟨_, subAlu_borrow_result _ _ _, dataOp_eq hc ho⟩
  case mov | mvn =>
    cases hd
    exact ⟨_, rfl, moveOp_eq hc hz ho⟩
  all_goals cases hd

/-! ### What goes to the pc (spec/10 R37, R38; spec/60 R875) -/

theorem lowBits_eq_zero_iff (v : Word) : v.extractLsb' 0 2 = 0#2 ↔ v.toNat % 4 = 0 := by
  rw [← BitVec.toNat_inj]
  simp

theorem aluWritePc_aligned {v : Word} (h : v.toNat % 4 = 0) : aluWritePc v s = .next (s.branchTo v) :=
  if_pos ((lowBits_eq_zero_iff v).mpr h)

theorem aluWritePc_misaligned {v : Word} (h : v.toNat % 4 ≠ 0) : aluWritePc v s = .refused .pcMisaligned :=
  if_neg fun e => h ((lowBits_eq_zero_iff v).mp e)

theorem hasSpsr_eq_false_iff : s.hasSpsr = false ↔ spsrIndex s.bank = none := by
  simp [State.hasSpsr]

theorem exceptionReturn_of_noSpsr (v : Word) (h : s.hasSpsr = false) : exceptionReturn v s = .refused .noSpsr := by
  rw [exceptionReturn, hasSpsr_eq_false_iff.mp h]

/-- With an SPSR an exception return restores it, if it holds a legal mode. -/
theorem exceptionReturn_of_hasSpsr (v : Word) (h : s.hasSpsr = true) :
    exceptionReturn v s =
      if legalMode (s.readSpsr.extractLsb' 0 5) then
        .next ({ s with cpsr := s.readSpsr }.branchTo
          (v &&& (if s.readSpsr.getLsbD 5 then 0xFFFFFFFE#32 else 0xFFFFFFFC#32)))
      else .refused .illegalMode := by
  obtain ⟨k, hk⟩ := Option.isSome_iff_exists.mp h
  rw [exceptionReturn, hk, State.readSpsr_of_index hk]

/-- Settles O15: a result for r15 goes through `aluWritePc`, and with S through `exceptionReturn`. -/
theorem resultsToPc : Obligations.ResultsToPc := by
  intro i s f v hd hr
  obtain ⟨a, rfl, he⟩ := exec_data hd hr
  rw [he, writeResult, if_pos rfl]
  refine ⟨?_, ?_, ?_, ?_, ?_⟩
  · rintro rfl h
    exact aluWritePc_aligned h
  · rintro rfl h
    exact aluWritePc_misaligned h
  · rintro rfl h
    exact exceptionReturn_of_noSpsr _ h
  · rintro rfl h illegal
    exact (exceptionReturn_of_hasSpsr _ h).trans (if_neg (by simp [illegal]))
  · rintro rfl h legal
    exact (exceptionReturn_of_hasSpsr _ h).trans (if_pos legal)

/-! ### Exchanges (spec/10 R37, R38) -/

theorem clearBit0_of_even {v : Word} (h : v.getLsbD 0 = false) : v &&& 0xFFFFFFFE#32 = v := by
  have h0 : v[0] = false := h
  apply BitVec.eq_of_getLsbD_eq
  intro i hi
  interval_cases i <;> simp [h0]

theorem clearBit0_of_odd {v : Word} (h : v.getLsbD 0 = true) : v &&& 0xFFFFFFFE#32 = v - 1#32 := by
  have h0 : v[0] = true := h
  have bits : (v &&& 0xFFFFFFFE#32) + 1#32 = v := by
    rw [BitVec.add_eq_or_of_and_eq_zero _ _ (by rw [BitVec.and_assoc]; simp)]
    apply BitVec.eq_of_getLsbD_eq
    intro i hi
    interval_cases i <;> simp [h0]
  exact BitVec.eq_sub_iff_add_eq.mpr bits

/-- An exchange goes to Thumb state on an odd value, to ARM state on a word address, and nowhere else. -/
theorem exchangeTo_eq (v : Word) (s : State) :
    exchangeTo v s = if v.getLsbD 0 = true then .next ((s.setThumb true).branchTo (v - 1#32))
      else if v.toNat % 4 = 0 then .next ((s.setThumb false).branchTo v) else .refused .pcMisaligned := by
  have two : v.extractLsb' 0 2 = 2#2 ↔ v.toNat % 4 = 2 := by
    rw [← BitVec.toNat_inj]
    simp
  have odd : v.getLsbD 0 = true ↔ v.toNat % 2 = 1 := by
    rw [BitVec.getLsbD, Nat.testBit_zero, decide_eq_true_iff]
  unfold exchangeTo
  by_cases h : v.getLsbD 0 = true
  · rw [if_pos h, if_neg (by rw [two]; rw [odd] at h; omega), h, clearBit0_of_odd h]
  · have h0 : v.getLsbD 0 = false := by simpa using h
    rw [if_neg h, h0, clearBit0_of_even h0]
    rw [odd] at h
    by_cases h4 : v.toNat % 4 = 0
    · rw [if_pos h4, if_neg (by rw [two]; omega)]
    · rw [if_neg h4, if_pos (two.mpr (by omega))]

/-- Settles O20: all four forms are `exchangeTo`, the linking ones after r14 is written. -/
theorem exchangeBranches : Obligations.ExchangeBranches := by
  intro c o1 o2 o3 z rm s
  refine ⟨fun hr => ?_, fun hr => ?_, fun hr => ?_, fun hr => ?_⟩ <;> obtain ⟨hc, hz, ho⟩ := runs_iff.mp hr
  · exact (whenCond_pass hc).trans ((require_pass hz).trans (exchangeTo_eq _ _))
  · exact (whenCond_pass hc).trans ((require_pass hz).trans ((require_pass ho).trans (exchangeTo_eq _ _)))
  · exact (require_pass hz).trans (exchangeTo_eq _ _)
  · exact (require_pass hz).trans ((require_pass ho).trans (exchangeTo_eq _ _))

end Sys2Proof.Machine
end

section
/-!
MRS and MSR of the status registers (O35, O37), and the Thumb forms with a high register or an address (O52).
-/
namespace Sys2Proof.Machine

variable {s : State}

/-! ### The status registers (spec/45 R670-R673) -/

/-- A register write completes the instruction. -/
theorem advance_setReg (h : s.canAdvance = true) (r : Reg) (v : Word) :
    advance (s.setReg r v) = .next (s.setReg r v).moveOn :=
  advance_of_canAdvance ((s.canAdvance_setReg r v).trans h)

/-- Settles O35: in each of the three cases MRS is a register write. -/
theorem statusReads : Obligations.StatusReads := by
  intro c r o z1 z2 rd s hr
  obtain ⟨hc, hz, ho, hn⟩ := ready_iff.mp hr
  refine (whenCond_pass hc).trans ((require_pass hz).trans ((require_pass ho).trans ?_))
  cases r
  · exact advance_setReg hn _ _
  · cases hs : s.hasSpsr
    · exact advance_setReg (s := s.useFree) hn _ _
    · exact advance_setReg hn _ _

/-- The bytes a field mask selects, bit by bit (spec/45 R673). -/
theorem fieldMask_getLsbD (mask : BitVec 4) {n : Nat} (h : n < 32) : (fieldMask mask).getLsbD n = mask.getLsbD (n / 8) := by
  have byte : ∀ (b : Bool) (k : Nat), (if b then 0xFF#8 else 0#8).getLsbD k = (b && decide (k < 8)) := by
    intro b k
    by_cases hk : k < 8
    · cases b <;> interval_cases k <;> rfl
    · rw [BitVec.getLsbD_of_ge _ _ (by omega)]
      simp [hk]
  simp only [fieldMask, BitVec.getLsbD_append, byte]
  interval_cases n <;> simp

/-- What an MSR to an SPSR leaves in it: of the selected bytes every bit but [26:8] is the operand's (spec/45 R673; spec/10 R46). -/
theorem savedWrite_getLsbD (old v : Word) (mask : BitVec 4) {n : Nat} (h : n < 32) :
    (maskedWrite old v (fieldMask mask &&& 0xF80000FF#32)).getLsbD n =
      if mask.getLsbD (n / 8) = true ∧ (n < 8 ∨ 27 ≤ n) then v.getLsbD n else old.getLsbD n := by
  have kept : (0xF80000FF#32).getLsbD n = decide (n < 8 ∨ 27 ≤ n) := by interval_cases n <;> rfl
  rw [maskedWrite_getLsbD, BitVec.getLsbD_and, fieldMask_getLsbD mask h, kept]
  simp only [Bool.and_eq_true, decide_eq_true_eq]

/-- An MSR that names the SPSR and is ready is `msrSpsr` of its operand, in both forms. -/
theorem exec_msrSpsr {c : Cond} {mask o z rot : BitVec 4} {rm : Reg} {imm8 : BitVec 8} {i : Instr} {v : Word}
    (hi : (i = .msrReg c true mask o z rm ∧ v = s.reg rm) ∨
      (i = .msrImm c true mask o rot imm8 ∧ v = (shifterOperand (.imm rot imm8) s).value)) (hr : s.ready i = true) :
    exec i s = msrSpsr mask v s := by
  obtain ⟨hc, hz, ho, -⟩ := ready_iff.mp hr
  obtain ⟨rfl, rfl⟩ | ⟨rfl, rfl⟩ := hi
  · exact (whenCond_pass hc).trans ((require_pass hz).trans (require_pass ho))
  · exact (whenCond_pass hc).trans (require_pass hz)

/-- Settles O37: both forms are `msrSpsr`, which writes the SPSR of the mode or refuses. -/
theorem savedStatusWrites : Obligations.SavedStatusWrites := by
  intro c mask o z rot rm imm8 s i v hi hr
  obtain ⟨-, -, -, hn⟩ := ready_iff.mp hr
  rw [exec_msrSpsr hi hr, msrSpsr]
  refine ⟨fun k hk => ?_, fun hk => by rw [hk]⟩
  rw [hk]
  exact ⟨_, advance_of_canAdvance hn, fun n h => savedWrite_getLsbD _ _ _ h⟩

/-! ### Thumb high registers and addresses (spec/47 R741, R749-R753) -/

theorem thumbHigh_pc (v : Word) (s : State) : thumbHigh regPc v s = .next (s.branchTo (s.alignPc v)) := if_pos rfl

theorem thumbHigh_reg {rd : Reg} (h : rd ≠ regPc) (hn : s.canAdvance = true) (v : Word) :
    thumbHigh rd v s = .next (s.setReg rd v).moveOn :=
  (if_neg h).trans (advance_setReg hn rd v)

/-- An immediate of words as a number of bytes. -/
theorem scaledWord_eq {n : Nat} (imm : BitVec n) (h : n ≤ 30) :
    (imm.zeroExtend 32 <<< 2 : Word) = BitVec.ofNat 32 (4 * imm.toNat) := by
  apply BitVec.eq_of_toNat_eq
  have small := imm.isLt
  have : 2 ^ n ≤ 2 ^ 30 := Nat.pow_le_pow_right (by decide) h
  simp [Nat.shiftLeft_eq]
  omega

/-- An instruction that runs keeps its register restrictions. -/
theorem allowed_of_runs {i : Instr} (hr : s.runs i = true) : operandsAllowed i = true := by
  obtain ⟨-, -, ho⟩ := runs_iff.mp hr
  exact ho

/-- Settles O52: a high-register result is `thumbHigh`, an address form a register write. -/
theorem thumbHighAndAddresses : Obligations.ThumbHighAndAddresses := by
  intro hm hd rd i8 i7 s mask
  refine ⟨fun hr => ?_, fun hr => ?_, fun hn => ⟨fun hr h => ?_, fun hr h => ?_, ?_, ?_, ?_, ?_⟩⟩
  · exact (require_pass (allowed_of_runs hr)).trans (thumbHigh_pc _ s)
  · exact (require_pass (allowed_of_runs hr)).trans (thumbHigh_pc _ s)
  · exact (require_pass (allowed_of_runs hr)).trans (thumbHigh_reg h hn _)
  · exact (require_pass (allowed_of_runs hr)).trans (thumbHigh_reg h hn _)
  all_goals
    rw [← scaledWord_eq _ (by decide)]
    exact advance_setReg hn _ _

end Sys2Proof.Machine
end

section
/-!
SUPPORT. A step at an instruction boundary where nothing else is due: what is fetched, what waits, and what follows the
instruction (spec/22 R373-R376; spec/23 R392, R410; spec/60 R867).
-/
namespace Sys2Proof.Machine

variable {s t : State}

/-! ### Exception entry (spec/60 R860) -/

theorem takeException_cp15 (e : Exc) (link : Word) (s : State) : (takeException e link s).cp15 = s.cp15 := by
  simp [takeException]

theorem takeException_prefetch (e : Exc) (link : Word) (s : State) : (takeException e link s).prefetch = [] := rfl

theorem takeException_mode (e : Exc) (link : Word) (s : State) : (takeException e link s).mode = e.mode := by
  rw [State.mode, takeException_cpsr, entryCpsr_mode]

theorem takeException_regs (e : Exc) (link : Word) (s : State) :
    (takeException e link s).regs = s.regs.set (regIndex (bankOf e.mode) regLr) link := by
  simp only [takeException, State.setSpsrIn_regs]
  rfl

/-- r14 of the mode entered is the link. -/
theorem takeException_link (e : Exc) (link : Word) (s : State) :
    (takeException e link s).regIn (bankOf e.mode) regLr = link := by
  rw [State.regIn, if_neg (by decide)]
  simp only [takeException_regs, Fin.getElem_fin, Vector.getElem_set_self]

/-- Every other register keeps its value. -/
theorem takeException_regs_ne (e : Exc) (link : Word) (s : State) {k : Fin 30} (h : k ≠ regIndex (bankOf e.mode) regLr) :
    (takeException e link s).regs[k] = s.regs[k] := by
  have h' : (regIndex (bankOf e.mode) regLr).val ≠ k.val := fun x => h (Fin.ext x.symm)
  simp only [takeException_regs, Fin.getElem_fin, Vector.getElem_set_ne _ _ h']

/-- The SPSR of the mode entered is the old CPSR. -/
theorem takeException_saved {e : Exc} {k : Fin 5} (link : Word) (s : State) (h : spsrIndex (bankOf e.mode) = some k) :
    (takeException e link s).spsr[k] = s.cpsr := by
  simp only [takeException_spsr, State.setSpsrIn, h, Fin.getElem_fin, Vector.getElem_set_self]

/-! ### The debug unit and interrupts at rest -/

/-- What `quiet` says. -/
theorem quiet_iff : s.quiet = true ↔ s.inputs = [] ∧ s.inReset = false ∧ s.pm.pending = none ∧ s.run = .running ∧
    s.debugEnabled = false ∧ s.halted = false ∧ fiqPending s = false ∧ irqPending s = false := by
  simp [State.quiet, State.noDebug, and_assoc]

/-- At a quiet boundary a step fetches and runs one instruction. -/
theorem step_of_quiet (h : s.quiet = true) : step s = runInstruction s := by
  obtain ⟨hin, hreset, hpend, hrun, hdbg, hhalt, hfiq, hirq⟩ := quiet_iff.mp h
  have noRequest : debugRequest s = false := by rw [debugRequest, hdbg]; rfl
  calc step s = processorStep s := by rw [step, stepBody, hin]
    _ = stepByRun s := by rw [processorStep, hreset, if_neg Bool.false_ne_true, hpend]
    _ = boundary s := by rw [stepByRun, hrun, hhalt]
    _ = runInstruction s := by
      rw [boundary, noRequest, if_neg Bool.false_ne_true, interruptOr, hfiq, if_neg Bool.false_ne_true, hirq,
        if_neg Bool.false_ne_true]

theorem MemSide.debugEnabled (h : MemSide s t) : t.debugEnabled = s.debugEnabled := by
  rw [State.debugEnabled, State.debugEnabled, h.pins, h.dscr]

theorem MemSide.vectorBase (h : MemSide s t) : vectorBase t = vectorBase s := by
  rw [Machine.vectorBase, Machine.vectorBase, State.highVectors, State.highVectors, State.ctlBit, State.ctlBit, h.cp15]

/-- With both masters granted nothing waits for the bus. -/
theorem granted_of_pins (hi : s.pins.hgranti = true) (hd : s.pins.hgrantd = true) (t : State) : granted s t = true := by
  rw [granted, hi, hd]
  rfl

/-! ### The next instruction (spec/22 R373) -/

theorem fetchEntry_of_got {prev : Option Prefetched} {pc : Word} {thumb : Bool} {f : Fetched}
    (h : fetch pc thumb s.priv s = .got f t) : fetchEntry prev pc thumb s = .ok (entryFor prev pc thumb f s, t) := by
  rw [fetchEntry, h]

/-- With an empty buffer the next instruction is fetched. -/
theorem nextInstruction_of_empty {f : Fetched} (he : s.prefetch = []) (h : fetch s.pc s.thumb s.priv s = .got f t) :
    nextInstruction s = .ok (entryFor none s.pc s.thumb f s, t) := by
  rw [nextInstruction, he]
  exact fetchEntry_of_got h

theorem fetchEntry_memSide {prev pc thumb p} (h : fetchEntry prev pc thumb s = .ok (p, t)) : MemSide s t := by
  unfold fetchEntry at h
  split at h
  next hf =>
    cases h
    exact (fetch_readSide _ _ _ _ _ _ hf).toMemSide
  next => cases h

/-- All that coming to the next instruction can change: the prefetch buffer and the memory side. -/
theorem nextInstruction_memSide {p} (h : nextInstruction s = .ok (p, t)) :
    ∃ l, MemSide { s with prefetch := l } t := by
  unfold nextInstruction at h
  split at h
  next rest _ =>
    split at h
    · cases h
      exact ⟨rest, MemSide.refl _⟩
    · exact ⟨[], fetchEntry_memSide h⟩
  next => exact ⟨s.prefetch, fetchEntry_memSide h⟩

/-! ### The Prefetch Abort of a fetch (spec/60 R867) -/

theorem prefetchAbort_ifsr (status : BitVec 4) (s : State) :
    (prefetchAbort status s).cp15.ifsr.extractLsb' 0 4 = status := by
  rw [prefetchAbort, takeException_cp15]
  exact BitVec.extractLsb'_append_eq_right

theorem prefetchAbort_dfsr (status : BitVec 4) (s : State) : (prefetchAbort status s).cp15.dfsr = s.cp15.dfsr := by
  rw [prefetchAbort, takeException_cp15]

theorem prefetchAbort_dfar (status : BitVec 4) (s : State) : (prefetchAbort status s).cp15.dfar = s.cp15.dfar := by
  rw [prefetchAbort, takeException_cp15]

/-! ### Running the instruction fetched -/

/-- An instruction that is not caught is issued. -/
theorem runFetched_issue {p : Prefetched} {w : Word} (hw : p.what = .word w) (hb : p.breakpoint = false)
    (hd : s.debugEnabled = false) : runFetched p s = issue p (decode (fetchedCode s.thumb w)) s := by
  have notCaught : vectorCaught s = false := by rw [vectorCaught, hd]; rfl
  simp only [runFetched, hw, hb, notCaught, Bool.false_eq_true, if_false]

theorem issue_of_busy {p : Prefetched} {i : Instr} (h : busyWaits i s = true) : issue p i s = .next (hold p s) := if_pos h

theorem issue_of_ready {p : Prefetched} {i : Instr} (h : busyWaits i s = false) (hl : lookAhead p i s = .ok t) :
    issue p i s = if granted s t then runCode p i t else .next (hold p s) := by
  rw [issue, h, if_neg Bool.false_ne_true, hl]

/-- What `runCode` makes of the answer of `exec`. -/
theorem runCode_eq (p : Prefetched) (i : Instr) (s : State) :
    runCode p i s = match exec i (caughtHere s) with
      | .next t => .next (if granted s t then settle (resolve p.prediction s.prefetch t) else hold p s)
      | .fault f => .fault f
      | .refused r => .refused r := by
  unfold runCode
  cases exec i (caughtHere s) with
  | next t => exact (apply_ite Host.Outcome.next _ _ _).symm
  | fault f => rfl
  | refused r => rfl

/-! ### What follows an instruction (spec/22 R352, R360) -/

theorem settle_of_noWatch (h : t.dbg.watch = none) :
    settle t = if t.pins.hgrantd then drainAll { t with hum := none } else { t with hum := none } := by
  rw [settle, settleWatch, h]
  rfl

/-- With nothing buffered there is nothing to drain. -/
theorem drainAll_of_empty (hw : t.wbuf = []) (hc : t.castout = none) : drainAll t = t := by
  have e : drainThroughCastout t = t := by rw [drainThroughCastout, hc]
  have w : ({ t with wbuf := [] } : State) = t := by rw [← hw]
  rw [drainAll, e]
  simp only [hw, List.foldl_nil, w]

theorem settle_of_empty (h : t.dbg.watch = none) (hw : t.wbuf = []) (hc : t.castout = none) :
    settle t = { t with hum := none } := by
  rw [settle_of_noWatch h, drainAll_of_empty (t := { t with hum := none }) hw hc, ite_self]

end Sys2Proof.Machine
end

section
/-!
SUPPORT. What a fetch answers (spec/20 R213; spec/22 R323, R330): the place a translation gives, the words of a line read from
memory, and the instruction bits of a word.
-/
namespace Sys2Proof.Machine

variable {s u : State}

/-! ### Addresses -/

theorem toNat_clearLow5 (x : Word) : (x &&& 0xFFFFFFE0#32).toNat = x.toNat / 32 * 32 := by
  have e : x &&& 0xFFFFFFE0#32 = (x >>> 5) <<< 5 := by
    apply BitVec.eq_of_getLsbD_eq
    intro i hi
    interval_cases i <;> simp
  rw [e, BitVec.toNat_shiftLeft, BitVec.toNat_ushiftRight, Nat.shiftRight_eq_div_pow, Nat.shiftLeft_eq]
  omega

theorem toNat_alignWord (x : Word) : (alignDown .word x).toNat = x.toNat / 4 * 4 := by
  have e : alignDown .word x = (x >>> 2) <<< 2 := by
    apply BitVec.eq_of_getLsbD_eq
    intro i hi
    interval_cases i <;> simp [alignDown]
  rw [e, BitVec.toNat_shiftLeft, BitVec.toNat_ushiftRight, Nat.shiftRight_eq_div_pow, Nat.shiftLeft_eq]
  omega

theorem toNat_wordOf (x : Word) : (wordOf x).toNat = x.toNat / 4 % 8 := by
  simp [wordOf, Nat.shiftRight_eq_div_pow]

/-- A word of a line lies four times its number behind the line's address. -/
theorem alignWord_of_line {x pa : Word} (h : x.toNat / 32 = pa.toNat / 32) :
    (pa &&& 0xFFFFFFE0#32) + BitVec.ofNat 32 (4 * (wordOf x).toNat) = alignDown .word x := by
  apply BitVec.eq_of_toNat_eq
  rw [BitVec.toNat_add, BitVec.toNat_ofNat, toNat_clearLow5, toNat_alignWord, toNat_wordOf]
  have := x.isLt
  omega

/-- A translation leaves the bits within the smallest page alone (spec/21 R252, R253). -/
theorem physical_low (e : TlbEntry) (mva : Word) {i : Nat} (h : i < 10) : (e.physical mva).getLsbD i = mva.getLsbD i := by
  unfold TlbEntry.physical
  split
  · have := BitVec.getLsbD_append (x := Config.unlistedPage ‹_› e.pa (mva.extractLsb' 10 22)) (y := mva.extractLsb' 0 10)
      (i := i)
    refine this.trans ?_
    simp [h]
  · dsimp only
    cases e.size <;> interval_cases i <;> simp [PageSize.bits]

theorem translate_low {side : Side} {mva pa : Word} {write priv c b : Bool}
    (ht : translate side mva write priv s = (.ok pa c b, u)) {i : Nat} (h : i < 10) : pa.getLsbD i = mva.getLsbD i := by
  have checked : ∀ (v : State) (e : TlbEntry), checkEntry v e mva write priv = .ok pa c b → pa.getLsbD i = mva.getLsbD i := by
    intro v e hc
    unfold checkEntry at hc
    split at hc
    · cases hc
    · split at hc
      · cases hc
        exact physical_low e mva h
      · cases hc
  unfold translate at ht
  split at ht
  · exact checked _ _ (congrArg Prod.fst ht)
  · cases congrArg Prod.fst ht
  · split at ht
    · cases congrArg Prod.fst ht
    · split at ht
      · cases congrArg Prod.fst ht
      · exact checked _ _ (congrArg Prod.fst ht)

/-! ### The words of a line (spec/23 R395) -/

/-- The doubleword of a beat, read from plain memory. -/
theorem busReadPair_words {m : BusMaster} {pa : Word} {prot : BitVec 4} (hm : s.memMap = []) (hi : s.intruders = []) :
    ∃ bus, busReadPair m pa prot s =
      (physRead s.mem false .word pa, physRead s.mem false .word (pa + 4#32), { s with bus := bus }) := by
  unfold busReadPair
  simp only [hm, kindAt, List.find?]
  rw [record_alone hi, ← hm]
  exact ⟨_, rfl⟩

/-- One beat of a linefill puts the two words of its doubleword. -/
theorem fillBeat_words {m : BusMaster} {line : Word} {prot : BitVec 4} {acc : Vector Word 8} {k : BitVec 2}
    (hm : s.memMap = []) (hi : s.intruders = []) :
    ∃ v bus, fillBeat m line prot (acc, s) k = (v, { s with bus := bus }) ∧ ∀ j (hj : j < 8), v[j] =
      if j / 2 = k.toNat then physRead s.mem false .word (line + BitVec.ofNat 32 (4 * j)) else acc[j] := by
  obtain ⟨bus, e⟩ := busReadPair_words (m := m) (pa := line + (k.zeroExtend 32 <<< 3)) (prot := prot) hm hi
  refine ⟨_, bus, by rw [fillBeat, e], fun j hj => ?_⟩
  have hk := k.isLt
  have lo : line + (k.zeroExtend 32 <<< 3) = line + BitVec.ofNat 32 (4 * (2 * k.toNat)) := by
    congr 1
    apply BitVec.eq_of_toNat_eq
    simp [Nat.shiftLeft_eq]
    omega
  have hi : line + (k.zeroExtend 32 <<< 3) + 4#32 = line + BitVec.ofNat 32 (4 * (2 * k.toNat + 1)) := by
    rw [lo, BitVec.add_assoc]
    congr 1
    apply BitVec.eq_of_toNat_eq
    simp
    omega
  rw [Vector.getElem_setIfInBounds, Vector.getElem_setIfInBounds]
  by_cases h1 : 2 * k.toNat + 1 = j
  · rw [if_pos h1, if_pos (by omega), hi, h1]
  · rw [if_neg h1]
    by_cases h0 : 2 * k.toNat = j
    · rw [if_pos h0, if_pos (by omega), lo, h0]
    · rw [if_neg h0, if_neg (by omega)]

/-- Beats one after the other: the words of the doublewords they name are memory's. -/
theorem fillBeats_words {m : BusMaster} {line : Word} {prot : BitVec 4} (ks : List (BitVec 2)) (acc : Vector Word 8)
    (hm : s.memMap = []) (hi : s.intruders = []) :
    ∃ v bus, ks.foldl (fillBeat m line prot) (acc, s) = (v, { s with bus := bus }) ∧ ∀ j (hj : j < 8), v[j] =
      if BitVec.ofNat 2 (j / 2) ∈ ks then physRead s.mem false .word (line + BitVec.ofNat 32 (4 * j)) else acc[j] := by
  induction ks generalizing acc s with
  | nil => exact ⟨acc, s.bus, rfl, fun j hj => by simp⟩
  | cons k ks ih =>
    obtain ⟨v, bus, e, hv⟩ := fillBeat_words (m := m) (line := line) (prot := prot) (acc := acc) (k := k) hm hi
    obtain ⟨v', bus', e', hv'⟩ := ih (s := { s with bus := bus }) v hm hi
    refine ⟨v', bus', by rw [List.foldl_cons, e, e'], fun j hj => ?_⟩
    have same : BitVec.ofNat 2 (j / 2) = k ↔ j / 2 = k.toNat := by
      rw [← BitVec.toNat_inj, BitVec.toNat_ofNat, Nat.mod_eq_of_lt (by omega)]
    rw [hv' j hj, hv j hj]
    simp only [List.mem_cons, same]
    by_cases h1 : j / 2 = k.toNat <;> by_cases h2 : BitVec.ofNat 2 (j / 2) ∈ ks <;> simp [h1, h2]

/-- The four beats of a linefill, in whatever order they wrap, name every doubleword of the line. -/
theorem beats_cover (k : BitVec 2) (j : Nat) (h : j < 8) :
    BitVec.ofNat 2 (j / 2) ∈ [k, k + 1#2, k + 2#2, k + 3#2] := by
  revert k
  interval_cases j <;> decide

theorem readLine_words {m : BusMaster} {pa : Word} {prot : BitVec 4} (hm : s.memMap = []) (hi : s.intruders = [])
    (j : Nat) (hj : j < 8) : (readLine m pa prot s).1[j] =
      physRead s.mem false .word ((pa &&& 0xFFFFFFE0#32) + BitVec.ofNat 32 (4 * j)) := by
  obtain ⟨v, bus, e, hv⟩ := fillBeats_words (m := m) (line := pa &&& 0xFFFFFFE0#32) (prot := prot)
    [pa.extractLsb' 3 2, pa.extractLsb' 3 2 + 1#2, pa.extractLsb' 3 2 + 2#2, pa.extractLsb' 3 2 + 3#2]
    (Vector.replicate 8 0#32) hm hi
  have e' : (readLine m pa prot s).1 = v := congrArg Prod.fst e
  simp only [e', hv j hj, beats_cover _ j hj, if_true]

/-- The words of a line that a linefill reads from memory (spec/22 R323, R330). -/
theorem instrFill_word {mva pa x : Word} {priv b : Bool} (hm : s.memMap = []) (hi : s.intruders = [])
    (hx : x.toNat / 32 = pa.toNat / 32) : (instrFill mva pa priv b s).1.word x = physRead s.mem false .word x := by
  rw [← physRead_alignDown, ← alignWord_of_line hx]
  exact readLine_words hm hi _ (wordOf x).isLt

/-! ### The instruction bits of a word (spec/20 R204) -/

/-- Where a halfword stands in its word. -/
theorem halfShift_eq (big : Bool) (a : Word) :
    8 * ((laneAddr big .half a) &&& 2#32).toNat = if a.getLsbD 1 = big then 0 else 16 := by
  have bit : ∀ x : Word, (x &&& 2#32).toNat = if x.getLsbD 1 then 2 else 0 := by
    intro x
    have e : x &&& 2#32 = if x.getLsbD 1 then 2#32 else 0#32 := by
      apply BitVec.eq_of_getLsbD_eq
      intro i hi
      cases h : x.getLsbD 1 <;> interval_cases i <;> simp_all
    rw [e]
    split <;> rfl
  rw [bit]
  cases big <;> cases h : a.getLsbD 1 <;> simp_all [laneAddr, alignDown]

theorem instrBits_eq (big thumb : Bool) (w a : Word) : instrBits big thumb w a =
    if thumb then (w >>> (if a.getLsbD 1 = big then 0 else 16)) &&& 0xFFFF#32 else w := by
  rw [instrBits, pick, halfShift_eq]

/-- The address of a halfword, within the word it is in. -/
theorem toNat_laneHalf (big : Bool) (a : Word) :
    (laneAddr big .half a).toNat = (alignDown .word a).toNat + if a.getLsbD 1 = big then 0 else 2 := by
  have e : laneAddr big .half a = alignDown .word a ||| (if a.getLsbD 1 = big then 0#32 else 2#32) := by
    apply BitVec.eq_of_getLsbD_eq
    intro i hi
    cases big <;> cases h : a.getLsbD 1 <;> interval_cases i <;> simp_all [laneAddr, alignDown]
  have disjoint : alignDown .word a &&& (if a.getLsbD 1 = big then 0#32 else 2#32) = 0#32 := by
    rw [alignDown, BitVec.and_assoc]
    split <;> simp
  have room := toNat_alignWord a
  have := a.isLt
  rw [e, ← BitVec.add_eq_or_of_and_eq_zero _ _ disjoint, BitVec.toNat_add]
  split <;> simp <;> omega

/-- The bits of a word made of four bytes. -/
theorem getLsbD_fourBytes (b3 b2 b1 b0 : Byte) (i : Nat) : (b3 ++ b2 ++ b1 ++ b0 : Word).getLsbD i =
    if i < 8 then b0.getLsbD i else if i < 16 then b1.getLsbD (i - 8) else if i < 24 then b2.getLsbD (i - 16)
    else b3.getLsbD (i - 24) := by
  have e : (b3 ++ b2 ++ b1 ++ b0).getLsbD i = _ := BitVec.getLsbD_append
  refine (show _ = _ from e).trans ?_
  rw [BitVec.getLsbD_append, BitVec.getLsbD_append, show i - 8 - 8 = i - 16 by omega, show i - 16 - 8 = i - 24 by omega]
  exact if_congr Iff.rfl rfl (if_congr (by omega) rfl (if_congr (by omega) rfl rfl))

/-- The lower halfword of four bytes. -/
theorem low_halfword (b3 b2 b1 b0 : Byte) :
    ((b3 ++ b2 ++ b1 ++ b0 : Word) >>> 0) &&& 0xFFFF#32 = (b1 ++ b0 : BitVec 16).zeroExtend 32 := by
  apply BitVec.eq_of_getLsbD_eq
  intro i hi
  have h : (b1 ++ b0 : BitVec 16).getLsbD i = _ := BitVec.getLsbD_append
  rw [BitVec.getLsbD_and, BitVec.getLsbD_ushiftRight, getLsbD_fourBytes, BitVec.getLsbD_setWidth, h]
  interval_cases i <;> simp

theorem high_halfword (b3 b2 b1 b0 : Byte) :
    ((b3 ++ b2 ++ b1 ++ b0 : Word) >>> 16) &&& 0xFFFF#32 = (b3 ++ b2 : BitVec 16).zeroExtend 32 := by
  apply BitVec.eq_of_getLsbD_eq
  intro i hi
  have h : (b3 ++ b2 : BitVec 16).getLsbD i = _ := BitVec.getLsbD_append
  rw [BitVec.getLsbD_and, BitVec.getLsbD_ushiftRight, getLsbD_fourBytes, BitVec.getLsbD_setWidth, h]
  interval_cases i <;> simp

/-- The instruction bits of a word in memory are the halfword, or the word, in memory. -/
theorem instrBits_physRead (m : List Host.Cell) (big thumb : Bool) (a : Word) :
    instrBits big thumb (physRead m false .word a) a = physRead m big (if thumb then .half else .word) a := by
  rw [instrBits_eq]
  cases thumb
  · cases big <;> rfl
  · simp only [if_true, physRead, toNat_laneHalf, show laneAddr false .word a = alignDown .word a from rfl]
    by_cases h : a.getLsbD 1 = big
    · simp only [if_pos h]
      exact low_halfword _ _ _ _
    · simp only [if_neg h]
      exact high_halfword _ _ _ _

end Sys2Proof.Machine
end

section
/-!
What a fetch answers, and what a step makes of it (O4; spec/20 R213; spec/22 R323, R330, R373-R376; spec/60 R867).
-/
namespace Sys2Proof.Machine

variable {s u : State}

/-! ### A fetch after its translation -/

theorem instrCachable_running (h : s.halted = false) (c : Bool) :
    instrCachable s c = (s.icacheOn && (!s.mmuOn || c)) := by
  rw [instrCachable, h, if_neg Bool.false_ne_true]

/-- A noncachable fetch from memory: one read, recorded. -/
theorem fetchRead_memory {thumb : Bool} {pa : Word} {prot : BitVec 4} (hi : s.intruders = [])
    (hk : kindAt s.memMap pa.toNat = .ram ∨ kindAt s.memMap pa.toNat = .rom) :
    ∃ r, fetchRead thumb pa prot s =
      (some (physRead s.mem s.big (if thumb then .half else .word) pa), { s with bus := r :: s.bus }) ∧
      r.master = .ibiu ∧ r.write = false := by
  unfold fetchRead
  obtain hk | hk := hk <;> simp only [hk, State.record_quiet hi] <;> exact ⟨_, rfl, rfl, rfl⟩

theorem fetchRead_error {thumb : Bool} {pa : Word} {prot : BitVec 4} (hi : s.intruders = [])
    (hk : kindAt s.memMap pa.toNat = .error) :
    ∃ r, fetchRead thumb pa prot s = (none, { s with bus := r :: s.bus }) := by
  unfold fetchRead
  simp only [hk, State.record_quiet hi]
  exact ⟨_, rfl⟩

/-- What a fetch of the instruction at `a` answers, `u` the state its translation left and `mva` the address the ICache is
looked up with (spec/20 R213; spec/22 R323, R330): clause (4) of O4, for whatever translation came before. -/
def FetchAnswers (answer : FetchRes) (mva : Word) (thumb : Bool) (a : Word) (cachable : Bool) (u : State) : Prop :=
  let code := physRead u.mem u.big (if thumb then .half else .word) a
  (cachable = false → u.intruders = [] →
    (kindAt u.memMap a.toNat = .ram ∨ kindAt u.memMap a.toNat = .rom →
      ∃ r, answer = .got (.word code) { u with bus := r :: u.bus } ∧ r.master = .ibiu ∧ r.write = false) ∧
    (kindAt u.memMap a.toNat = .error → ∃ r, answer = .got (.abort 10#4) { u with bus := r :: u.bus })) ∧
  (cachable = true →
    (∀ k l, u.icache.lookup mva = some (k, l) → answer = .got (.word (if thumb then
      (l.word mva >>> (if mva.getLsbD 1 = u.big then 0 else 16)) &&& 0xFFFF#32 else l.word mva)) u) ∧
    (u.icache.lookup mva = none → u.memMap = [] → u.intruders = [] →
      ∃ t l, answer = .got (.word code) t ∧
        t = { u with icache := t.icache, bus := t.bus, freeCount := t.freeCount } ∧
        u.icache.filledWith t.icache u.roundRobin mva l ∧
        ∀ x : Word, x.toNat / 32 = a.toNat / 32 → l.word x = physRead u.mem false .word x))

/-- Addresses with the same low bits name the same word of a line and the same bits of it. -/
theorem wordOf_congr {a mva : Word} (h : ∀ i, i < 10 → a.getLsbD i = mva.getLsbD i) : wordOf a = wordOf mva := by
  apply BitVec.eq_of_getLsbD_eq
  intro i hi
  simp only [wordOf, BitVec.getLsbD_extractLsb', h (2 + i) (by omega)]

theorem instrBits_congr {a mva : Word} (h : ∀ i, i < 10 → a.getLsbD i = mva.getLsbD i) (big thumb : Bool) (w : Word) :
    instrBits big thumb w mva = instrBits big thumb w a := by
  rw [instrBits_eq, instrBits_eq, h 1 (by decide)]

/-- The instruction that a linefill brings is the one in memory. -/
theorem instrFill_code {mva a : Word} {priv b : Bool} (thumb : Bool) (hm : u.memMap = []) (hi : u.intruders = [])
    (h : ∀ i, i < 10 → a.getLsbD i = mva.getLsbD i) :
    instrBits u.big thumb ((instrFill mva a priv b u).1.word mva) mva =
      physRead u.mem u.big (if thumb then .half else .word) a := by
  have same : (instrFill mva a priv b u).1.word mva = (instrFill mva a priv b u).1.word a := by
    simp only [CacheLine.word, wordOf_congr h]
  rw [same, instrFill_word hm hi rfl, instrBits_congr h, instrBits_physRead]

theorem fetchAt_answers {mva a : Word} {c b thumb priv : Bool} (hl : ∀ i, i < 10 → a.getLsbD i = mva.getLsbD i) :
    FetchAnswers (fetchAt mva a c b thumb priv u) mva thumb a (instrCachable u c) u := by
  refine ⟨fun hc hi => ⟨fun hk => ?_, fun hk => ?_⟩, fun hc => ⟨fun k l hit => ?_, fun miss hm hi => ?_⟩⟩
  · obtain ⟨r, e, hmaster, hwrite⟩ := fetchRead_memory (thumb := thumb)
      (prot := hprot false priv (instrBufferable u b) false) hi hk
    exact ⟨r, by rw [fetchAt, hc]; simp only [e], hmaster, hwrite⟩
  · obtain ⟨r, e⟩ := fetchRead_error (thumb := thumb) (prot := hprot false priv (instrBufferable u b) false) hi hk
    exact ⟨r, by rw [fetchAt, hc]; simp only [e]⟩
  · rw [fetchAt, hc]
    simp only [hit, instrBits_eq]
  · obtain ⟨state, filled⟩ := instrFill_alone (pa := a) (priv := priv) (b := instrBufferable u b) hm hi miss
    refine ⟨_, _, ?_, ?_, filled, fun x hx => instrFill_word hm hi hx⟩
    · rw [fetchAt, hc]
      simp only [miss, instrFill_code thumb hm hi hl]
    · exact state.trans (by rw [state])

/-! ### A fetch (spec/20 R213) -/

theorem fetch_of_mmuOff {va : Word} {thumb priv : Bool} (h : s.mmuOn = false) :
    fetch va thumb priv s =
      fetchAt (relocate s.cp15.pid va) (relocate s.cp15.pid va) s.icacheOn false thumb priv s := by
  simp only [fetch, h]

theorem fetch_of_translated {va pa : Word} {thumb priv c b : Bool} (h : s.mmuOn = true)
    (ht : translate .instr (relocate s.cp15.pid va) false priv s = (.ok pa c b, u)) :
    fetch va thumb priv s = fetchAt (relocate s.cp15.pid va) pa c b thumb priv u := by
  simp only [fetch, h, ht]

theorem fetch_of_fault {va : Word} {thumb priv : Bool} {status : BitVec 4} {domain : Option (BitVec 4)}
    (h : s.mmuOn = true) (ht : translate .instr (relocate s.cp15.pid va) false priv s = (.fault status domain, u)) :
    fetch va thumb priv s = .got (.abort status) u := by
  simp only [fetch, h, ht]

theorem MemSide.ctlBit {t : State} (h : MemSide s t) (n : Nat) : t.ctlBit n = s.ctlBit n := by
  rw [State.ctlBit, State.ctlBit, h.cp15]

theorem fetch_answers_off {va : Word} {thumb priv : Bool} (hh : s.halted = false) (hm : s.mmuOn = false) :
    FetchAnswers (fetch va thumb priv s) (relocate s.cp15.pid va) thumb (relocate s.cp15.pid va) s.icacheOn s := by
  have c : instrCachable s s.icacheOn = s.icacheOn := by
    rw [instrCachable_running hh, hm]
    simp
  have := fetchAt_answers (u := s) (mva := relocate s.cp15.pid va) (a := relocate s.cp15.pid va) (c := s.icacheOn)
    (b := false) (thumb := thumb) (priv := priv) fun _ _ => rfl
  rwa [c, ← fetch_of_mmuOff hm] at this

theorem fetch_answers_on {va pa : Word} {thumb priv c b : Bool} (hh : s.halted = false) (hm : s.mmuOn = true)
    (ht : translate .instr (relocate s.cp15.pid va) false priv s = (.ok pa c b, u)) :
    FetchAnswers (fetch va thumb priv s) (relocate s.cp15.pid va) thumb pa (s.icacheOn && c) u := by
  have side : MemSide s u := by
    have := translate_readSide .instr (relocate s.cp15.pid va) false priv s
    rw [ht] at this
    exact this.toMemSide
  have cachable : instrCachable u c = (s.icacheOn && c) := by
    rw [instrCachable_running (side.halted.trans hh), show u.icacheOn = s.icacheOn from side.ctlBit 12,
      show u.mmuOn = s.mmuOn from side.ctlBit 0, hm]
    rfl
  have := fetchAt_answers (u := u) (mva := relocate s.cp15.pid va) (a := pa) (c := c) (b := b) (thumb := thumb)
    (priv := priv) fun _ => translate_low ht
  rwa [cachable, ← fetch_of_translated hm ht] at this

/-! ### A step at a quiet boundary -/

/-- What `quietFetch` says. -/
theorem quietFetch_iff : s.quietFetch = true ↔ s.quiet = true ∧ s.prefetch = [] ∧ s.predictOn = false ∧
    s.pins.hgranti = true ∧ s.pins.hgrantd = true ∧ s.mmuOn = false ∧ s.icacheOn = false ∧ s.memMap = [] := by
  simp [State.quietFetch, and_assoc]

/-- The fetch of such a state reads RAM, and nothing else changes. -/
theorem fetch_of_quietFetch (h : s.quietFetch = true) :
    fetch s.pc s.thumb s.priv s =
      .got (.word (physRead s.mem s.big (if s.thumb then .half else .word) (relocate s.cp15.pid s.pc)))
        (s.record s.fetchRecord) := by
  obtain ⟨hq, -, -, -, -, hm, hc, hmap⟩ := quietFetch_iff.mp h
  obtain ⟨-, -, -, -, -, hh, -, -⟩ := quiet_iff.mp hq
  have plain : instrCachable s s.icacheOn = false := by rw [instrCachable_running hh, hc]; rfl
  have b : instrBufferable s false = false := by rw [instrBufferable, hh]; rfl
  have ram : kindAt s.memMap (relocate s.cp15.pid s.pc).toNat = .ram := by rw [hmap]; rfl
  rw [fetch_of_mmuOff hm, fetchAt, plain]
  simp only [fetchRead, b, ram]
  rfl

/-- What enters the prefetch buffer where nothing is predicted and no breakpoint is set. -/
theorem entryFor_plain {prev : Option Prefetched} {pc : Word} {thumb : Bool} {w : Word} (hd : s.debugEnabled = false)
    (hp : s.predictOn = false) : entryFor prev pc thumb (.word w) s = ⟨pc, thumb, false, .word w, .unpredicted⟩ := by
  have b : breakpointAt s pc thumb = false := by rw [breakpointAt, hd]; rfl
  simp only [entryFor, b, hp]
  rfl

/-- Only the coprocessors' pins say whether one is busy. -/
theorem busyWaits_congr {t : State} (h : t.pins = s.pins) (i : Instr) : busyWaits i t = busyWaits i s := by
  unfold busyWaits cpPresent
  rw [h]

theorem writesPid_congr {t : State} (h : t.cpsr = s.cpsr) (i : Instr) : writesPid i t = writesPid i s := by
  simp only [writesPid, State.priv, State.mode, State.passes, State.flagN, State.flagZ, State.flagC, State.flagV, h]

theorem lookAhead_of_noPid {p : Prefetched} {i : Instr} (h : writesPid i s = false) : lookAhead p i s = .ok s := by
  rw [lookAhead, h, if_neg Bool.false_ne_true]

/-- A step whose fetch was granted acts on what was fetched. -/
theorem step_of_granted {p : Prefetched} (hq : s.quiet = true) (hn : nextInstruction s = .ok (p, u))
    (hg : granted s u = true) : step s = runFetched p u := by
  simp only [step_of_quiet hq, runInstruction, hn, hg, if_true]

theorem step_of_ungranted {p : Prefetched} (hq : s.quiet = true) (hn : nextInstruction s = .ok (p, u))
    (hg : granted s u = false) : step s = .next s := by
  simp only [step_of_quiet hq, runInstruction, hn, hg, Bool.false_eq_true, if_false]

/-- A step that fetched an instruction issues it. -/
theorem step_issues {p : Prefetched} {w : Word} (hq : s.quiet = true) (hn : nextInstruction s = .ok (p, u))
    (hg : granted s u = true) (hw : p.what = .word w) (hb : p.breakpoint = false) :
    step s = issue p (decode (fetchedCode u.thumb w)) u := by
  obtain ⟨-, -, -, -, hd, -, -, -⟩ := quiet_iff.mp hq
  obtain ⟨l, side⟩ := nextInstruction_memSide hn
  exact (step_of_granted hq hn hg).trans (runFetched_issue hw hb (side.debugEnabled.trans hd))

/-- (1) The step of a state whose fetch goes straight to RAM. -/
theorem step_of_quietFetch {i : Instr} (h : s.quietFetch = true) (hi : decode s.codeAt = i) (hb : busyWaits i s = false)
    (hp : writesPid i s = false) :
    step s = match exec i (caughtHere (s.record s.fetchRecord)) with
      | .next t => .next (settle t)
      | .fault f => .fault f
      | .refused r => .refused r := by
  obtain ⟨hq, he, hz, hgi, hgd, -, -, -⟩ := quietFetch_iff.mp h
  obtain ⟨-, -, -, -, hd, -, -, -⟩ := quiet_iff.mp hq
  have hn := nextInstruction_of_empty he (fetch_of_quietFetch h)
  rw [entryFor_plain hd hz] at hn
  have hgi' : (s.record s.fetchRecord).pins.hgranti = true := by rw [State.record_pins, hgi]
  have hgd' : (s.record s.fetchRecord).pins.hgrantd = true := by rw [State.record_pins, hgd]
  have code : fetchedCode (s.record s.fetchRecord).thumb
      (physRead s.mem s.big (if s.thumb then .half else .word) (relocate s.cp15.pid s.pc)) = s.codeAt := by
    rw [State.thumb_congr (State.record_cpsr s _), State.codeAt, fetchedCode]
    cases s.thumb <;> rfl
  rw [step_issues hq hn (granted_of_pins hgi hgd _) rfl rfl, code, hi,
    issue_of_ready ((busyWaits_congr (State.record_pins s _) i).trans hb)
      (lookAhead_of_noPid ((writesPid_congr (State.record_cpsr s _) i).trans hp)),
    if_pos (granted_of_pins hgi' hgd' _), runCode_eq]
  cases exec i (caughtHere (s.record s.fetchRecord)) with
  | next t => exact congrArg Host.Outcome.next ((if_pos (granted_of_pins hgi' hgd' t)).trans rfl)
  | fault f => rfl
  | refused r => rfl

/-- (2) A fetch that aborted takes the Prefetch Abort (spec/60 R867). -/
theorem step_of_abortedFetch {p : Prefetched} {status : BitVec 4} (hq : s.quiet = true)
    (hn : nextInstruction s = .ok (p, u)) (hg : granted s u = true) (hw : p.what = .abort status) :
    ∃ t, step s = .next t ∧ t.cp15.ifsr.extractLsb' 0 4 = status ∧ t.cp15.dfsr = s.cp15.dfsr ∧ t.cp15.dfar = s.cp15.dfar ∧
      t.pc = vectorBase s + 0x0C#32 ∧ t.mode = 0x17#5 ∧ t.regIn .abt regLr = s.pc + 4#32 ∧ t.spsr[3] = s.cpsr ∧
      (∀ k : Fin 30, k ≠ regIndex .abt regLr → t.regs[k] = s.regs[k]) ∧ t.mem = u.mem ∧ t.prefetch = [] := by
  obtain ⟨l, side⟩ := nextInstruction_memSide hn
  have hstep : step s = .next (prefetchAbort status u) := by
    rw [step_of_granted hq hn hg, runFetched, hw]
  refine ⟨_, hstep, prefetchAbort_ifsr status u, ?_, ?_, ?_, takeException_mode _ _ _, ?_, ?_, fun k hk => ?_,
    takeException_mem _ _ _, takeException_prefetch _ _ _⟩
  · rw [prefetchAbort_dfsr, side.cp15]
  · rw [prefetchAbort_dfar, side.cp15]
  · exact congrArg (· + 0x0C#32) side.vectorBase
  · exact (takeException_link _ _ _).trans (congrArg (· + 4#32) side.pc)
  · exact (takeException_saved (k := 3) _ _ rfl).trans side.cpsr
  · exact (takeException_regs_ne _ _ _ hk).trans (congrArg (fun r : Vector Word 30 => r[k]) side.regs)

/-- (2) An instruction that was fetched is run, or waits in the buffer (spec/23 R392, R410). -/
theorem step_of_instruction {p : Prefetched} {w : Word} {i : Instr} (hq : s.quiet = true)
    (hn : nextInstruction s = .ok (p, u)) (hg : granted s u = true) (hw : p.what = .word w) (hb : p.breakpoint = false)
    (hi : decode (fetchedCode u.thumb w) = i) :
    (busyWaits i u = true → step s = .next (hold p u)) ∧
    (∀ v : State, busyWaits i u = false → lookAhead p i u = .ok v →
      (granted u v = false → step s = .next (hold p u)) ∧
      (granted u v = true →
        step s = match exec i (caughtHere v) with
          | .next t => .next (if granted v t then settle (resolve p.prediction v.prefetch t) else hold p v)
          | .fault f => .fault f
          | .refused r => .refused r)) := by
  rw [step_issues hq hn hg hw hb, hi]
  refine ⟨issue_of_busy, fun v ready hl => ?_⟩
  rw [issue_of_ready ready hl]
  refine ⟨fun wait => ?_, fun go => ?_⟩
  · rw [wait, if_neg Bool.false_ne_true]
  · rw [if_pos go]
    exact runCode_eq p i v

/-- Settles O4: the five clauses are `step_of_quietFetch`, `step_of_abortedFetch` and `step_of_instruction`, `settle_of_noWatch`,
`fetch_answers_off` and `fetch_answers_on`, and `nextInstruction_of_empty`. -/
theorem stepRunsDecoded : Obligations.StepRunsDecoded := by
  refine ⟨fun s i => step_of_quietFetch, fun s s1 p w i hq hn => ⟨?_, fun status => ?_, ?_⟩, fun t hw => ⟨?_, ?_⟩,
    fun s s1 va pa thumb priv c b status domain hh => ⟨?_, fun hm => ⟨?_, ?_⟩⟩, fun s t f he hf => ?_⟩
  · exact step_of_ungranted hq hn
  · exact step_of_abortedFetch hq hn
  · exact step_of_instruction hq hn
  · exact settle_of_noWatch hw
  · exact settle_of_empty hw
  · exact fetch_answers_off hh
  · exact fetch_answers_on hh hm
  · exact fetch_of_fault hm
  · exact ⟨_, nextInstruction_of_empty he hf, rfl, rfl, rfl⟩

end Sys2Proof.Machine
end

section
/-!
The modified virtual address (O54); MRC from and MCR to CP15 in a privileged mode (spec/46 R721), and what each register answers
(O43).
-/
namespace Sys2Proof.Machine

/-! ### The modified virtual address (spec/11 R132) -/

/-- The top seven bits of an address are zero below 2^25. -/
theorem topSeven_eq_zero_iff (va : Word) : va.extractLsb' 25 7 = 0#7 ↔ va.toNat < 33554432 := by
  rw [← BitVec.toNat_inj]
  have := va.isLt
  simp [Nat.shiftRight_eq_div_pow]
  omega

/-- Settles O54: the process ID lies above the low 25 bits. -/
theorem processRelocation : Obligations.ProcessRelocation := by
  intro pid va
  unfold relocate
  by_cases h : va.extractLsb' 25 7 = 0#7
  · have small := (topSeven_eq_zero_iff va).mp h
    rw [if_pos h, if_pos small]
    refine (BitVec.toNat_append pid (va.extractLsb' 0 25)).trans ?_
    rw [← Nat.shiftLeft_add_eq_or_of_lt (BitVec.isLt _), Nat.shiftLeft_eq]
    simp
    omega
  · rw [if_neg h, if_neg fun small => h ((topSeven_eq_zero_iff va).mpr small)]

variable {s : State}

/-! ### An access that CP15 lists -/

/-- CP15's registers are there but c4, c11, c12 and c14 (spec/11 R81). -/
theorem cp15Absent_iff (crn : BitVec 4) : cp15Absent crn = true ↔ crn ∈ [4#4, 11#4, 12#4, 14#4] := by
  simp [cp15Absent, or_assoc]

/-- CP15's register transfers that pass their condition (spec/46 R721). -/
theorem exec_mcr_cp15 {c : Cond} {f : CpReg} (hc : s.passes c = true) (hf : f.cp = 15#4) :
    exec (.mcr c f) s = mcr15 f s := (whenCond_pass hc).trans (if_pos hf)

theorem exec_mrc_cp15 {c : Cond} {f : CpReg} (hc : s.passes c = true) (hf : f.cp = 15#4) :
    exec (.mrc c f) s = mrc15 f s := (whenCond_pass hc).trans (if_pos hf)

/-- A listed register is not one of the absent ones. -/
theorem cp15Absent_of_read {crn crm : BitVec 4} {op2 : BitVec 3} {r : Cp15Read} (h : cp15ReadOf crn crm op2 = some r) :
    cp15Absent crn = false := by
  by_contra absent
  have := (cp15Absent_iff crn).mp (by simpa using absent)
  simp only [List.mem_cons, List.not_mem_nil, or_false] at this
  obtain rfl | rfl | rfl | rfl := this <;> simp [cp15ReadOf] at h

theorem cp15Absent_of_write {crn crm : BitVec 4} {op2 : BitVec 3} {w : Cp15Write} (h : cp15WriteOf crn crm op2 = some w) :
    cp15Absent crn = false := by
  by_contra absent
  have := (cp15Absent_iff crn).mp (by simpa using absent)
  simp only [List.mem_cons, List.not_mem_nil, or_false] at this
  obtain rfl | rfl | rfl | rfl := this <;> simp [cp15WriteOf] at h

/-- A read of CP15 keeps what completes the instruction. -/
theorem cp15Read_canAdvance (r : Cp15Read) (s : State) : (cp15Read r s).2.canAdvance = s.canAdvance := by
  cases r
  case pmrdr =>
    by_cases h : (s.pins.pmexists && s.pm.r) = true
    · rw [cp15Read, if_pos h]
      rfl
    · rw [cp15Read, if_neg h]
      rfl
  all_goals rfl

@[simp] theorem State.canAdvance_receive (s : State) (rd : Reg) (v : Word) :
    (s.receive rd v).canAdvance = s.canAdvance := by
  unfold State.receive
  split <;> simp

/-- A listed MRC gives Rd, or the flags, what the register answers. -/
theorem exec_mrc_of_read {c : Cond} {rd : Reg} {crn crm : BitVec 4} {op2 : BitVec 3} {v : Word} {t : State}
    (r : Cp15Read) (hp : s.priv = true) (hc : s.passes c = true) (hn : s.canAdvance = true)
    (hr : cp15ReadOf crn crm op2 = some r) (hv : cp15Read r s = (v, t)) :
    exec (.mrc c ⟨0#3, crn, rd, 15#4, op2, crm⟩) s = .next (t.receive rd v).moveOn := by
  have next := cp15Read_canAdvance r s
  rw [hv] at next
  refine (exec_mrc_cp15 hc rfl).trans ?_
  simp only [if_true, mrc15, hp, cp15Absent_of_read hr, hr, mrcResult_eq, hv]
  exact advance_of_canAdvance (by rw [State.canAdvance_receive, next, hn])

/-- A listed MCR carries out the register's write on what it sends. -/
theorem exec_mcr_of_write {c : Cond} {rd : Reg} {crn crm : BitVec 4} {op2 : BitVec 3} {w : Cp15Write} (hp : s.priv = true)
    (hc : s.passes c = true) (hw : cp15WriteOf crn crm op2 = some w) :
    exec (.mcr c ⟨0#3, crn, rd, 15#4, op2, crm⟩) s =
      (cp15Write w (s.sent rd) (s.sending rd)).finish fun _ t => advance t := by
  refine (exec_mcr_cp15 hc rfl).trans ?_
  simp only [if_true, mcr15, hp, cp15Absent_of_write hw, hw, mcrValue_eq]
  rfl

/-! ### The words that CP15 answers (spec/11 R84-R147) -/

/-- Bits above zeros are bits shifted up. -/
theorem append_zero_eq_shiftLeft {n : Nat} (m : Nat) (x : BitVec n) : x ++ 0#m = x.zeroExtend (n + m) <<< m := by
  apply BitVec.eq_of_getLsbD_eq
  intro i hi
  simp only [BitVec.getLsbD_append, BitVec.getLsbD_shiftLeft, BitVec.getLsbD_setWidth, BitVec.getLsbD_zero]
  by_cases h : i < m <;> simp [h, hi, show i - m < n + m by omega]

theorem deviceId_word : ∀ r : BitVec 4, (0x4105A20#28 ++ r : Word) = 0x4105A200#32 ||| r.zeroExtend 32 := by decide

theorem getLsbD_lockWord (t : Tlb) (i : Nat) : t.lockWord.getLsbD i =
    if i < 1 then (BitVec.ofBool t.preserve).getLsbD i else if i < 20 then false
    else if i < 26 then t.victim.getLsbD (i - 20) else t.base.getLsbD (i - 26) := by
  have parts : (t.base ++ t.victim ++ 0#19 ++ BitVec.ofBool t.preserve).getLsbD i = _ := BitVec.getLsbD_append
  refine (show _ = _ from parts).trans ?_
  rw [BitVec.getLsbD_append, BitVec.getLsbD_append, BitVec.getLsbD_zero, show i - 1 - 19 = i - 20 by omega,
    show i - 20 - 6 = i - 26 by omega]
  exact if_congr Iff.rfl rfl (if_congr (by omega) rfl (if_congr (by omega) rfl rfl))

/-- The TLB lockdown register: base, victim and the P bit (spec/11 R126). -/
theorem lockWord_eq (t : Tlb) : t.lockWord =
    (t.base.zeroExtend 32 <<< 26) ||| (t.victim.zeroExtend 32 <<< 20) ||| (if t.preserve then 1#32 else 0#32) := by
  apply BitVec.eq_of_getLsbD_eq
  intro i hi
  rw [getLsbD_lockWord]
  cases t.preserve <;> interval_cases i <;> simp

theorem pmsrWord_of_pmexists (h : s.pins.pmexists = true) :
    pmsrWord s = 0x10000000#32 ||| (if s.pm.w then 2#32 else 0#32) ||| (if s.pm.r then 1#32 else 0#32) := by
  rw [pmsrWord, if_pos h]
  cases s.pm.w <;> cases s.pm.r <;> rfl

theorem pmrdr_word : ∀ (e : Bool) (st : BitVec 4), (BitVec.ofBool e ++ 0#23 ++ st ++ 0#4 : Word) =
    (if e then 0x80000000#32 else 0#32) ||| (st.zeroExtend 32 <<< 4) := by decide

theorem getLsbD_control (high : BitVec 10) (w : Word) {k : Nat} (h : k < 22) :
    (high ++ w.extractLsb' 0 22 : Word).getLsbD k = w.getLsbD k := by
  have parts : (high ++ w.extractLsb' 0 22).getLsbD k = _ := BitVec.getLsbD_append
  refine (show _ = _ from parts).trans ?_
  simp [h]

theorem getLsbD_ttbr (w f : Word) {k : Nat} (h : 14 ≤ k) :
    (w.extractLsb' 14 18 ++ f.extractLsb' 0 14 : Word).getLsbD k = w.getLsbD k := by
  have parts : (w.extractLsb' 14 18 ++ f.extractLsb' 0 14).getLsbD k = _ := BitVec.getLsbD_append
  refine (show _ = _ from parts).trans ?_
  rw [if_neg (by omega), BitVec.getLsbD_extractLsb', show 14 + (k - 14) = k by omega]
  by_cases hk : k - 14 < 18
  · simp [hk]
  · rw [BitVec.getLsbD_of_ge w k (by omega), Bool.and_false]

theorem control_high (high : BitVec 10) (low : BitVec 22) : (high ++ low : Word).extractLsb' 22 10 = high :=
  BitVec.extractLsb'_append_eq_left

/-- Settles O43: each clause is `exec_mrc_of_read` with the word that the register answers. -/
theorem systemControlReads : Obligations.SystemControlReads := by
  intro c rd s hp hc hn is
  have read {crn crm op2 v t} (r : Cp15Read) := exec_mrc_of_read (rd := rd) (crn := crn) (crm := crm) (op2 := op2) (v := v)
    (t := t) r hp hc hn
  refine ⟨fun op2 h => read .deviceId ?listed ?deviceId, read .cacheType rfl rfl, ?control, ?ttbr, read .dacr rfl rfl,
    read .dfsr rfl rfl, read .ifsr rfl rfl, read .dfar rfl rfl, read .ifar rfl rfl, read .dcacheLock rfl ?dcacheLock,
    read .icacheLock rfl ?icacheLock, read .dtlbLock rfl ?dtlbLock, read .itlbLock rfl ?itlbLock,
    read .processId rfl ?processId, read .contextId rfl rfl, read .pll rfl rfl, fun h => read .pmsr rfl ?pmsr,
    fun h => read .pmsr rfl ?pmsrWithout, fun h hr => read .pmrdr rfl ?pmrdr, fun h => read .pmrdr rfl ?pmrdrFree,
    read .control2 rfl rfl⟩
  case listed =>
    revert op2
    decide
  case deviceId => exact congrArg (·, s) (deviceId_word _)
  case control =>
    refine ⟨s.freeVal.extractLsb' 22 10 ++ s.cp15.ctl.extractLsb' 0 22, read .control rfl ?_,
      fun k hk => getLsbD_control _ _ hk⟩
    rw [control_high]
    rfl
  case ttbr =>
    exact ⟨s.cp15.ttbr.extractLsb' 14 18 ++ s.freeVal.extractLsb' 0 14, read .ttbr rfl rfl, fun k hk => getLsbD_ttbr _ _ hk⟩
  case dcacheLock | icacheLock => exact congrArg (·, s) (append_zero_eq_shiftLeft 26 _)
  case dtlbLock | itlbLock => exact congrArg (·, s) (lockWord_eq _)
  case processId => exact congrArg (·, s) (append_zero_eq_shiftLeft 25 _)
  case pmsr => exact congrArg (·, s) (pmsrWord_of_pmexists h)
  case pmsrWithout => exact congrArg (·, s) (if_neg (by simp [h]))
  case pmrdr => rw [cp15Read, if_pos (by simp [h, hr]), pmrdr_word]
  case pmrdrFree => rw [cp15Read, if_neg (by simpa using fun e => h.resolve_left (by simp [e]))]

end Sys2Proof.Machine
end

section
/-!
What is Undefined or refused in CP15 and CP14 (O46; spec/11 R81, R82, R116; spec/12 R161; spec/46 R720-R722).
-/
namespace Sys2Proof.Machine

variable {s : State}

/-- Outside debug state Undefined Instruction is taken (spec/60 R862). -/
theorem undefinedInstr_of_running (h : s.halted = false) :
    undefinedInstr s = .next (takeException .undefined (s.pc + s.instrSize) s) := by
  rw [undefinedInstr, h, if_neg Bool.false_ne_true]

/-- The accesses by CRn, CRm and opcode_2 that both an MRC and an MCR may make (spec/11 R82). -/
def cp15Both : List (Nat × Nat × Nat) :=
  [(1, 0, 0), (2, 0, 0), (3, 0, 0), (5, 0, 0), (5, 0, 1), (6, 0, 0), (6, 0, 1), (9, 0, 0), (9, 0, 1), (10, 0, 0), (10, 0, 1),
    (13, 0, 0), (13, 0, 1), (15, 11, 0), (15, 12, 0), (15, 14, 1)]

/-- Those an MRC may make. -/
def cp15Reads : List (Nat × Nat × Nat) := cp15Both ++ (List.range 8).map (fun k => (0, 0, k)) ++ [(15, 14, 0)]

/-- Those an MCR may make. -/
def cp15Writes : List (Nat × Nat × Nat) :=
  cp15Both ++ [(7, 0, 4), (7, 5, 0), (7, 5, 1), (7, 6, 0), (7, 6, 1), (7, 7, 0), (7, 10, 1), (7, 10, 2), (7, 10, 4), (7, 13, 1),
    (7, 14, 1), (7, 14, 2), (8, 5, 0), (8, 5, 1), (8, 6, 0), (8, 6, 1), (8, 7, 0), (15, 0, 3), (15, 0, 5), (15, 8, 1), (15, 8, 4),
    (15, 8, 6), (15, 10, 1), (15, 10, 4), (15, 10, 6)]

theorem cp15ReadOf_unlisted {crn crm : BitVec 4} {op2 : BitVec 3} (h : (crn.toNat, crm.toNat, op2.toNat) ∉ cp15Reads) :
    cp15ReadOf crn crm op2 = none := by
  have := op2.isLt
  unfold cp15ReadOf
  split
  case h_20 => rfl
  all_goals
    refine absurd ?_ h
    simp_all [cp15Reads, cp15Both]

theorem cp15WriteOf_unlisted {crn crm : BitVec 4} {op2 : BitVec 3} (h : (crn.toNat, crm.toNat, op2.toNat) ∉ cp15Writes) :
    cp15WriteOf crn crm op2 = none := by
  unfold cp15WriteOf
  split
  case h_42 => rfl
  all_goals
    refine absurd ?_ h
    simp_all [cp15Writes, cp15Both]

/-- CP14's register transfers that pass their condition (spec/46 R722). -/
theorem exec_mcr_cp14 {c : Cond} {f : CpReg} (hc : s.passes c = true) (hf : f.cp = 14#4) :
    exec (.mcr c f) s = mcr14 f s := by
  refine (whenCond_pass hc).trans ((if_neg ?_).trans (if_pos hf))
  rw [hf]
  decide

theorem exec_mrc_cp14 {c : Cond} {f : CpReg} (hc : s.passes c = true) (hf : f.cp = 14#4) :
    exec (.mrc c f) s = mrc14 f s := by
  refine (whenCond_pass hc).trans ((if_neg ?_).trans (if_pos hf))
  rw [hf]
  decide

/-- An access to CP15 in User mode, or to a register that is not there (spec/11 R81). -/
theorem mcr15_of_barred {f : CpReg} (h : s.priv = false ∨ f.crn ∈ [4#4, 11#4, 12#4, 14#4]) :
    mcr15 f s = undefinedInstr s ∧ mrc15 f s = undefinedInstr s := by
  have barred : (!s.priv || cp15Absent f.crn) = true := by
    rw [Bool.or_eq_true, cp15Absent_iff, Bool.not_eq_true']
    exact h
  exact ⟨if_pos barred, if_pos barred⟩

/-- An access that the spec does not list (spec/11 R82). -/
theorem mcr15_of_unlisted {f : CpReg} (hp : s.priv = true) (hn : f.crn ∉ [4#4, 11#4, 12#4, 14#4]) :
    (f.op1 ≠ 0#3 ∨ (f.crn.toNat, f.crm.toNat, f.op2.toNat) ∉ cp15Writes → mcr15 f s = .refused .cp15Unlisted) ∧
    (f.op1 ≠ 0#3 ∨ (f.crn.toNat, f.crm.toNat, f.op2.toNat) ∉ cp15Reads → mrc15 f s = .refused .cp15Unlisted) := by
  have reach : ¬(!s.priv || cp15Absent f.crn) = true := by
    rw [hp, Bool.not_true, Bool.false_or, cp15Absent_iff]
    exact hn
  refine ⟨fun h => ?_, fun h => ?_⟩
  · have none : (if f.op1 = 0#3 then cp15WriteOf f.crn f.crm f.op2 else none) = none := by
      split
      · exact cp15WriteOf_unlisted (h.resolve_left (by simpa))
      · rfl
    rw [mcr15, if_neg reach, none]
  · have none : (if f.op1 = 0#3 then cp15ReadOf f.crn f.crm f.op2 else none) = none := by
      split
      · exact cp15ReadOf_unlisted (h.resolve_left (by simpa))
      · rfl
    rw [mrc15, if_neg reach, none]

/-- The coprocessors inside the processor have numbers 14 and 15. -/
theorem internalCp_iff (n : BitVec 4) : internalCp n = true ↔ n = 14#4 ∨ n = 15#4 := by
  simp [internalCp]

/-- What CP14 does not name (spec/12 R161, R163). -/
def Cp14Barred (f : CpReg) (priv : Bool) : Prop :=
  f.op1 ≠ 0#3 ∨ f.crn ≠ 0#4 ∨ f.op2 ∈ [1#3, 2#3, 3#3] ∨ (f.op2 = 0#3 ∧ f.crm ∉ [0#4, 1#4, 5#4]) ∨
    (f.op2 ∈ [4#3, 5#3] ∧ 6 ≤ f.crm.toNat) ∨ (f.op2 ∈ [6#3, 7#3] ∧ 2 ≤ f.crm.toNat) ∨
    (priv = false ∧ f.op2 ∈ [4#3, 5#3, 6#3, 7#3])

/-- The registers of CP14 by number, and whether User mode may name them (spec/12 R161). -/
theorem cp14RegOf_user : ∀ (op2 : BitVec 3) (crm : BitVec 4) (priv : Bool),
    op2 ∈ [1#3, 2#3, 3#3] ∨ (op2 = 0#3 ∧ crm ∉ [0#4, 1#4, 5#4]) ∨
      (op2 ∈ [4#3, 5#3] ∧ 6 ≤ crm.toNat) ∨ (op2 ∈ [6#3, 7#3] ∧ 2 ≤ crm.toNat) ∨
      (priv = false ∧ op2 ∈ [4#3, 5#3, 6#3, 7#3]) →
    (cp14RegOf op2 crm).filter (fun r => priv || r.user) = none := by
  decide

theorem cp14Named_of_barred {f : CpReg} (h : Cp14Barred f s.priv) : cp14Named f s = none := by
  unfold cp14Named
  split
  · rename_i zero
    obtain ⟨h1, h2⟩ : f.op1 = 0#3 ∧ f.crn = 0#4 := by simpa using zero
    exact cp14RegOf_user _ _ _ ((h.resolve_left (· h1)).resolve_left (· h2))
  · rfl

/-- Settles O46: each case is one of the tests that end in Undefined Instruction or in a refusal. -/
theorem internalCoprocessorTraps : Obligations.InternalCoprocessorTraps := by
  intro c s hc hh und both reads writes name
  have undef : undefinedInstr s = und := undefinedInstr_of_running hh
  refine ⟨fun f hf h => ?_, fun f hf hp hn => ?_, fun f hf => ?_, fun f hf hr => ?_, fun f hf => ?_, fun f hf => ?_, fun f hf => ?_,
    fun rn rd cp opc crm hf => ?_, fun f hf h => ?_⟩
  · obtain ⟨hmcr, hmrc⟩ := mcr15_of_barred h
    exact ⟨(exec_mcr_cp15 hc hf).trans (hmcr.trans undef), (exec_mrc_cp15 hc hf).trans (hmrc.trans undef)⟩
  · obtain ⟨hmcr, hmrc⟩ := mcr15_of_unlisted hp hn
    exact ⟨fun h => (exec_mcr_cp15 hc hf).trans (hmcr h), fun h => (exec_mrc_cp15 hc hf).trans (hmrc h)⟩
  · exact ⟨(whenCond_pass hc).trans ((if_pos hf).trans undef), (whenCond_pass hc).trans ((if_pos hf).trans undef)⟩
  · have h15 : f.cp ≠ 15#4 := by rw [hf]; decide
    exact ⟨(whenCond_pass hc).trans ((if_neg h15).trans ((if_pos hf).trans ((if_neg hr).trans undef))),
      (whenCond_pass hc).trans ((if_neg h15).trans ((if_pos hf).trans ((if_neg hr).trans undef)))⟩
  · have internal := (internalCp_iff f.cp).mpr hf
    exact ⟨(whenCond_pass hc).trans ((if_pos internal).trans undef), (if_pos internal).trans undef⟩
  · have internal := (internalCp_iff f.cp).mpr hf
    exact ⟨(if_pos internal).trans undef, (if_pos internal).trans undef⟩
  · have internal := (internalCp_iff f.cp).mpr hf
    exact ⟨(if_pos internal).trans undef, (if_pos internal).trans undef⟩
  · have internal := (internalCp_iff cp).mpr hf
    exact ⟨(whenCond_pass hc).trans ((if_pos internal).trans undef), (whenCond_pass hc).trans ((if_pos internal).trans undef)⟩
  · have unnamed : cp14Named f s = none := cp14Named_of_barred h
    have hmcr : mcr14 f s = und := by rw [mcr14, unnamed, undef]
    have hmrc : mrc14 f s = und := by rw [mrc14, unnamed, undef]
    exact ⟨(exec_mcr_cp14 hc hf).trans hmcr, (exec_mrc_cp14 hc hf).trans hmrc⟩

end Sys2Proof.Machine
end

section
/-!
What an MCR to a register of CP15 writes (O44; spec/11 R87, R102-R153; spec/46 R721).
-/
namespace Sys2Proof.Machine

variable {s u : State}

/-! ### What a write ends in -/

@[simp] theorem State.canAdvance_sending (s : State) (rd : Reg) : (s.sending rd).canAdvance = s.canAdvance := by
  unfold State.sending
  split <;> rfl

/-- A write without should-be fields. -/
theorem exec_mcr_of_ok {c : Cond} {rd : Reg} {crn crm : BitVec 4} {op2 : BitVec 3} {t : State} (w : Cp15Write)
    (hp : u.priv = true) (hc : u.passes c = true) (hw : cp15WriteOf crn crm op2 = some w)
    (he : cp15Write w (u.sent rd) (u.sending rd) = .ok () t) (ht : t.canAdvance = true) :
    exec (.mcr c ⟨0#3, crn, rd, 15#4, op2, crm⟩) u = .next t.moveOn := by
  rw [exec_mcr_of_write hp hc hw, he]
  exact advance_of_canAdvance ht

theorem exec_mcr_of_refuse {c : Cond} {rd : Reg} {crn crm : BitVec 4} {op2 : BitVec 3} {r : Refusal} (w : Cp15Write)
    (hp : u.priv = true) (hc : u.passes c = true) (hw : cp15WriteOf crn crm op2 = some w)
    (he : cp15Write w (u.sent rd) (u.sending rd) = .refuse r) :
    exec (.mcr c ⟨0#3, crn, rd, 15#4, op2, crm⟩) u = .refused r := by
  rw [exec_mcr_of_write hp hc hw, he]
  rfl

/-- A write that needs some bits to be zero. -/
theorem exec_mcr_of_writeIf {c : Cond} {rd : Reg} {crn crm : BitVec 4} {op2 : BitVec 3} {zero : Word} {t : State}
    (w : Cp15Write) (hp : u.priv = true) (hc : u.passes c = true) (hw : cp15WriteOf crn crm op2 = some w)
    (he : cp15Write w (u.sent rd) (u.sending rd) = writeIf (sbz (u.sent rd) zero) t) (ht : t.canAdvance = true) :
    exec (.mcr c ⟨0#3, crn, rd, 15#4, op2, crm⟩) u =
      if u.sent rd &&& zero = 0#32 then .next t.moveOn else .refused .cp15ShouldBe := by
  by_cases h : u.sent rd &&& zero = 0#32
  · rw [if_pos h]
    exact exec_mcr_of_ok w hp hc hw (he.trans (if_pos (beq_iff_eq.mpr h))) ht
  · rw [if_neg h]
    exact exec_mcr_of_refuse w hp hc hw (he.trans (if_neg (mt beq_iff_eq.mp h)))

/-! ### Control register 1 (spec/11 R87, R102) -/

/-- Bits [6:4] of c1 are ones. -/
theorem bits456_iff (v : Word) : v.extractLsb' 4 3 = 7#3 ↔ v &&& 0x70#32 = 0x70#32 := by
  have field : v &&& 0x70#32 = (v.extractLsb' 4 3).zeroExtend 32 <<< 4 := by
    apply BitVec.eq_of_getLsbD_eq
    intro i hi
    interval_cases i <;> simp
  rw [field]
  generalize v.extractLsb' 4 3 = f
  revert f
  decide

theorem controlAllowed_iff (s : State) (v : Word) : controlAllowed s v = true ↔
    (v.extractLsb' 22 10 = 0#10 ∨ v.extractLsb' 22 10 = s.cp15.ctlHigh) ∧ v &&& 0x001F0400#32 = 0#32 ∧
      v &&& 0x70#32 = 0x70#32 := by
  simp only [controlAllowed, sbz, Bool.and_eq_true, Bool.or_eq_true, beq_iff_eq, bits456_iff, and_assoc]

/-! ### TLB entry writes (spec/11 R150-R153) -/

/-- The page size of a mask or a size code. -/
def listedSize (m : BitVec 4) : PageSize :=
  if m = 7#4 then .kb64 else if m = 3#4 then .kb16 else if m = 1#4 then .kb4 else if m = 0#4 then .kb1 else .unlisted m

theorem maskSize_eq : ∀ m : BitVec 4, maskSize m = if m ∈ [7#4, 3#4, 1#4, 0#4] then some (listedSize m) else none := by
  decide

theorem codeSize_eq : ∀ m : BitVec 4, codeSize m = if m = 15#4 then none else some (listedSize m) := by decide

theorem heldEntry_of_invalid {t : Tlb} (h : t.camHold.getLsbD 27 = false) : t.heldEntry = some none := by
  rw [Tlb.heldEntry, h, if_neg Bool.false_ne_true]

/-- The entry that the holding registers describe. -/
def Tlb.held (t : Tlb) : TlbEntry where
  lock := t.camHold.getLsbD 26
  preserved := t.preserve
  tag := t.camHold.extractLsb' 0 22
  cmp := listedSize (t.camHold.extractLsb' 22 4)
  pa := t.paHold.extractLsb' 4 22
  size := listedSize (t.paHold.extractLsb' 0 4)
  domain := t.protHold.extractLsb' 9 4
  dfi := t.protHold.getLsbD 8
  apSelect := t.protHold.extractLsb' 4 4
  c := t.protHold.getLsbD 3
  b := t.protHold.getLsbD 2
  ncb := t.protHold.getLsbD 1
  ncnb := t.protHold.getLsbD 0

theorem heldEntry_of_listed {t : Tlb} (h : t.camHold.getLsbD 27 = true)
    (hm : t.camHold.extractLsb' 22 4 ∈ [7#4, 3#4, 1#4, 0#4]) (hs : t.paHold.extractLsb' 0 4 ≠ 15#4) :
    t.heldEntry = some (some t.held) := by
  rw [Tlb.heldEntry, if_pos h, maskSize_eq, if_pos hm, codeSize_eq, if_neg hs]
  rfl

theorem heldEntry_of_unlisted {t : Tlb} (h : t.camHold.getLsbD 27 = true)
    (hu : t.camHold.extractLsb' 22 4 ∉ [7#4, 3#4, 1#4, 0#4] ∨ t.paHold.extractLsb' 0 4 = 15#4) : t.heldEntry = none := by
  rw [Tlb.heldEntry, if_pos h, maskSize_eq, codeSize_eq]
  obtain hu | hu := hu
  · rw [if_neg hu]
  · rw [if_pos hu]
    generalize (if t.camHold.extractLsb' 22 4 ∈ [7#4, 3#4, 1#4, 0#4] then _ else _ : Option PageSize) = cmp
    cases cmp <;> rfl

/-- The holding registers go to the entry that Rd[31:26] names. -/
def Tlb.withEntry (t : Tlb) (v : Word) (e : Option TlbEntry) : Tlb :=
  { t with entries := t.entries.set (v.extractLsb' 26 6).toNat e (v.extractLsb' 26 6).isLt }

theorem cp15Write_entry {side : Side} {v : Word} {s : State} {e : Option TlbEntry} (h : (s.tlb side).heldEntry = some e) :
    cp15Write (.writeEntry side) v s = .ok () (s.setTlb side ((s.tlb side).withEntry v e)) := by
  simp only [cp15Write, Tlb.writeHeld, h]
  rfl

theorem cp15Write_noEntry {side : Side} {v : Word} {s : State} (h : (s.tlb side).heldEntry = none) :
    cp15Write (.writeEntry side) v s = .refuse .tlbFormat := by
  simp only [cp15Write, Tlb.writeHeld, h]

theorem canAdvance_setTlb (s : State) (side : Side) (t : Tlb) : (s.setTlb side t).canAdvance = s.canAdvance := by
  cases side <;> rfl

/-- What a TLB entry write does, by what the holding registers describe: a clause of O44, for either TLB. -/
theorem exec_mcr_entry {c : Cond} {rd : Reg} {op2 : BitVec 3} {side : Side} (hp : u.priv = true) (hc : u.passes c = true)
    (hn : u.canAdvance = true) (hw : cp15WriteOf 15#4 0#4 op2 = some (.writeEntry side)) :
    let t := (u.sending rd).tlb side
    let write := exec (.mcr c ⟨0#3, 15#4, rd, 15#4, op2, 0#4⟩) u
    (∀ e, t.heldEntry = some e → write = .next ((u.sending rd).setTlb side (t.withEntry (u.sent rd) e)).moveOn) ∧
    (t.heldEntry = none → write = .refused .tlbFormat) :=
  ⟨fun _ he => exec_mcr_of_ok _ hp hc hw (cp15Write_entry he)
      (by rw [canAdvance_setTlb, State.canAdvance_sending, hn]),
    fun he => exec_mcr_of_refuse _ hp hc hw (cp15Write_noEntry he)⟩

/-! ### The other registers with effects of their own -/

/-- A DACR write keeps the entries below the base (spec/21 R259). -/
theorem invalidateUnlocked_entries (t : Tlb) (k : Fin 64) :
    t.invalidateUnlocked.entries[k] = if k.val < t.base.toNat then t.entries[k] else none := by
  simp [Tlb.invalidateUnlocked]

/-- A write of PMTDR with a power manager (spec/11 R145). -/
theorem pmTransmit_of_ready {v : Word} (hm : s.pins.pmexists = true) (hw : s.pm.w = true) :
    pmTransmit v s = writeIf (sbz v 0x7FFFFF0F#32) { s with
      pm := { s.pm with w := false, txReq := true, txEmul := v.getLsbD 31, txState := v.extractLsb' 4 4 } } := by
  simp only [pmTransmit, hm, hw, Bool.not_true, Bool.false_eq_true, if_false, if_true, writeIf]

theorem pmTransmit_of_busy {v : Word} (hm : s.pins.pmexists = true) (hw : s.pm.w = false) (hv : v &&& 0x7FFFFF0F#32 = 0#32) :
    pmTransmit v s = .refuse .pmtdrBusy := by
  have ok : sbz v 0x7FFFFF0F#32 = true := beq_iff_eq.mpr hv
  simp only [pmTransmit, hm, hw, ok, Bool.not_true, Bool.false_eq_true, if_false, if_true]

theorem pmTransmit_of_absent {v : Word} (hm : s.pins.pmexists = false) : pmTransmit v s = .ok () s := by
  simp only [pmTransmit, hm, Bool.not_false, if_true]

/-- Settles O44: each register's clause is its write in `cp15Write`, carried out on the word that is sent. -/
theorem systemControlWrites : Obligations.SystemControlWrites := by
  intro c rd u hp hc hn v s write does size soft keeps
  have hs : s.canAdvance = true := (u.canAdvance_sending rd).trans hn
  have put {crn crm op2 zero t} (w : Cp15Write) :=
    exec_mcr_of_writeIf (rd := rd) (crn := crn) (crm := crm) (op2 := op2) (zero := zero) (t := t) w hp hc
  have always {crn crm op2 t} (w : Cp15Write) (hw : cp15WriteOf crn crm op2 = some w) (he : cp15Write w v s = .ok () t)
      (ht : t.canAdvance = true) : does crn crm op2 0#32 t :=
    (exec_mcr_of_ok w hp hc hw he ht).trans (if_pos BitVec.and_zero).symm
  have held {op2 : BitVec 3} (side : Side) (hw : cp15WriteOf 15#4 0#4 op2 = some (.writeEntry side)) :
      soft op2 (s.tlb side) (s.setTlb side) := by
    obtain ⟨entry, bad⟩ := exec_mcr_entry (rd := rd) (side := side) hp hc hn hw
    exact ⟨fun h => entry _ (heldEntry_of_invalid h), fun h =>
      ⟨fun hm hz => ⟨_, entry _ (heldEntry_of_listed h hm hz), rfl, rfl, rfl, rfl, rfl, rfl, rfl, rfl, rfl, rfl, rfl, rfl, rfl⟩,
        fun hu => bad (heldEntry_of_unlisted h hu)⟩⟩
  refine ⟨fun h => ?control, fun h => ?controlBad, put .ttbr rfl rfl hs, ?dacr, put .dfsr rfl rfl hs, put .ifsr rfl rfl hs,
    always .dfar rfl rfl hs, always .ifar rfl rfl hs, ?dcacheLock, ?icacheLock, put .dtlbLock rfl rfl hs,
    put .itlbLock rfl rfl hs, put .processId rfl rfl hs, always .contextId rfl rfl hs, put .pll rfl rfl hs,
    put .control2 rfl rfl hs, fun hm hw => put .pmtdr rfl (pmTransmit_of_ready hm hw) hs,
    fun hm hw hv => exec_mcr_of_refuse .pmtdr hp hc rfl (pmTransmit_of_busy hm hw hv),
    fun hm => exec_mcr_of_ok .pmtdr hp hc rfl (pmTransmit_of_absent hm) hs,
    put (.camHold .instr) rfl rfl hs, put (.protHold .instr) rfl rfl hs, put (.paHold .instr) rfl rfl hs,
    put (.camHold .data) rfl rfl hs, put (.protHold .data) rfl rfl hs, put (.paHold .data) rfl rfl hs,
    held .instr rfl, held .data rfl⟩
  case control => exact exec_mcr_of_ok .control hp hc rfl (if_pos ((controlAllowed_iff s v).mpr h)) hs
  case controlBad => exact exec_mcr_of_refuse .control hp hc rfl (if_neg (mt (controlAllowed_iff s v).mp h))
  case dacr =>
    exact ⟨_, always .dacr rfl rfl hs, rfl, invalidateUnlocked_entries s.itlb, invalidateUnlocked_entries s.dtlb⟩
  case dcacheLock => exact ⟨_, put .dcacheLock rfl rfl hs, rfl, rfl, fun g => Vector.getElem_replicate _⟩
  case icacheLock => exact ⟨_, put .icacheLock rfl rfl hs, rfl, rfl, fun g => Vector.getElem_replicate _⟩

end Sys2Proof.Machine
end

section
/-!
SUPPORT. Drains of the write buffer and the castout buffer, one after the other: what they leave alone, and that a drain through the
castout, a full drain and a store's making of room are runs of them (spec/22 R350, R352, R353).
-/
namespace Sys2Proof.Machine

variable {s t u : State}

/-! ### What a drain leaves alone -/

/-- `t` differs from `s` by drains at most: in the two buffers, in memory, in the bus records, in the other masters' writes still to
come, and in the free values used. -/
structure DrainSide (s t : State) : Prop where
  eq : t = { s with
    wbuf := t.wbuf, castout := t.castout, mem := t.mem, bus := t.bus, intruders := t.intruders, freeCount := t.freeCount }

theorem DrainSide.refl (s : State) : DrainSide s s := ⟨rfl⟩

theorem DrainSide.trans (hst : DrainSide s t) (htu : DrainSide t u) : DrainSide s u :=
  ⟨by rw [htu.eq, hst.eq]⟩

theorem DrainSide.icache (h : DrainSide s t) : t.icache = s.icache := by rw [h.eq]
theorem DrainSide.dcache (h : DrainSide s t) : t.dcache = s.dcache := by rw [h.eq]
theorem DrainSide.regs (h : DrainSide s t) : t.regs = s.regs := by rw [h.eq]
theorem DrainSide.pc (h : DrainSide s t) : t.pc = s.pc := by rw [h.eq]
theorem DrainSide.cpsr (h : DrainSide s t) : t.cpsr = s.cpsr := by rw [h.eq]
theorem DrainSide.run (h : DrainSide s t) : t.run = s.run := by rw [h.eq]
theorem DrainSide.pm (h : DrainSide s t) : t.pm = s.pm := by rw [h.eq]

theorem drainSide_of_buffers (s : State) (w : List WriteEntry) (c : Option Castout) (m : List Host.Cell) :
    DrainSide s { s with wbuf := w, castout := c, mem := m } := ⟨rfl⟩

theorem useFree_drainSide (s : State) : DrainSide s s.useFree := ⟨rfl⟩

theorem record_drainSide (s : State) (r : BusRecord) : DrainSide s (s.record r) := by
  obtain ⟨m, i, h⟩ := s.record_eq r
  rw [h]
  exact ⟨rfl⟩

theorem drainEntry_drainSide (s : State) (e : WriteEntry) : DrainSide s (drainEntry s e) := by
  unfold drainEntry busWrite
  dsimp only
  split <;> dsimp only
  · exact record_drainSide s _
  · exact (drainSide_of_buffers s s.wbuf s.castout _).trans (record_drainSide _ _)
  · exact record_drainSide s _

theorem castoutBeat_drainSide (line : Word) (d : Vector Word 8) (s : State) (k : BitVec 2) :
    DrainSide s (castoutBeat line d s k) := by
  unfold castoutBeat
  dsimp only
  split
  · exact ((drainSide_of_buffers s s.wbuf s.castout _).trans (record_drainSide _ _)).trans (useFree_drainSide _)
  · exact (record_drainSide s _).trans (useFree_drainSide _)

/-- A run of transfers each of which is a `DrainSide` move is one. -/
theorem foldl_drainSide {β : Type} (f : State → β → State) (hf : ∀ s b, DrainSide s (f s b)) (l : List β) (s : State) :
    DrainSide s (l.foldl f s) := by
  induction l generalizing s with
  | nil => exact DrainSide.refl s
  | cons b l ih => exact (hf s b).trans (ih (f s b))

theorem castoutBeats_drainSide (x : Castout) (s : State) : DrainSide s (castoutBeats x s) :=
  foldl_drainSide _ (castoutBeat_drainSide _ _) _ s

theorem drainCastout_drainSide (s : State) : DrainSide s (drainCastout s) := by
  cases h : s.castout with
  | none =>
    rw [drainCastout, h]
    exact DrainSide.refl s
  | some x =>
    rw [drainCastout_some h]
    exact (castoutBeats_drainSide x s).trans (drainSide_of_buffers _ _ _ _)

theorem drainOne_drainSide (s : State) : DrainSide s (drainOne s) := by
  unfold drainOne
  split
  · exact drainCastout_drainSide s
  · exact (drainSide_of_buffers s _ _ s.mem).trans (drainEntry_drainSide _ _)
  · split
    · exact drainCastout_drainSide s
    · exact (drainSide_of_buffers s _ _ s.mem).trans (drainEntry_drainSide _ _)

theorem drains_drainSide (n : Nat) (s : State) : DrainSide s (drains n s) := by
  induction n generalizing s with
  | zero => exact DrainSide.refl s
  | succ n ih => exact (drainOne_drainSide s).trans (ih _)

/-! ### Runs of drains -/

theorem drains_add (m n : Nat) (s : State) : drains (m + n) s = drains n (drains m s) := by
  induction m generalizing s with
  | zero =>
    rw [Nat.zero_add]
    rfl
  | succ m ih =>
    rw [Nat.add_right_comm]
    exact ih (drainOne s)

/-- The oldest entries drain, as long as no castout is older than one of them. -/
theorem drains_entries {l r : List WriteEntry} (hw : s.wbuf = l ++ r) (hx : ∀ x, s.castout = some x → l.length ≤ x.ahead) :
    drains l.length s =
      (l.foldl drainEntry s).withBuffers r (s.castout.map fun x => { x with ahead := x.ahead - l.length }) := by
  induction l generalizing s with
  | nil =>
    have same : (s.castout.map fun x => { x with ahead := x.ahead - 0 }) = s.castout := by
      cases s.castout <;> rfl
    rw [List.nil_append] at hw
    rw [List.length_nil, same, ← hw]
    rfl
  | cons e l ih =>
    have ahead : ∀ x, s.castout = some x → x.ahead ≠ 0 := fun x h => by
      have := hx x h
      rw [List.length_cons] at this
      omega
    have next : s.wbuf = e :: (l ++ r) := hw
    rw [List.length_cons, drains, drainOne_entry next ahead, ih (State.withBuffers_wbuf ..), drainEntries_withBuffers,
      State.withBuffers_withBuffers, State.withBuffers_castout, Option.map_map, List.foldl_cons]
    · congr 1
      cases s.castout with
      | none => rfl
      | some x => simp [Nat.sub_sub, Nat.add_comm]
    · intro x h
      rw [State.withBuffers_castout] at h
      obtain ⟨y, hy, rfl⟩ := Option.map_eq_some_iff.mp h
      have := hx y hy
      rw [List.length_cons] at this
      dsimp only
      omega

/-- Without a castout the whole write buffer drains entry by entry. -/
theorem drains_wbuf (hc : s.castout = none) :
    drains s.wbuf.length s = (s.wbuf.foldl drainEntry s).withBuffers [] none := by
  rw [drains_entries (r := []) (by rw [List.append_nil]) (by simp [hc]), hc]
  rfl

/-- The drain through a castout: the entries older than it, then its line. -/
theorem drains_throughCastout {x : Castout} (h : s.castout = some x) :
    drainThroughCastout s = drains (min x.ahead s.wbuf.length + 1) s := by
  have len : (s.wbuf.take x.ahead).length = min x.ahead s.wbuf.length := List.length_take
  have older := drains_entries (s := s) (List.take_append_drop x.ahead s.wbuf).symm
    (fun y hy => by rw [h] at hy; cases hy; rw [len]; omega)
  rw [drains_add, ← len, older, h, drainThroughCastout_some h]
  refine ((drainOne_castout (State.withBuffers_castout ..) ?_).trans ?_).symm
  · rw [State.withBuffers_wbuf, List.drop_eq_nil_iff]
    dsimp only
    omega
  · rw [castoutBeats_withBuffers, State.withBuffers_withBuffers]
    rfl

theorem drainThroughCastout_none (h : s.castout = none) : drainThroughCastout s = s := by rw [drainThroughCastout, h]

theorem drainThroughCastout_castout (s : State) : (drainThroughCastout s).castout = none := by
  cases h : s.castout with
  | none => rw [drainThroughCastout_none h, h]
  | some x => rw [drainThroughCastout_some h, State.withBuffers_castout]

/-- What the castout leaves, if there is one, drains after it. -/
theorem drainAll_eq (s : State) : drainAll s =
    ((drainThroughCastout s).wbuf.foldl drainEntry (drainThroughCastout s)).withBuffers [] none := by
  rw [← drainThroughCastout_castout s]
  exact drainEntries_withBuffers (drainThroughCastout s) [] (drainThroughCastout s).castout (drainThroughCastout s).wbuf

@[simp] theorem drainAll_wbuf (s : State) : (drainAll s).wbuf = [] := by rw [drainAll_eq, State.withBuffers_wbuf]

@[simp] theorem drainAll_castout (s : State) : (drainAll s).castout = none := by rw [drainAll_eq, State.withBuffers_castout]

/-- A full drain is as many drains as there are entries and castouts. -/
theorem drainAll_eq_drains (s : State) :
    drainAll s = drains (s.wbuf.length + (if s.castout.isSome then 1 else 0)) s := by
  rw [drainAll_eq, ← drains_wbuf (drainThroughCastout_castout s)]
  cases h : s.castout with
  | none =>
    rw [drainThroughCastout_none h]
    rfl
  | some x =>
    have left : (drainThroughCastout s).wbuf.length = s.wbuf.length - x.ahead := by
      rw [drainThroughCastout_some h, State.withBuffers_wbuf, List.length_drop]
    rw [left, drains_throughCastout h, ← drains_add, Option.isSome_some, if_pos rfl]
    congr 1
    omega

theorem drainThroughCastout_drains (s : State) : ∃ n, drainThroughCastout s = drains n s ∧ (s.castout = none → n = 0) := by
  cases h : s.castout with
  | none => exact ⟨0, drainThroughCastout_none h, fun _ => rfl⟩
  | some x => exact ⟨_, drains_throughCastout h, fun e => by cases e⟩

theorem drainAll_drainSide (s : State) : DrainSide s (drainAll s) := by
  rw [drainAll_eq_drains]
  exact drains_drainSide _ s

/-! ### Making room for a store (spec/22 R350) -/

/-- The oldest entry drains, after a castout that is older. -/
theorem drainEntryOut_drains (s : State) : ∃ n, drainEntryOut s = drains n s := by
  unfold drainEntryOut
  split
  · rename_i c hc
    split
    · rename_i h0
      have first : drainCastout s = drainOne s := by rw [drainCastout_some hc, drainOne_castout hc (.inr h0)]
      exact ⟨2, congrArg drainOne first⟩
    · exact ⟨1, rfl⟩
  · exact ⟨1, rfl⟩

theorem drainEntryOut_length {e : WriteEntry} {rest : List WriteEntry} (h : s.wbuf = e :: rest) :
    (drainEntryOut s).wbuf = rest := by
  unfold drainEntryOut
  split
  · rename_i c hc
    split
    · rw [drainCastout_some hc, drainOne_entry (State.withBuffers_wbuf .. |>.trans h) (by simp), State.withBuffers_wbuf]
    · rename_i h0
      rw [drainOne_entry h fun x hx => by rw [hc] at hx; cases hx; exact h0, State.withBuffers_wbuf]
  · rename_i hc
    rw [drainOne_entry h (by simp [hc]), State.withBuffers_wbuf]

/-- Entries drain out one by one. -/
theorem drainEntriesOut (k : Nat) (s : State) :
    (∃ n, (List.range k).foldl (fun t _ => drainEntryOut t) s = drains n s ∧ (k = 0 → n = 0)) ∧
    (k ≤ s.wbuf.length → ((List.range k).foldl (fun t _ => drainEntryOut t) s).wbuf.length = s.wbuf.length - k) := by
  induction k with
  | zero => exact ⟨⟨0, rfl, fun _ => rfl⟩, fun _ => rfl⟩
  | succ k ih =>
    obtain ⟨⟨n, hn, -⟩, hlen⟩ := ih
    rw [List.range_succ, List.foldl_append]
    refine ⟨?_, fun hk => ?_⟩
    · obtain ⟨m, hm⟩ := drainEntryOut_drains (drains n s)
      refine ⟨n + m, ?_, fun h => by omega⟩
      rw [drains_add, ← hm, hn]
      rfl
    · have before := hlen (by omega)
      obtain ⟨e, rest, h⟩ := List.exists_cons_of_length_pos (show 0 < List.length _ by rw [before]; omega)
      rw [h, List.length_cons] at before
      rw [List.foldl_cons, List.foldl_nil, drainEntryOut_length h]
      omega

/-- A store enters the write buffer after as many drains as make room for it. -/
theorem bufferWrite_drains (s : State) (e : WriteEntry) : ∃ n,
    bufferWrite e s = { drains n s with wbuf := (drains n s).wbuf ++ [e] } ∧
    (s.wbuf.length < wbufDepth s → n = 0) := by
  obtain ⟨⟨n, hn, h0⟩, -⟩ := drainEntriesOut (s.wbuf.length + 1 - wbufDepth s) s
  exact ⟨n, by rw [bufferWrite, makeRoom, hn], fun h => h0 (by omega)⟩

theorem wbufDepth_pos (s : State) : 0 < wbufDepth s := by
  unfold wbufDepth
  split <;> decide

theorem bufferWrite_length (s : State) (e : WriteEntry) :
    (bufferWrite e s).wbuf.length = s.wbuf.length - (s.wbuf.length + 1 - wbufDepth s) + 1 := by
  have depth := wbufDepth_pos s
  obtain ⟨-, hlen⟩ := drainEntriesOut (s.wbuf.length + 1 - wbufDepth s) s
  rw [← hlen (by omega)]
  exact List.length_append

end Sys2Proof.Machine
end

section
/-!
What a core reset leaves (O7; spec/70 R980-R985; spec/62 R952, R955).
-/
namespace Sys2Proof.Machine

variable {s t : State}

/-- A move of the outside world is one step (spec/92 Part 3). -/
theorem step_of_event {e : Event} {rest : List Event} (h : s.inputs = e :: rest) :
    step s = handleEvent e { s with inputs := rest } := by
  rw [step, stepBody, h]

/-! ### The status register -/

/-- Bits [26:0] of the CPSR after a reset: Supervisor mode, ARM state, interrupts masked (spec/70 R985). -/
theorem coreReset_cpsr_low (powerOn : Bool) (s : State) {i : Nat} (h : i < 27) :
    (coreReset powerOn s).cpsr.getLsbD i = (0xD3#32).getLsbD i := by
  rw [coreReset_cpsr, BitVec.getLsbD_or, BitVec.getLsbD_and]
  interval_cases i <;> simp

theorem coreReset_mode (powerOn : Bool) (s : State) : (coreReset powerOn s).mode = 0x13#5 := by
  apply BitVec.eq_of_getLsbD_eq
  intro i hi
  rw [State.mode, BitVec.getLsbD_extractLsb', Nat.zero_add, coreReset_cpsr_low powerOn s (by omega)]
  interval_cases i <;> rfl

/-! ### Empty TLBs and caches -/

/-- A reset TLB holds no entry (spec/11 R126). -/
theorem Tlb.reset_matching (mva : Word) : Tlb.reset.matching mva = [] := by
  simp [Tlb.matching, Tlb.reset]

theorem Tlb.reset_lockWord : Tlb.reset.lockWord = 0#32 := by decide

/-- Where every valid line has another tag, none is found. -/
theorem findTag_of_forall {tag : BitVec 23} {l : List (Option CacheLine)} (i : Nat)
    (h : ∀ x : CacheLine, some x ∈ l → x.tag ≠ tag) : findTag tag l i = none := by
  induction l generalizing i with
  | nil => rfl
  | cons o r ih =>
    have rest := ih (i + 1) fun x hx => h x (List.mem_cons_of_mem _ hx)
    cases o with
    | none => exact rest
    | some y => exact (if_neg (h y List.mem_cons_self)).trans rest

theorem lookup_of_forall {c : Cache} {mva : Word}
    (h : ∀ x : CacheLine, some x ∈ (c.seg (segOf mva)).toList → x.tag ≠ tagOf mva) : c.lookup mva = none := by
  rw [Cache.lookup, findTag_of_forall 0 h]

/-- A cache without a valid line hits nowhere (spec/22 R322, R380). -/
theorem lookup_of_noLines {c : Cache} (h : c.lines = Vector.replicate 16 (Vector.replicate 64 none)) (mva : Word) :
    c.lookup mva = none := by
  refine lookup_of_forall fun x hx => ?_
  have empty : (c.seg (segOf mva)).toList = List.replicate 64 none := by simp [Cache.seg, h]
  rw [empty, List.mem_replicate] at hx
  cases hx.2

/-! ### The debug unit -/

/-- The DSCR after a reset, bit by bit: GE, RF and DSCR[0] clear, WE set, and after the power was off T, MOE and DSCR[1] free
(spec/70 R985; spec/62 R953). -/
theorem resetDebug_dscr_getLsbD (s : State) (k : Nat) : (resetDebug s).dscr.getLsbD k =
    if powerRemoved s && (0x1000001E#32).getLsbD k then (Config.free (s.freeCount + 59)).getLsbD k
    else (s.dbg.dscr.getLsbD k && (0x7FFFFF7E#32).getLsbD k || (0x40#32).getLsbD k) := by
  have kept : ((s.dbg.dscr &&& 0x7FFFFF7E#32) ||| 0x40#32).getLsbD k =
      (s.dbg.dscr.getLsbD k && (0x7FFFFF7E#32).getLsbD k || (0x40#32).getLsbD k) := by
    rw [BitVec.getLsbD_or, BitVec.getLsbD_and]
  cases h : powerRemoved s <;> simp only [resetDebug, h, Bool.false_eq_true, if_false, if_true, Bool.false_and, Bool.true_and]
  · exact kept
  · rw [maskedWrite_getLsbD, kept]

/-- A bit that a reset keeps. -/
theorem resetDebug_dscr_kept (s : State) {k : Nat} (hf : powerRemoved s = false ∨ (0x1000001E#32).getLsbD k = false)
    (hk : (0x7FFFFF7E#32).getLsbD k = true) (hw : (0x40#32).getLsbD k = false) :
    (resetDebug s).dscr.getLsbD k = s.dbg.dscr.getLsbD k := by
  have named : (powerRemoved s && (0x1000001E#32).getLsbD k) = false := by
    obtain h | h := hf
    · rw [h, Bool.false_and]
    · rw [h, Bool.and_false]
  rw [resetDebug_dscr_getLsbD, named, if_neg Bool.false_ne_true, hk, hw, Bool.and_true, Bool.or_false]

/-- A bit that a reset clears. -/
theorem resetDebug_clear (s : State) {k : Nat} (hf : (0x1000001E#32).getLsbD k = false)
    (hk : (0x7FFFFF7E#32).getLsbD k = false) (hw : (0x40#32).getLsbD k = false) : (resetDebug s).dscr.getLsbD k = false := by
  rw [resetDebug_dscr_getLsbD, hf, Bool.and_false, if_neg Bool.false_ne_true, hk, hw, Bool.and_false, Bool.or_false]

theorem resetDebug_dscr_we (s : State) : (resetDebug s).dscr.getLsbD 6 = true := by
  rw [resetDebug_dscr_getLsbD, show (0x1000001E#32).getLsbD 6 = false from rfl, Bool.and_false, if_neg Bool.false_ne_true,
    show (0x40#32).getLsbD 6 = true from rfl, Bool.or_true]

/-- A field of bits that a reset keeps. -/
theorem resetDebug_dscr_field (s : State) {a n : Nat}
    (h : ∀ i, i < n → (resetDebug s).dscr.getLsbD (a + i) = s.dbg.dscr.getLsbD (a + i)) :
    (resetDebug s).dscr.extractLsb' a n = s.dbg.dscr.extractLsb' a n := by
  apply BitVec.eq_of_getLsbD_eq
  intro i hi
  rw [BitVec.getLsbD_extractLsb', BitVec.getLsbD_extractLsb', h i hi]

/-- A control register's E bit is clear (spec/70 R985). -/
theorem resetDebug_bc (s : State) (k : Fin 6) : (resetDebug s).bc[k].getLsbD 0 = false := by
  have e : (resetDebug s).bc[k] = (freeVector 6 (s.freeCount + 49))[k].extractLsb' 1 4 ++ 0#1 := Vector.getElem_map _ _
  rw [e]
  exact BitVec.getLsbD_append

theorem resetDebug_wc (s : State) (k : Fin 2) : (resetDebug s).wc[k].getLsbD 0 = false := by
  have e : (resetDebug s).wc[k] = (freeVector 2 (s.freeCount + 57))[k].extractLsb' 1 10 ++ 0#1 := Vector.getElem_map _ _
  rw [e]
  exact BitVec.getLsbD_append

theorem resetControl_eq (hivecs bigend : Bool) (pll : Word) : (Cp15.reset hivecs bigend pll).ctl =
    0x78#32 + (if hivecs then 0x2000#32 else 0#32) + (if bigend then 0x80#32 else 0#32) := by
  cases hivecs <;> cases bigend <;> rfl

/-! ### The two resets -/

/-- What a reset leaves alone. -/
theorem coreReset_tap (powerOn : Bool) (s : State) : (coreReset powerOn s).tap = s.tap := by simp only [coreReset]
theorem coreReset_pins (powerOn : Bool) (s : State) : (coreReset powerOn s).pins = s.pins := by simp only [coreReset]
theorem coreReset_inputs (powerOn : Bool) (s : State) : (coreReset powerOn s).inputs = s.inputs := by simp only [coreReset]
theorem coreReset_dbg (powerOn : Bool) (s : State) : (coreReset powerOn s).dbg = resetDebug s := by simp only [coreReset]

/-- Without power after SHUTDOWN and not in emulation: what only a power-on reset leaves (spec/62 R952). -/
def State.shutDown (s : State) : Prop :=
  s.run = .poweredDown ∧ s.pm.ackState.extractLsb' 2 2 = 0#2 ∧ s.pm.ackEmul = false

theorem handleSoftReset_of_shutDown (h : s.shutDown) : handleSoftReset s = .next s := if_pos h

theorem handleSoftReset_of_not_shutDown (h : ¬s.shutDown) : handleSoftReset s = .next (coreReset false s) := if_neg h

/-- The step of a reset: the pins are HIGH again and the core is reset. -/
theorem step_of_reset {rest : List Event} {powerOn : Bool}
    (h : s.inputs = (if powerOn then Event.powerOnReset else Event.softReset) :: rest)
    (hs : powerOn = false → ¬s.shutDown) :
    step s = .next (coreReset powerOn (resetReleased { s with inputs := rest })) := by
  cases powerOn with
  | true => exact step_of_event h
  | false => exact (step_of_event h).trans (handleSoftReset_of_not_shutDown (hs rfl))

/-- Without a removal of power T and MOE stay too. -/
theorem powerRemoved_of_kept (h : s.run ≠ .poweredDown ∨ s.pm.ackEmul = true) : powerRemoved s = false := by
  obtain h | h := h <;> simp [powerRemoved, h]

/-- Settles O7: the step is `coreReset`, whose fields are read off; what is not plain is the status register, the empty TLBs and
caches, and the DSCR. -/
theorem coreResetState : Obligations.CoreResetState := by
  refine ⟨fun s rest powerOn h hs => ?_, fun s rest h h1 h2 h3 => ?_⟩
  · let u := resetReleased { s with inputs := rest }
    have low := fun i (hi : i < 27) => coreReset_cpsr_low powerOn u hi
    refine ⟨coreReset powerOn u, step_of_reset h hs, coreReset_mode _ _, low 7 (by decide), low 6 (by decide), low 5 (by decide),
      rfl, resetControl_eq .., rfl, rfl, rfl, rfl, rfl, rfl, rfl, rfl, rfl, rfl,
      fun mva => ⟨Tlb.reset_matching mva, Tlb.reset_matching mva⟩, Tlb.reset_lockWord, Tlb.reset_lockWord, ?iBase, ?dBase, ?victims,
      ?noLines, ?lines, rfl, rfl, rfl, rfl, rfl, rfl, rfl, rfl, rfl, rfl, rfl, rfl, rfl, ?debugEnabled, ?halted, ?d29, ?d27,
      ?d16, ?d5, ?commrx, ?commtx, rfl, ?notRemoved, resetDebug_bc u, resetDebug_wc u, rfl, coreReset_mem _ _,
      coreReset_pins _ _, coreReset_tap _ _, coreReset_inputs _ _⟩
    case iBase | dBase => cases powerOn <;> rfl
    case victims => cases powerOn <;> exact fun g => ⟨Vector.getElem_replicate _, Vector.getElem_replicate _⟩
    case noLines =>
      rintro rfl
      exact fun mva => ⟨lookup_of_noLines rfl mva, lookup_of_noLines rfl mva⟩
    case lines =>
      rintro rfl
      exact ⟨rfl, rfl⟩
    case debugEnabled =>
      rw [State.debugEnabled, coreReset_dbg, resetDebug_clear u rfl rfl rfl, Bool.and_false]
    case halted | commrx => exact resetDebug_clear u rfl rfl rfl
    case commtx => exact resetDebug_dscr_we u
    case d29 | d16 =>
      refine resetDebug_dscr_field u fun i hi => ?_
      interval_cases i <;> exact resetDebug_dscr_kept u (.inr rfl) rfl rfl
    case d27 | d5 => exact resetDebug_dscr_kept u (.inr rfl) rfl rfl
    case notRemoved =>
      intro power
      have on : powerRemoved u = false := powerRemoved_of_kept power
      refine ⟨resetDebug_dscr_kept u (.inl on) rfl rfl, resetDebug_dscr_field u fun i hi => ?_⟩
      interval_cases i <;> exact resetDebug_dscr_kept u (.inl on) rfl rfl
  · exact (step_of_event h).trans (handleSoftReset_of_shutDown ⟨h1, h2, h3⟩)

end Sys2Proof.Machine
end

section
/-!
The power manager's mailbox (O60; spec/11 R143-R146; spec/60 R891; spec/62 R952-R960; spec/20 R222).
-/
namespace Sys2Proof.Machine

variable {s t : State}

/-! ### The entry to a low-power state (spec/20 R222) -/

theorem drainIfGranted_drainSide (s : State) : DrainSide s (drainIfGranted s) := by
  unfold drainIfGranted
  split
  · exact drainAll_drainSide s
  · exact DrainSide.refl s

theorem drainIfGranted_of_empty (hw : s.wbuf = []) (hc : s.castout = none) : drainIfGranted s = s := by
  rw [drainIfGranted, drainAll_of_empty hw hc, ite_self]

theorem buffersEmpty_iff : buffersEmpty s = true ↔ s.wbuf = [] ∧ s.castout = none := by
  simp [buffersEmpty]

/-- The entry is made, or it waits for the buffers. -/
theorem enterLowPower_cases (r : RunState) (s : State) :
    (buffersEmpty (drainIfGranted s) = true ∧ enterLowPower r s = { drainIfGranted s with
      run := r, pm := { s.pm with pending := none } }) ∨
    (buffersEmpty (drainIfGranted s) = false ∧ enterLowPower r s = { drainIfGranted s with
      pm := { s.pm with pending := some r } }) := by
  have pm := (drainIfGranted_drainSide s).pm
  cases h : buffersEmpty (drainIfGranted s)
  · refine .inr ⟨rfl, ?_⟩
    rw [← pm]
    exact if_neg (by simp [h])
  · refine .inl ⟨rfl, ?_⟩
    rw [← pm]
    exact if_pos h

/-- With nothing buffered the state is entered at once. -/
theorem enterLowPower_of_empty (r : RunState) (hw : s.wbuf = []) (hc : s.castout = none) :
    enterLowPower r s = { s with run := r, pm := { s.pm with pending := none } } := by
  have same := drainIfGranted_of_empty hw hc
  unfold enterLowPower
  rw [same]
  exact if_pos (buffersEmpty_iff.mpr ⟨hw, hc⟩)

/-- With the bus granted too, after the drains. -/
theorem enterLowPower_of_granted (r : RunState) (hg : s.pins.hgrantd = true) :
    enterLowPower r s = { drainAll s with run := r, pm := { (drainAll s).pm with pending := none } } := by
  have all : drainIfGranted s = drainAll s := by rw [drainIfGranted, if_pos hg]
  unfold enterLowPower
  rw [all]
  exact if_pos (buffersEmpty_iff.mpr ⟨drainAll_wbuf s, drainAll_castout s⟩)

/-- With the bus not granted and a store waiting it waits. -/
theorem enterLowPower_of_waiting (r : RunState) (hg : s.pins.hgrantd = false) (hw : s.wbuf ≠ []) :
    enterLowPower r s = { s with pm := { s.pm with pending := some r } } := by
  have same : drainIfGranted s = s := by rw [drainIfGranted, hg, if_neg Bool.false_ne_true]
  unfold enterLowPower
  rw [same]
  exact if_neg fun e => hw (buffersEmpty_iff.mp e).1

/-- An entry keeps the registers. -/
theorem enterLowPower_keeps (r : RunState) (s : State) : (enterLowPower r s).regs = s.regs ∧
    (enterLowPower r s).cpsr = s.cpsr ∧ (enterLowPower r s).pc = s.pc ∧ (enterLowPower r s).pm.w = s.pm.w ∧
    (enterLowPower r s).pm.txReq = s.pm.txReq := by
  have side := drainIfGranted_drainSide s
  obtain ⟨-, h⟩ | ⟨-, h⟩ := enterLowPower_cases r s <;> rw [h] <;> exact ⟨side.regs, side.cpsr, side.pc, rfl, rfl⟩

/-! ### Acknowledgements (spec/62 R953, R955) -/

/-- The power is off, or goes off when the buffers are empty. -/
theorem leavingPower_iff : leavingPower s = true ↔ s.run = .poweredDown ∨ s.pm.pending = some .poweredDown := by
  simp [leavingPower]

/-- The state bits of a command: IDLE is 10 (spec/11 R145). -/
theorem idle_iff : ∀ st : BitVec 4, st.extractLsb' 2 2 = 2#2 ↔ st.getLsbD 3 = true ∧ st.getLsbD 2 = false := by decide

/-- The handshake of a command is over. -/
def State.acked (s : State) : State := { s with pm := { s.pm with w := true, txReq := false } }

theorem handlePmTxAck_of_leaving (h : s.pm.txReq = true) (hl : leavingPower s = true) :
    handlePmTxAck s = .next s.acked := by
  simp only [handlePmTxAck, h, hl, if_true]
  rfl

theorem handlePmTxAck_of_idle (h : s.pm.txReq = true) (hl : leavingPower s = false)
    (hi : s.pm.txState.extractLsb' 2 2 = 2#2) : handlePmTxAck s = .next (enterLowPower .standby s.acked) := by
  obtain ⟨b3, b2⟩ := (idle_iff _).mp hi
  simp only [handlePmTxAck, h, hl, b3, b2, if_true, Bool.false_eq_true, if_false]
  rfl

/-- Any other command leaves the processor running; after DORMANT and SHUTDOWN the host may remove the power. -/
theorem handlePmTxAck_of_other (h : s.pm.txReq = true) (hl : leavingPower s = false)
    (hi : s.pm.txState.extractLsb' 2 2 ≠ 2#2) : ∃ t, handlePmTxAck s = .next t ∧
      t = { s with pm := t.pm } ∧ t.pm.w = true ∧ t.pm.txReq = false ∧
      (s.pm.txState.getLsbD 3 = false → t.pm.powerOff = true) := by
  cases b3 : s.pm.txState.getLsbD 3
  · refine ⟨{ s with pm := { s.acked.pm with powerOff := true, ackState := s.pm.txState, ackEmul := s.pm.txEmul } }, ?_,
      rfl, rfl, rfl, fun _ => rfl⟩
    simp only [handlePmTxAck, h, hl, b3, if_true, Bool.false_eq_true, if_false]
    rfl
  · have b2 : s.pm.txState.getLsbD 2 = true := by
      by_contra b2
      exact hi ((idle_iff _).mpr ⟨b3, by simpa using b2⟩)
    refine ⟨s.acked, ?_, rfl, rfl, rfl, fun e => by cases e⟩
    simp only [handlePmTxAck, h, hl, b3, b2, if_true, Bool.false_eq_true, if_false]
    rfl

/-! ### Without power -/

/-- The power is off, and nothing but its removal may still be waiting for the buffers. -/
def State.withoutPower (s : State) : Prop :=
  s.run = .poweredDown ∧ (s.pm.pending = none ∨ s.pm.pending = some .poweredDown)

theorem next_withoutPower (h : s.withoutPower) (ht : (.next s : Outcome State) = .next t) : t.withoutPower :=
  Host.Outcome.next.inj ht ▸ h

theorem enterLowPower_withoutPower (h : s.withoutPower) : (enterLowPower .poweredDown s).withoutPower := by
  obtain ⟨-, e⟩ | ⟨-, e⟩ := enterLowPower_cases .poweredDown s <;> rw [e]
  · exact ⟨rfl, .inl rfl⟩
  · exact ⟨(drainIfGranted_drainSide s).run.trans h.1, .inr rfl⟩

/-- Nothing runs without power. -/
theorem stepByRun_of_poweredDown (h : s.run = .poweredDown) : stepByRun s = .next s := by
  rw [stepByRun, h]

theorem processorStep_withoutPower (h : s.withoutPower) (ht : processorStep s = .next t) : t.withoutPower := by
  unfold processorStep at ht
  split at ht
  · exact next_withoutPower h ht
  · split at ht
    next r hr =>
      obtain hp | hp := h.2 <;> rw [hr] at hp <;> cases hp
      exact next_withoutPower (enterLowPower_withoutPower h) ht
    next =>
      rw [stepByRun_of_poweredDown h.1] at ht
      exact next_withoutPower h ht

/-- The moves that reset the core (spec/70 R980, R981). -/
def Event.resets : Event → Bool
  | .powerOnReset | .softReset | .resetPins .. => true
  | _ => false

/-- Only a reset ends the time without power (spec/62 R953). -/
theorem handleEvent_withoutPower {e : Event} (h : s.withoutPower) (he : e.resets = false)
    (ht : handleEvent e s = .next t) : t.withoutPower := by
  have off := h.1
  cases e with
  | powerOnReset | softReset | resetPins => cases he
  | hresetAlone => cases ht
  | nfiq | nirq | isync | edbgrq | hgrantd | hgranti | cpbusye | pconfigout | ntrst | otherMasterLater =>
    cases ht
    exact h
  | ntrstPin high =>
    cases high <;>
    · cases ht
      exact h
  | tck tms tdi =>
    rw [handleEvent, if_pos (.inl off)] at ht
    exact next_withoutPower h ht
  | pmTxAck =>
    cases sent : s.pm.txReq with
    | true =>
      rw [handleEvent, handlePmTxAck_of_leaving sent (leavingPower_iff.mpr (.inl off))] at ht
      exact next_withoutPower (s := s.acked) h ht
    | false =>
      rw [handleEvent, handlePmTxAck, sent] at ht
      cases ht
  | pmRxAck st emul =>
    rw [handleEvent, handlePmRxAck] at ht
    split at ht <;> cases ht
    exact h
  | powerOff =>
    rw [handleEvent, handlePowerOff] at ht
    split at ht <;> cases ht
    exact enterLowPower_withoutPower h
  | otherMaster pa v =>
    cases ht
    have side := otherMasterWrite_memSide pa v s
    exact ⟨side.run.trans off, by rw [side.pm]; exact h.2⟩
  | drain =>
    rw [handleEvent, if_pos off] at ht
    exact next_withoutPower h ht
  | prefetch =>
    rw [handleEvent, prefetchMore, off] at ht
    exact next_withoutPower h ht
  | quiet => exact processorStep_withoutPower h ht

/-- So it lasts over every step that is not a reset. -/
theorem step_withoutPower (h : s.withoutPower) (he : ∀ e rest, s.inputs = e :: rest → e.resets = false)
    (ht : step s = .next t) : t.withoutPower := by
  cases hi : s.inputs with
  | nil =>
    rw [step, stepBody, hi] at ht
    exact processorStep_withoutPower h ht
  | cons e rest =>
    rw [step_of_event hi] at ht
    exact handleEvent_withoutPower (s := { s with inputs := rest }) h (he e rest hi) ht

/-! ### SFRESETN LOW while the power goes (spec/62 R960) -/

/-- SFRESETN falls: a soft reset, which keeps the host's right to remove the power. -/
theorem handleResetPins_fall (hh : s.pins.hresetn = true) (hs : s.pins.sfresetn = true) (hr : s.run ≠ .poweredDown) :
    handleResetPins true false s =
      .next (coreReset false { s with pins := { s.pins with hresetn := true, sfresetn := false } }) := by
  have on : (s.run == RunState.poweredDown) = false := by simpa using hr
  simp only [handleResetPins, on, hh, hs]
  exact handleSoftReset_of_not_shutDown fun down => hr down.1

/-- It rises with the power back: a soft reset, as it was LOW. -/
theorem handleResetPins_rise (hh : s.pins.hresetn = true) (hs : s.pins.sfresetn = false) (hr : s.run = .poweredDown)
    (hd : ¬s.shutDown) : handleResetPins true true s =
      .next (coreReset false { s with pins := { s.pins with hresetn := true, sfresetn := true } }) := by
  have off : (s.run == RunState.poweredDown) = true := by simp [hr]
  simp only [handleResetPins, off, hh, hs]
  exact handleSoftReset_of_not_shutDown hd

theorem handlePowerOff_of_allowed (h : s.pm.powerOff = true) (hw : s.wbuf = []) (hc : s.castout = none) :
    handlePowerOff s = .next { s with run := .poweredDown, pm := { s.pm with pending := none } } := by
  rw [handlePowerOff, if_pos h, enterLowPower_of_empty _ hw hc]

/-- What a reset leaves of the right to remove the power. -/
theorem coreReset_powerOff (powerOn : Bool) (s : State) :
    (coreReset powerOn s).pm.powerOff = (s.pm.powerOff && !s.pins.sfresetn && s.run != .poweredDown) := rfl

/-- The removal of the power and the rise of SFRESETN, after its fall and a DORMANT command (spec/62 R960). -/
theorem steps_of_removal {rest : List Event} (hi : s.inputs = .powerOff :: .resetPins true true :: rest)
    (hp : s.pm.powerOff = true) (hw : s.wbuf = []) (hc : s.castout = none) (hh : s.pins.hresetn = true)
    (hs : s.pins.sfresetn = false) (ha : s.pm.ackState.extractLsb' 2 2 = 1#2) :
    ∃ s2 t, step s = .next s2 ∧ step s2 = .next t ∧ s2.run = .poweredDown ∧ t.run = .running ∧
      t.pc = (if s.pins.hivecsinit then 0xFFFF0000#32 else 0#32) ∧ t.mode = 0x13#5 ∧ t.icache.lines = s.icache.lines ∧
      t.dcache.lines = s.dcache.lines ∧ t.mem = s.mem ∧ t.pm.powerOff = false ∧ t.inputs = rest := by
  let off : State := { s with
    inputs := .resetPins true true :: rest, run := .poweredDown, pm := { s.pm with pending := none } }
  have removed : step s = .next off := (step_of_event hi).trans (handlePowerOff_of_allowed (s := { s with inputs := _ }) hp hw hc)
  have dormant : ¬State.shutDown { off with inputs := rest } := fun ⟨_, zero, _⟩ => by
    have zero' : s.pm.ackState.extractLsb' 2 2 = 0#2 := zero
    rw [ha] at zero'
    exact absurd zero' (by decide)
  have rise := (step_of_event (s := off) rfl).trans (handleResetPins_rise (s := { off with inputs := rest }) hh hs rfl dormant)
  exact ⟨off, _, removed, rise, rfl, rfl, rfl, coreReset_mode _ _, rfl, rfl, coreReset_mem _ _,
    (coreReset_powerOff _ _).trans (by rw [Bool.not_true, Bool.and_false, Bool.false_and]), coreReset_inputs _ _⟩

/-- The three steps of a removal of power with SFRESETN LOW around it. -/
theorem steps_of_dormant {rest : List Event}
    (hi : s.inputs = .resetPins true false :: .powerOff :: .resetPins true true :: rest) (hh : s.pins.hresetn = true)
    (hs : s.pins.sfresetn = true) (hr : s.run ≠ .poweredDown) (hp : s.pm.powerOff = true)
    (ha : s.pm.ackState.extractLsb' 2 2 = 1#2) :
    ∃ s1 s2 t, step s = .next s1 ∧ step s1 = .next s2 ∧ step s2 = .next t ∧ s1.run = .running ∧ s2.run = .poweredDown ∧
      t.run = .running ∧ t.pc = (if s.pins.hivecsinit then 0xFFFF0000#32 else 0#32) ∧ t.mode = 0x13#5 ∧
      t.icache.lines = s.icache.lines ∧ t.dcache.lines = s.dcache.lines ∧ t.mem = s.mem ∧ t.pm.powerOff = false ∧
      t.inputs = rest := by
  let u : State := { s with
    inputs := .powerOff :: .resetPins true true :: rest, pins := { s.pins with hresetn := true, sfresetn := false } }
  have fall : step s = .next (coreReset false u) :=
    (step_of_event hi).trans (handleResetPins_fall (s := { s with inputs := _ }) hh hs hr)
  have allowed : (coreReset false u).pm.powerOff = true := by simp [coreReset_powerOff, u, hp, hr]
  have pins := coreReset_pins false u
  obtain ⟨s2, t, step2, step3, off, run, pc, mode, ilines, dlines, mem, power, inputs⟩ :=
    steps_of_removal (coreReset_inputs false u) allowed rfl rfl (by rw [pins]) (by rw [pins]) ha
  rw [pins] at pc
  exact ⟨_, s2, t, fall, step2, step3, rfl, off, run, pc, mode, ilines, dlines, mem.trans (coreReset_mem false u), power, inputs⟩

/-- The acknowledgement of the command sent: the first clause of O60. -/
theorem step_of_pmTxAck {rest : List Event} (hi : s.inputs = .pmTxAck :: rest) (sent : s.pm.txReq = true) :
    ∃ t, step s = .next t ∧ t.pm.w = true ∧ t.pm.txReq = false ∧ t.regs = s.regs ∧ t.cpsr = s.cpsr ∧ t.pc = s.pc ∧
      (s.run = .poweredDown ∨ s.pm.pending = some .poweredDown →
        t.run = s.run ∧ t.pm.pending = s.pm.pending ∧ t.mem = s.mem) ∧
      (s.run ≠ .poweredDown → s.pm.pending ≠ some .poweredDown → s.pm.txState.extractLsb' 2 2 ≠ 2#2 →
        t.run = s.run ∧ t.mem = s.mem ∧ (s.pm.txState.getLsbD 3 = false → t.pm.powerOff = true)) ∧
      (s.run ≠ .poweredDown → s.pm.pending ≠ some .poweredDown → s.pm.txState.extractLsb' 2 2 = 2#2 →
        (s.wbuf = [] → s.castout = none → t.run = .standby ∧ t.mem = s.mem) ∧
        (s.pins.hgrantd = true → t.run = .standby ∧ t.wbuf = [] ∧ t.castout = none) ∧
        (s.pins.hgrantd = false → s.wbuf ≠ [] → t.run = s.run ∧ t.pm.pending = some .standby ∧ t.mem = s.mem)) := by
  let u : State := { s with inputs := rest }
  have event : step s = handlePmTxAck u := step_of_event hi
  by_cases leaving : s.run = .poweredDown ∨ s.pm.pending = some .poweredDown
  · refine ⟨u.acked, event.trans (handlePmTxAck_of_leaving sent (leavingPower_iff.mpr leaving)), rfl, rfl, rfl, rfl, rfl,
      fun _ => ⟨rfl, rfl, rfl⟩, fun hr hp => ?_, fun hr hp => ?_⟩ <;> exact absurd leaving (not_or.mpr ⟨hr, hp⟩)
  · have staying : leavingPower u = false := by
      rw [← Bool.not_eq_true, leavingPower_iff]
      exact leaving
    by_cases idle : s.pm.txState.extractLsb' 2 2 = 2#2
    · obtain ⟨regs, cpsr, pc, hw, hq⟩ := enterLowPower_keeps .standby u.acked
      refine ⟨_, event.trans (handlePmTxAck_of_idle sent staying idle), hw, hq, regs, cpsr, pc, fun h => absurd h leaving,
        fun _ _ h => absurd idle h, fun _ _ _ => ⟨fun empty none => ?_, fun granted => ?_, fun busy waiting => ?_⟩⟩
      · rw [enterLowPower_of_empty (s := u.acked) _ empty none]
        exact ⟨rfl, rfl⟩
      · rw [enterLowPower_of_granted (s := u.acked) _ granted]
        exact ⟨rfl, drainAll_wbuf _, drainAll_castout _⟩
      · rw [enterLowPower_of_waiting (s := u.acked) _ busy waiting]
        exact ⟨rfl, rfl, rfl⟩
    · obtain ⟨t, ht, same, hw, hq, off⟩ := handlePmTxAck_of_other (s := u) sent staying idle
      refine ⟨t, event.trans ht, hw, hq, ?_, ?_, ?_, fun h => absurd h leaving, fun _ _ _ => ⟨?_, ?_, off⟩,
        fun _ _ h => absurd h idle⟩ <;> rw [same]

/-- Settles O60: each clause is one move of the power manager or the host, or a step without power. -/
theorem powerManagerMailbox : Obligations.PowerManagerMailbox := by
  intro s rest st e
  refine ⟨step_of_pmTxAck, fun hi unsent => ?_, fun hi hp hw hc => ?_, fun hi hp => ?_, steps_of_dormant, fun hi hr hp => ?_,
    fun t hr hp ht he => ?_, fun hi hx => ?_, fun hi hx => ?_⟩
  · refine (step_of_event hi).trans ?_
    rw [handleEvent, handlePmTxAck, if_neg (by simp [unsent])]
  · exact ⟨_, (step_of_event hi).trans (handlePowerOff_of_allowed (s := { s with inputs := rest }) hp hw hc), rfl, rfl⟩
  · refine (step_of_event hi).trans ?_
    rw [handleEvent, handlePowerOff, if_neg (by simp [hp])]
  · rw [step, stepBody, hi]
    simp only [processorStep, hp, stepByRun_of_poweredDown hr, ite_self]
  · refine step_withoutPower ⟨hr, hp⟩ (fun event later hi => ?_) ht
    obtain ⟨power, soft, pins⟩ := he later
    cases event with
    | powerOnReset => exact absurd hi power
    | softReset => exact absurd hi soft
    | resetPins => exact absurd hi (pins _ _)
    | _ => rfl
  · exact (step_of_event hi).trans (if_pos hx)
  · exact (step_of_event hi).trans (if_neg (by simp [hx]))

end Sys2Proof.Machine
end

section
/-!
SUPPORT. What one drain puts on the bus and into memory: the bytes of an entry of the write buffer, or the four doublewords of a
castout (spec/20 R204, R205; spec/22 R353; spec/11 R111, R112).
-/
namespace Sys2Proof.Machine

variable {s : State} {m : List Host.Cell}

/-! ### The bytes of a transfer -/

/-- The place of a transfer of at most a word is its lowest byte. -/
theorem laneAddr_toNat (big : Bool) {size : BusSize} (h : size ≠ .dword) (pa : Word) :
    (laneAddr big size pa).toNat = transferBase big size pa := by
  cases size
  case byte => cases big <;> simp [laneAddr, alignDown, transferBase]
  case half => cases big <;> simp [laneAddr, alignDown, transferBase]
  case word => rfl
  case dword => exact absurd rfl h

theorem not_mem_storedBytes {big : Bool} {size : BusSize} {pa : Word} {x : Nat} (h : size ≠ .dword)
    (hx : x < transferBase big size pa ∨ transferBase big size pa + size.bytes ≤ x) : x ∉ storedBytes big size pa := by
  rw [← laneAddr_toNat big h] at hx
  cases size
  case dword => exact absurd rfl h
  all_goals
    simp only [storedBytes, BusSize.bytes, List.mem_cons, List.not_mem_nil, or_false] at hx ⊢
    omega

/-- The bytes that a transfer of at most a word leaves, lowest first (spec/20 R204). -/
theorem read_physWrite {big : Bool} {size : BusSize} {pa v : Word} (hs : size ≠ .dword) (h : Memory.wf m = true) {k : Nat}
    (hk : k < size.bytes) :
    Memory.read (physWrite m big size pa v) (transferBase big size pa + k) = v.extractLsb' (8 * k) 8 := by
  have room := laneAddr_room big size pa
  rw [← laneAddr_toNat big hs]
  cases size <;> simp only [storedBytes, List.mem_cons, List.not_mem_nil, or_false] at room <;>
    simp only [physWrite, BusSize.bytes] at hk ⊢
  case byte =>
    obtain rfl : k = 0 := by omega
    rw [Nat.add_zero, Memory.read_write h, if_pos rfl]
  case half =>
    have w0 := Memory.write_wf (v := v.extractLsb' 0 8) h (room _ (.inl rfl))
    rw [Memory.read_write w0, Memory.read_write h]
    interval_cases k <;> simp
  case word =>
    have w0 := Memory.write_wf (v := v.extractLsb' 0 8) h (room _ (.inl rfl))
    have w1 := Memory.write_wf (v := v.extractLsb' 8 8) w0 (room _ (.inr (.inl rfl)))
    have w2 := Memory.write_wf (v := v.extractLsb' 16 8) w1 (room _ (.inr (.inr (.inl rfl))))
    rw [Memory.read_write w2, Memory.read_write w1, Memory.read_write w0, Memory.read_write h]
    interval_cases k <;> simp
  case dword => exact absurd rfl hs

/-- The two words of a doubleword stand at its address and four behind. -/
theorem transferBase_words (big : Bool) (pa : Word) :
    transferBase big .word (alignDown .dword pa) = transferBase big .dword pa ∧
      transferBase big .word (alignDown .dword pa + 4#32) = transferBase big .dword pa + 4 := by
  have low : (alignDown .dword pa).toNat = pa.toNat / 8 * 8 := by
    have e : alignDown .dword pa = (pa >>> 3) <<< 3 := by
      apply BitVec.eq_of_getLsbD_eq
      intro i hi
      interval_cases i <;> simp [alignDown]
    rw [e, BitVec.toNat_shiftLeft, BitVec.toNat_ushiftRight, Nat.shiftRight_eq_div_pow, Nat.shiftLeft_eq]
    omega
  have word : ∀ x, transferBase big .word x = x.toNat / 4 * 4 := toNat_alignWord
  have dword : transferBase big .dword pa = pa.toNat / 8 * 8 := low
  have := pa.isLt
  rw [word, word, dword, BitVec.toNat_add, low]
  refine ⟨by omega, ?_⟩
  simp
  omega

/-- The bytes that a transfer leaves, lowest first (spec/20 R204, R205). -/
theorem read_physWriteWide {big : Bool} {size : BusSize} {pa : Word} {v : BitVec 64} (h : Memory.wf m = true) {k : Nat}
    (hk : k < size.bytes) :
    Memory.read (physWriteWide m big size pa v) (transferBase big size pa + k) = v.extractLsb' (8 * k) 8 := by
  have low : ∀ i, i < 4 → (v.extractLsb' 0 32).extractLsb' (8 * i) 8 = v.extractLsb' (8 * i) 8 := by
    intro i hi
    apply BitVec.eq_of_getLsbD_eq
    intro j hj
    simp [hj, show 8 * i + j < 32 by omega]
  have high : ∀ i, i < 4 → (v.extractLsb' 32 32).extractLsb' (8 * i) 8 = v.extractLsb' (8 * (4 + i)) 8 := by
    intro i hi
    apply BitVec.eq_of_getLsbD_eq
    intro j hj
    simp [hj, show 8 * i + j < 32 by omega, show 32 + (8 * i + j) = 8 * (4 + i) + j by omega]
  by_cases hs : size = .dword
  · subst hs
    obtain ⟨b0, b1⟩ := transferBase_words big pa
    by_cases hk4 : k < 4
    · have outside := not_mem_storedBytes (x := transferBase big .dword pa + k) (big := big) (size := .word)
        (pa := alignDown .dword pa + 4#32) (by decide) (.inl (by omega))
      rw [physWriteWide, read_physWrite_of_not_mem outside, ← b0, read_physWrite (by decide) h hk4, low k hk4]
    · obtain ⟨i, rfl⟩ := Nat.exists_eq_add_of_le (Nat.le_of_not_lt hk4)
      have hi : i < 4 := by
        simp only [BusSize.bytes] at hk
        omega
      rw [physWriteWide, ← Nat.add_assoc, ← b1, read_physWrite (by decide) (physWrite_wf h) hi, high i hi]
  · have hk4 : k < 4 := by
      cases size
      case dword => exact absurd rfl hs
      all_goals
        simp only [BusSize.bytes] at hk
        omega
    rw [physWriteWide_low hs, read_physWrite hs h hk, low k hk4]

/-- Every other byte stays. -/
theorem read_physWriteWide_outside {big : Bool} {size : BusSize} {pa : Word} {v : BitVec 64} {x : Nat}
    (hx : x < transferBase big size pa ∨ transferBase big size pa + size.bytes ≤ x) :
    Memory.read (physWriteWide m big size pa v) x = Memory.read m x := by
  by_cases hs : size = .dword
  · subst hs
    obtain ⟨b0, b1⟩ := transferBase_words big pa
    simp only [BusSize.bytes] at hx
    rw [physWriteWide, read_physWrite_of_not_mem (not_mem_storedBytes (by decide) (by simp only [BusSize.bytes]; omega)),
      read_physWrite_of_not_mem (not_mem_storedBytes (by decide) (by simp only [BusSize.bytes]; omega))]
  · rw [physWriteWide_low hs, read_physWrite_of_not_mem (not_mem_storedBytes hs hx)]

/-! ### An entry of the write buffer -/

/-- The transfer of an entry: its record, and to RAM its bytes (spec/22 R350). -/
theorem drainEntry_alone (hi : s.intruders = []) (e : WriteEntry) :
    ∃ r : BusRecord, (r.master = .dbiu ∧ r.write = true ∧ r.pa = e.pa ∧ r.size = e.size ∧ r.data = e.data ∧ r.hprot = e.prot) ∧
      drainEntry s e = { s with
        mem := if kindAt s.memMap e.pa.toNat = .ram then physWriteWide s.mem e.big e.size e.pa e.data else s.mem
        bus := r :: s.bus } := by
  refine ⟨⟨.dbiu, true, e.pa, e.size, e.data, e.prot, false, e.burst⟩, ⟨rfl, rfl, rfl, rfl, rfl, rfl⟩, ?_⟩
  unfold drainEntry busWrite
  dsimp only
  cases hk : kindAt s.memMap e.pa.toNat
  case ram =>
    rw [if_pos rfl]
    dsimp only
    exact record_alone (s := { s with mem := physWriteWide s.mem e.big e.size e.pa e.data }) hi _
  all_goals
    rw [if_neg (by decide)]
    dsimp only
    exact record_alone hi _

/-! ### A castout -/

/-- The address of a word of a line. -/
def lineWord (tag : BitVec 27) (j : Nat) : Word := tag ++ 0#5 + BitVec.ofNat 32 (4 * j)

theorem toNat_lineWord (tag : BitVec 27) {j : Nat} (h : j < 8) : (lineWord tag j).toNat = 32 * tag.toNat + 4 * j := by
  have base : (tag ++ 0#5 : Word).toNat = 32 * tag.toNat := by
    refine (BitVec.toNat_append tag 0#5).trans ?_
    simp [Nat.shiftLeft_eq, Nat.mul_comm]
  have := tag.isLt
  rw [lineWord, BitVec.toNat_add, base, BitVec.toNat_ofNat]
  omega

/-- The record of a castout's doubleword `k` (spec/22 R353). -/
def IsBeat (tag : BitVec 27) (d : Vector Word 8) (k : BitVec 2) (r : BusRecord) : Prop :=
  r.master = .dbiu ∧ r.write = true ∧ r.size = .dword ∧ r.burst = .wrap4 ∧ r.pa = lineWord tag (2 * k.toNat) ∧
    r.data = d[2 * k.toNat + 1]'(by omega) ++ d[2 * k.toNat]'(by omega)

/-- Memory after a castout's doubleword `k`. -/
def beatMem (m : List Host.Cell) (tag : BitVec 27) (d : Vector Word 8) (k : BitVec 2) : List Host.Cell :=
  physWrite (physWrite m false .word (lineWord tag (2 * k.toNat)) (d[2 * k.toNat]'(by omega)))
    false .word (lineWord tag (2 * k.toNat + 1)) (d[2 * k.toNat + 1]'(by omega))

/-- One doubleword of a castout: its record, and to RAM its two words. -/
theorem castoutBeat_alone (hi : s.intruders = []) (tag : BitVec 27) (d : Vector Word 8) (k : BitVec 2) :
    ∃ r, IsBeat tag d k r ∧ castoutBeat (tag ++ 0#5) d s k = { s with
      mem := if kindAt s.memMap (lineWord tag (2 * k.toNat)).toNat = .ram then beatMem s.mem tag d k else s.mem
      bus := r :: s.bus
      freeCount := s.freeCount + 1 } := by
  have hk := k.isLt
  have lo : tag ++ 0#5 + (k.zeroExtend 32 <<< 3) = lineWord tag (2 * k.toNat) := by
    rw [lineWord]
    congr 1
    apply BitVec.eq_of_toNat_eq
    simp [Nat.shiftLeft_eq]
    omega
  have hi' : lineWord tag (2 * k.toNat) + 4#32 = lineWord tag (2 * k.toNat + 1) := by
    rw [lineWord, lineWord, BitVec.add_assoc]
    congr 1
    apply BitVec.eq_of_toNat_eq
    simp
    omega
  have word : ∀ j (h : j < 8), d.toList.getD j 0#32 = d[j] := fun j h => by simp [h]
  have w0 := word (2 * k.toNat) (by omega)
  have w1 := word (2 * k.toNat + 1) (by omega)
  refine ⟨⟨.dbiu, true, lineWord tag (2 * k.toNat), .dword, _, hprot true (s.freeVal.getLsbD 0) true true, false, .wrap4⟩,
    ⟨rfl, rfl, rfl, rfl, rfl, rfl⟩, ?_⟩
  unfold castoutBeat
  simp only [lo, hi', w0, w1]
  cases hk : kindAt s.memMap (lineWord tag (2 * k.toNat)).toNat
  case ram =>
    rw [if_pos rfl]
    exact congrArg State.useFree (record_alone (s := { s with mem := beatMem s.mem tag d k }) hi _)
  all_goals
    rw [if_neg (by decide)]
    exact congrArg State.useFree (record_alone hi _)


/-! ### The four doublewords -/

/-- A doubleword of a castout, in memory: where it is RAM. -/
def beatStep (map : List Region) (tag : BitVec 27) (d : Vector Word 8) (m : List Host.Cell) (k : BitVec 2) : List Host.Cell :=
  if kindAt map (lineWord tag (2 * k.toNat)).toNat = .ram then beatMem m tag d k else m

/-- Doublewords of a castout one after the other: a record and a free value for each. -/
theorem castoutBeats_alone (hi : s.intruders = []) (tag : BitVec 27) (d : Vector Word 8) (ks : List (BitVec 2)) :
    ∃ rs : List BusRecord, List.Forall₂ (IsBeat tag d) ks rs ∧ ks.foldl (castoutBeat (tag ++ 0#5) d) s = { s with
      mem := ks.foldl (beatStep s.memMap tag d) s.mem
      bus := rs.reverse ++ s.bus
      freeCount := s.freeCount + ks.length } := by
  induction ks generalizing s with
  | nil => exact ⟨[], .nil, rfl⟩
  | cons k ks ih =>
    obtain ⟨r, hr, e⟩ := castoutBeat_alone hi tag d k
    obtain ⟨rs, hrs, e'⟩ := ih (s := castoutBeat (tag ++ 0#5) d s k) (by rw [e]; exact hi)
    refine ⟨r :: rs, .cons hr hrs, ?_⟩
    rw [List.foldl_cons, e', e]
    simp [beatStep, Nat.add_assoc, Nat.add_comm]

/-- A word of a line is whole within it: where a word's transfer is, and where it is not. -/
theorem transferBase_lineWord (tag : BitVec 27) {j : Nat} (h : j < 8) :
    transferBase false .word (lineWord tag j) = 32 * tag.toNat + 4 * j := by
  refine (toNat_alignWord _).trans ?_
  rw [toNat_lineWord tag h]
  omega

/-- Reading a word of a line after a write of one: that word, or what was there. -/
theorem physRead_lineWord_write {tag : BitVec 27} {i j : Nat} {v : Word} (h : Memory.wf m = true) (hj : j < 8) (hi : i < 8) :
    physRead (physWrite m false .word (lineWord tag i) v) false .word (lineWord tag j) =
      if i = j then v else physRead m false .word (lineWord tag j) := by
  split
  · rename_i e
    subst e
    exact physRead_physWrite h
  · rename_i ne
    have base : (laneAddr false .word (lineWord tag j)).toNat = 32 * tag.toNat + 4 * j := by
      rw [laneAddr_toNat false (by decide), transferBase_lineWord tag hj]
    have other : ∀ b < 4, Memory.read (physWrite m false .word (lineWord tag i) v) (32 * tag.toNat + 4 * j + b) =
        Memory.read m (32 * tag.toNat + 4 * j + b) := fun b hb =>
      read_physWrite_of_not_mem (not_mem_storedBytes (by decide) (by
        rw [transferBase_lineWord tag hi]
        simp only [BusSize.bytes]
        omega))
    have lowest := other 0 (by decide)
    rw [Nat.add_zero] at lowest
    simp only [physRead, base, lowest, other 1 (by decide), other 2 (by decide), other 3 (by decide)]

/-- The words of a line after one doubleword of its castout. -/
theorem physRead_beatMem {tag : BitVec 27} {d : Vector Word 8} {k : BitVec 2} (h : Memory.wf m = true) {j : Nat} (hj : j < 8) :
    physRead (beatMem m tag d k) false .word (lineWord tag j) =
      if BitVec.ofNat 2 (j / 2) = k then d[j] else physRead m false .word (lineWord tag j) := by
  have same : BitVec.ofNat 2 (j / 2) = k ↔ 2 * k.toNat = j ∨ 2 * k.toNat + 1 = j := by
    rw [← BitVec.toNat_inj, BitVec.toNat_ofNat, Nat.mod_eq_of_lt (by omega)]
    omega
  rw [beatMem, physRead_lineWord_write (physWrite_wf h) hj (by omega), physRead_lineWord_write h hj (by omega)]
  by_cases h1 : 2 * k.toNat + 1 = j
  · rw [if_pos h1, if_pos (same.mpr (.inr h1))]
    simp only [h1]
  · rw [if_neg h1]
    by_cases h0 : 2 * k.toNat = j
    · rw [if_pos h0, if_pos (same.mpr (.inl h0))]
      simp only [h0]
    · rw [if_neg h0, if_neg fun e => (same.mp e).elim h0 h1]

/-- The bytes of other lines stay. -/
theorem read_beatMem {tag : BitVec 27} {d : Vector Word 8} {k : BitVec 2} {y : Nat} (hy : y / 32 ≠ tag.toNat) :
    Memory.read (beatMem m tag d k) y = Memory.read m y := by
  have outside : ∀ j < 8, y ∉ storedBytes false .word (lineWord tag j) := fun j hj =>
    not_mem_storedBytes (by decide) (by
      rw [transferBase_lineWord tag hj]
      simp only [BusSize.bytes]
      omega)
  rw [beatMem, read_physWrite_of_not_mem (outside _ (by omega)), read_physWrite_of_not_mem (outside _ (by omega))]

/-- The words of a line after doublewords of its castout, where all memory is RAM. -/
theorem physRead_beats {tag : BitVec 27} {d : Vector Word 8} (ks : List (BitVec 2)) (h : Memory.wf m = true) {j : Nat}
    (hj : j < 8) : physRead (ks.foldl (beatStep [] tag d) m) false .word (lineWord tag j) =
      if BitVec.ofNat 2 (j / 2) ∈ ks then d[j] else physRead m false .word (lineWord tag j) := by
  induction ks generalizing m with
  | nil => rfl
  | cons k ks ih =>
    have next : beatStep [] tag d m k = beatMem m tag d k := if_pos rfl
    rw [List.foldl_cons, next, ih (m := beatMem m tag d k) (physWrite_wf (physWrite_wf h)), physRead_beatMem h hj]
    by_cases h1 : BitVec.ofNat 2 (j / 2) = k <;> by_cases h2 : BitVec.ofNat 2 (j / 2) ∈ ks <;> simp [h1, h2]

theorem read_beats {tag : BitVec 27} {d : Vector Word 8} (ks : List (BitVec 2)) {y : Nat} (hy : y / 32 ≠ tag.toNat) :
    Memory.read (ks.foldl (beatStep [] tag d) m) y = Memory.read m y := by
  induction ks generalizing m with
  | nil => rfl
  | cons k ks ih =>
    have next : beatStep [] tag d m k = beatMem m tag d k := if_pos rfl
    rw [List.foldl_cons, next, ih, read_beatMem hy]

/-! ### One drain -/

/-- The oldest entry of the write buffer drains. -/
theorem drainOne_entry_alone (hi : s.intruders = []) {e : WriteEntry} {rest : List WriteEntry} (h : s.wbuf = e :: rest)
    (hx : ∀ x, s.castout = some x → x.ahead ≠ 0) :
    ∃ r : BusRecord, (r.master = .dbiu ∧ r.write = true ∧ r.pa = e.pa ∧ r.size = e.size ∧ r.data = e.data ∧ r.hprot = e.prot) ∧
      drainOne s = { s with
        wbuf := rest
        castout := s.castout.map fun x => { x with ahead := x.ahead - 1 }
        mem := if kindAt s.memMap e.pa.toNat = .ram then physWriteWide s.mem e.big e.size e.pa e.data else s.mem
        bus := r :: s.bus } := by
  obtain ⟨r, hr, he⟩ := drainEntry_alone hi e
  exact ⟨r, hr, by rw [drainOne_entry h hx, he]; rfl⟩

/-- A castout drains. -/
theorem drainOne_castout_alone (hi : s.intruders = []) {x : Castout} (h : s.castout = some x) (hw : s.wbuf = [] ∨ x.ahead = 0) :
    ∃ r : Fin 4 → BusRecord, (∀ k : Fin 4, IsBeat x.paTag x.data (x.start + BitVec.ofFin k) (r k)) ∧
      drainOne s = { s with
        castout := none
        mem := [x.start, x.start + 1#2, x.start + 2#2, x.start + 3#2].foldl (beatStep s.memMap x.paTag x.data) s.mem
        bus := r 3 :: r 2 :: r 1 :: r 0 :: s.bus
        freeCount := s.freeCount + 4 } := by
  obtain ⟨rs, hrs, e⟩ := castoutBeats_alone hi x.paTag x.data [x.start, x.start + 1#2, x.start + 2#2, x.start + 3#2]
  obtain _ | ⟨h0, _ | ⟨h1, _ | ⟨h2, _ | ⟨h3, _ | _⟩⟩⟩⟩ := hrs
  rename_i r0 r1 r2 r3
  refine ⟨![r0, r1, r2, r3], fun k => ?_, ?_⟩
  · match k with
    | 0 => exact (BitVec.add_zero x.start).symm ▸ h0
    | 1 => exact h1
    | 2 => exact h2
    | 3 => exact h3
  · rw [drainOne_castout h hw, castoutBeats, e]
    rfl

end Sys2Proof.Machine
end

section
/-!
SUPPORT. What the operations of CP15 c7 and c8 do to a TLB, to the lines of a cache and to the buffers (spec/11 R110-R120; spec/21
R257, R258; spec/22 R343-R345, R353, R380, R381).
-/
namespace Sys2Proof.Machine

variable {s t s1 : State} {c : Cache}

/-! ### TLB operations -/

/-- A TLB keeps its preserved entries (spec/21 R257). -/
theorem Tlb.invalidateAll_entries (t : Tlb) (k : Fin 64) :
    t.invalidateAll.entries[k] = t.entries[k].filter fun e => e.preserved := Vector.getElem_map _ _

theorem Tlb.invalidateOne_entries (t : Tlb) (mva : Word) (k : Fin 64) :
    (t.invalidateOne mva).entries[k] = t.entries[k].filter fun e => !e.hits mva := Vector.getElem_map _ _

/-- After an invalidate by address no entry matches the address (spec/21 R258). -/
theorem Tlb.invalidateOne_matching (t : Tlb) (mva : Word) : (t.invalidateOne mva).matching mva = [] := by
  rw [Tlb.matching, List.filterMap_eq_nil_iff]
  intro o ho
  obtain ⟨p, -, rfl⟩ := List.mem_map.mp (Vector.toList_map ▸ ho : o ∈ t.entries.toList.map _)
  cases p with
  | none => rfl
  | some e => cases he : e.hits mva <;> simp [Option.filter, he]

/-! ### The lines of a cache -/

theorem Cache.seg_set (c : Cache) (g h : BitVec 4) (v : Vector (Option CacheLine) 64) :
    Cache.seg { c with lines := c.lines.set g.toNat v g.isLt } h = if h = g then v else c.seg h := by
  by_cases e : h = g
  · subst e
    rw [if_pos rfl]
    exact Vector.getElem_set_self _
  · rw [if_neg e]
    exact Vector.getElem_set_ne g.isLt h.isLt fun n => e (BitVec.eq_of_toNat_eq n.symm)

theorem Cache.line_setLine (c : Cache) (g h : BitVec 4) (i k : BitVec 6) (o : Option CacheLine) :
    (c.setLine g k o).line h i = if h = g ∧ i = k then o else c.line h i := by
  have seg : (c.setLine g k o).seg h = if h = g then (c.seg g).set k.toNat o k.isLt else c.seg h := c.seg_set g h _
  rw [Cache.line, Cache.line]
  simp only [seg]
  by_cases e : h = g
  · subst e
    simp [Vector.getElem_set, ← BitVec.toNat_inj, eq_comm]
  · simp [e]

/-- The line that `findTag` finds is there, with the tag. -/
theorem findTag_some {tag : BitVec 23} {l : List (Option CacheLine)} {i k : Nat} {x : CacheLine}
    (h : findTag tag l i = some (k, x)) : i ≤ k ∧ l[k - i]? = some (some x) := by
  induction l generalizing i with
  | nil => cases h
  | cons o r ih =>
    have later : findTag tag r (i + 1) = some (k, x) → i ≤ k ∧ (o :: r)[k - i]? = some (some x) := fun h' => by
      obtain ⟨le, at_⟩ := ih h'
      refine ⟨by omega, ?_⟩
      rw [show k - i = (k - (i + 1)) + 1 by omega, List.getElem?_cons_succ, at_]
    cases o with
    | none => exact later h
    | some y =>
      rw [findTag] at h
      split at h
      · cases h
        simp
      · exact later h

/-- The line that hits stands in its segment at its index (spec/22 R321). -/
theorem Cache.line_of_lookup {mva : Word} {k : BitVec 6} {l : CacheLine} (h : c.lookup mva = some (k, l)) :
    c.line (segOf mva) k = some l := by
  rw [Cache.lookup] at h
  split at h
  · rename_i i x found
    cases h
    obtain ⟨-, at_⟩ := findTag_some found
    rw [Nat.sub_zero] at at_
    have lt : i < 64 := by
      have := (List.getElem?_eq_some_iff.mp at_).1
      simpa using this
    have e : (BitVec.ofNat 6 i).toNat = i := Nat.mod_eq_of_lt lt
    rw [Cache.line]
    simp only [e]
    simpa [lt] using at_
  · cases h

/-- A line with another tag is found as before where lines with a tag are dropped. -/
theorem findTag_filter {tag other : BitVec 23} (h : tag ≠ other) (l : List (Option CacheLine)) (i : Nat) :
    findTag tag (l.map fun o => o.filter fun x => x.tag != other) i = findTag tag l i := by
  induction l generalizing i with
  | nil => rfl
  | cons o r ih =>
    cases o with
    | none => exact ih (i + 1)
    | some x =>
      by_cases hx : x.tag = tag
      · have stays : (some x).filter (fun x => x.tag != other) = some x := by simp [Option.filter, hx, h]
        simp [findTag, stays, hx]
      · by_cases ho : x.tag = other
        · have drops : (some x).filter (fun x => x.tag != other) = none := by simp [Option.filter, ho]
          simp [findTag, drops, hx, ih]
        · have stays : (some x).filter (fun x => x.tag != other) = some x := by simp [Option.filter, ho]
          simp [findTag, stays, hx, ih]

theorem Cache.seg_invalidateOne (c : Cache) (mva : Word) (g : BitVec 4) : (c.invalidateOne mva).seg g =
    if g = segOf mva then (c.seg (segOf mva)).map fun o => o.filter fun l => l.tag != tagOf mva else c.seg g :=
  c.seg_set (segOf mva) g _

/-- After an invalidate by address the address misses (spec/22 R380). -/
theorem Cache.lookup_invalidateOne (c : Cache) (mva : Word) : (c.invalidateOne mva).lookup mva = none := by
  refine lookup_of_forall fun x hx => ?_
  rw [c.seg_invalidateOne, if_pos rfl, Vector.toList_map] at hx
  obtain ⟨o, -, ho⟩ := List.mem_map.mp hx
  have := (Option.filter_eq_some_iff.mp ho).2
  simpa using this

/-- Every other line is found as before. -/
theorem Cache.lookup_invalidateOne_other {mva x : Word} (h : segOf x ≠ segOf mva ∨ tagOf x ≠ tagOf mva) :
    (c.invalidateOne mva).lookup x = c.lookup x := by
  rw [Cache.lookup, Cache.lookup, c.seg_invalidateOne]
  by_cases hg : segOf x = segOf mva
  · rw [if_pos hg, Vector.toList_map, findTag_filter (h.resolve_left (not_not_intro hg)), hg]
  · rw [if_neg hg]

/-! ### Cleaning a line -/

/-- What cleaning makes of the buffers: drains of an earlier castout, and the line in the castout buffer if it is written back. -/
theorem castIfDirty_drains (l : CacheLine) (start : BitVec 2) (s : State) : ∃ n,
    castIfDirty (some l) start s = { drains n s with castout := (castIfDirty (some l) start s).castout } ∧
    (s.castout = none → n = 0) ∧
    (l.dirty = true → l.wb = true → (castIfDirty (some l) start s).castout.map (fun x => (x.paTag, x.data, x.start)) =
      some (l.paTag, l.data, start)) ∧
    (l.dirty = false ∨ l.wb = false → castIfDirty (some l) start s = s) := by
  cases h : l.dirty && l.wb
  · have same : castIfDirty (some l) start s = s := by
      simp only [castIfDirty, CacheLine.writtenBack, h, Bool.false_eq_true, if_false]
    refine ⟨0, by rw [same]; rfl, fun _ => rfl, fun hd hw => ?_, fun _ => same⟩
    rw [hd, hw] at h
    cases h
  · have cast : castIfDirty (some l) start s = castLine l start s := by
      simp only [castIfDirty, CacheLine.writtenBack, h, if_true]
    obtain ⟨hd, hw⟩ := Bool.and_eq_true_iff.mp h
    obtain ⟨n, hn, h0⟩ := drainThroughCastout_drains s
    refine ⟨n, by rw [cast, ← hn]; rfl, h0, fun _ _ => by rw [cast]; rfl, fun hc => ?_⟩
    rw [hd, hw] at hc
    simp at hc

/-- The line `l` at segment `g` and index `k`, its castout beginning at a doubleword, is cleaned in `s1`; `s` is the state before
the drains that come before. -/
structure Cleaned (s : State) (drop : Bool) (g : BitVec 4) (k : BitVec 6) (l : CacheLine) (start : BitVec 2) (s1 t : State) :
    Prop where
  lines : ∀ h i, t.dcache.line h i =
    if h = g ∧ i = k then (if drop then none else some { l with dirty := false }) else s1.dcache.line h i
  regs : t.regs = s.regs
  cpsr : t.cpsr = s.cpsr
  icache : t.icache = s.icache
  victim : t.dcache.victim = s.dcache.victim
  base : t.dcache.base = s.dcache.base
  drains : ∃ n, t = { drains n s1 with dcache := t.dcache, castout := t.castout } ∧ (s1.castout = none → n = 0)
  written : l.dirty = true → l.wb = true →
    t.castout.map (fun x => (x.paTag, x.data, x.start)) = some (l.paTag, l.data, start) ∧
    (s1.castout = none → t.mem = s1.mem ∧ t.wbuf = s1.wbuf)
  clean : l.dirty = false ∨ l.wb = false → t = { s1 with dcache := t.dcache }

theorem cleanLine_cleaned {drop : Bool} {g : BitVec 4} {k : BitVec 6} {l : CacheLine} {start : BitVec 2} (hd : DrainSide s s1)
    (hl : s1.dcache.line g k = some l) : Cleaned s drop g k l start s1 (cleanLine g k start drop s1) := by
  obtain ⟨n, hc, h0, hw, hn⟩ := castIfDirty_drains l start s1
  have hs := hd.trans (drains_drainSide n s1)
  have dc : (castIfDirty (some l) start s1).dcache = s1.dcache := by
    rw [hc]
    exact hs.dcache.trans hd.dcache.symm
  have e : cleanLine g k start drop s1 = { castIfDirty (some l) start s1 with
      dcache := s1.dcache.setLine g k (if drop then none else some { l with dirty := false }) } := by
    rw [cleanLine, hl, ← dc]
  rw [e]
  refine ⟨fun h i => Cache.line_setLine .., ?_, ?_, ?_, ?_, ?_, ⟨n, ?_, h0⟩, fun hd' hwb => ⟨hw hd' hwb, fun hx => ?_⟩, fun h => ?_⟩
  · rw [hc]; exact hs.regs
  · rw [hc]; exact hs.cpsr
  · rw [hc]; exact hs.icache
  · show s1.dcache.victim = s.dcache.victim
    rw [hd.dcache]
  · show s1.dcache.base = s.dcache.base
    rw [hd.dcache]
  · rw [hc]
  · rw [hc, h0 hx]; exact ⟨rfl, rfl⟩
  · rw [hn h]

/-! ### Prefetching a line (spec/22 R381) -/

/-- The ICache is off, or the line is there. -/
theorem prefetchLine_idle {v : Word} (hm : s.mmuOn = false) (hh : s.halted = false)
    (h : s.icacheOn = false ∨ (s.icache.lookup (relocate s.cp15.pid v)).isSome = true) : prefetchLine v s = .ok () s := by
  unfold prefetchLine
  simp only [hm, instrCachable_running hh, Bool.not_false, Bool.true_or, Bool.and_true]
  obtain off | hit := h
  · rw [off]
  · obtain ⟨x, hx⟩ := Option.isSome_iff_exists.mp hit
    rw [hx]
    cases s.icacheOn <;> rfl

theorem prefetchLine_miss {v : Word} (hm : s.mmuOn = false) (hh : s.halted = false) (ho : s.icacheOn = true)
    (h : s.icache.lookup (relocate s.cp15.pid v) = none) : prefetchLine v s =
      .ok () (instrFill (relocate s.cp15.pid v) (relocate s.cp15.pid v) s.priv (instrBufferable s false) s).2 := by
  unfold prefetchLine
  simp only [hm, instrCachable_running hh, ho, h, Bool.not_false, Bool.true_or, Bool.and_true]

end Sys2Proof.Machine
end

section
/-!
The cache, TLB and write-buffer operations of CP15, a drain, and a store that is buffered (O45; spec/11 R110-R120; spec/22
R350-R353).
-/
namespace Sys2Proof.Machine

variable {s : State}

/-! ### What one drain does (part 2) -/

/-- An entry's bytes in memory after its drain (log 12). -/
theorem drainedEntry_mem (s : State) (e : WriteEntry) {m : List Host.Cell}
    (h : m = if kindAt s.memMap e.pa.toNat = .ram then physWriteWide s.mem e.big e.size e.pa e.data else s.mem) :
    let a := transferBase e.big e.size e.pa
    (kindAt s.memMap e.pa.toNat = .ram →
      (Memory.wf s.mem = true → ∀ k, k < e.size.bytes → Memory.read m (a + k) = e.data.extractLsb' (8 * k) 8) ∧
      ∀ x, x < a ∨ a + e.size.bytes ≤ x → Memory.read m x = Memory.read s.mem x) ∧
    (kindAt s.memMap e.pa.toNat ≠ .ram → m = s.mem) := by
  refine ⟨fun ram => ?_, fun other => h.trans (if_neg other)⟩
  rw [h, if_pos ram]
  exact ⟨fun wf k hk => read_physWriteWide wf hk, fun x hx => read_physWriteWide_outside hx⟩

/-- A castout's line in memory after its drain. -/
theorem drainedCastout_mem (s : State) (x : Castout) {m : List Host.Cell} (hm : s.memMap = [])
    (h : m = [x.start, x.start + 1#2, x.start + 2#2, x.start + 3#2].foldl (beatStep s.memMap x.paTag x.data) s.mem) :
    (Memory.wf s.mem = true → ∀ k : Fin 8, physRead m false .word (lineWord x.paTag k) = x.data[k]) ∧
    ∀ y, y / 32 ≠ x.paTag.toNat → Memory.read m y = Memory.read s.mem y := by
  rw [h, hm]
  exact ⟨fun wf k => by rw [physRead_beats _ wf k.isLt, if_pos (beats_cover _ _ k.isLt)]; rfl, fun y hy => read_beats _ hy⟩

/-- Where the doubleword `k` of a castout goes, and its words. -/
theorem IsBeat.place {tag : BitVec 27} {d : Vector Word 8} {k : BitVec 2} {r : BusRecord} (h : IsBeat tag d k r) {j : Fin 4}
    (hj : k.toNat = j.val) :
    r.pa = tag ++ 0#5 + BitVec.ofNat 32 (8 * j.val) ∧ r.data = d[2 * j.val + 1] ++ d[2 * j.val] := by
  obtain ⟨-, -, -, -, pa, data⟩ := h
  obtain rfl : j = ⟨k.toNat, k.isLt⟩ := Fin.ext hj.symm
  refine ⟨?_, data⟩
  rw [pa, lineWord, ← Nat.mul_assoc]

/-! ### What a clean does (part 1) -/

theorem cleanByVa_miss {va : Word} {drop : Bool} (h : s.dcache.lookup (relocate s.cp15.pid va) = none) :
    cleanByVa va drop s = s := by
  simp only [cleanByVa, h]

theorem cleanByVa_hit {va : Word} {drop : Bool} {k : BitVec 6} {l : CacheLine}
    (h : s.dcache.lookup (relocate s.cp15.pid va) = some (k, l)) : cleanByVa va drop s =
      cleanLine (segOf (relocate s.cp15.pid va)) k ((relocate s.cp15.pid va).extractLsb' 3 2) drop s := by
  simp only [cleanByVa, h]

theorem cleanLine_none {g : BitVec 4} {k : BitVec 6} {start : BitVec 2} {drop : Bool} (h : s.dcache.line g k = none) :
    cleanLine g k start drop s = s := by
  simp only [cleanLine, h]

theorem State.canAdvance_cleanDrained (s : State) (g : BitVec 4) (k : BitVec 6) (start : BitVec 2) (drop : Bool) :
    (cleanLine g k start drop (drainAll s)).canAdvance = s.canAdvance :=
  (cleanLine_memSide g k start drop).canAdvance.trans (drainAll_memSide s).canAdvance

/-! ### Part 1 -/

/-- An operation with the word zero. -/
theorem cp15Write_zero {w : Cp15Write} {v : Word} {t : State} (he : cp15Write w v s = writeIf (v == 0#32) t) (hv : v = 0#32) :
    cp15Write w v s = .ok () t := he.trans (if_pos (beq_iff_eq.mpr hv))

theorem cp15Write_nonzero {w : Cp15Write} {v : Word} {t : State} (he : cp15Write w v s = writeIf (v == 0#32) t)
    (hv : v ≠ 0#32) : cp15Write w v s = .refuse .cp15ShouldBe := he.trans (if_neg (mt beq_iff_eq.mp hv))

/-- Settles O45: each operation is its write in `cp15Write`; a full drain and the making of room for a store are runs of single
drains, and a single drain is one entry or four doublewords of a castout. -/
theorem cacheAndTlbOperations : Obligations.CacheAndTlbOperations := by
  refine ⟨?operations, ?oneDrain, ?fullDrain, ?store⟩
  case operations =>
    intro c rd u hp hc hn v s mva op lines entries kept dropped lineGone cleaned byAddress byIndex
    have hs : s.canAdvance = true := (u.canAdvance_sending rd).trans hn
    have does {crn crm op2 t} {post : State → Prop} (w : Cp15Write) (hw : cp15WriteOf crn crm op2 = some w)
        (he : cp15Write w v s = .ok () t) (ht : t.canAdvance = true) (h : post t) : op crn crm op2 post :=
      ⟨t, exec_mcr_of_ok w hp hc hw he ht, h⟩
    have bad {crn crm op2 t} (hv : v ≠ 0#32) (w : Cp15Write) (hw : cp15WriteOf crn crm op2 = some w)
        (he : cp15Write w v s = writeIf (v == 0#32) t) : exec (.mcr c ⟨0#3, crn, rd, 15#4, op2, crm⟩) u = .refused .cp15ShouldBe :=
      exec_mcr_of_refuse w hp hc hw (cp15Write_nonzero he hv)
    have asCleaned {drop g k l start s1 t} (h : Cleaned s drop g k l start s1 t) : cleaned drop g k l start s1 t :=
      ⟨h.lines, h.regs, h.cpsr, h.icache, h.victim, h.base, h.drains, h.written, h.clean⟩
    have byVa (drop : Bool) : byAddress drop (cleanByVa v drop s) :=
      ⟨fun h => cleanByVa_miss h, fun k l h => by
        rw [cleanByVa_hit h]
        exact asCleaned (cleanLine_cleaned (DrainSide.refl s) (Cache.line_of_lookup h))⟩
    have byWay (drop : Bool) :
        byIndex drop (cleanLine (v.extractLsb' 5 4) (v.extractLsb' 26 6) (v.extractLsb' 3 2) drop (drainAll s)) := by
      have same := (drainAll_drainSide s).dcache
      refine ⟨fun h => cleanLine_none (by rw [same, h]), fun l h => asCleaned (cleanLine_cleaned (drainAll_drainSide s) ?_)⟩
      rw [same, h]
    have gone (a : Cache) : lineGone a (a.invalidateOne mva) :=
      ⟨a.lookup_invalidateOne mva, rfl, rfl, fun x hx => a.lookup_invalidateOne_other hx⟩
    have drained := (drainAll_memSide s).canAdvance.trans hs
    refine ⟨fun hv => ⟨
        does .invalidateICache rfl (cp15Write_zero rfl hv) hs ⟨rfl, lookup_of_noLines rfl⟩,
        does .invalidateDCache rfl (cp15Write_zero rfl hv) hs ⟨rfl, lookup_of_noLines rfl⟩,
        does .invalidateCaches rfl (cp15Write_zero rfl hv) hs ⟨rfl, fun a => ⟨lookup_of_noLines rfl a, lookup_of_noLines rfl a⟩⟩,
        does .drainWriteBuffer rfl (cp15Write_zero rfl hv) drained ⟨rfl, drainAll_wbuf s, drainAll_castout s⟩,
        does .invalidateITlb rfl (cp15Write_zero rfl hv) hs ⟨rfl, s.itlb.invalidateAll_entries⟩,
        does .invalidateDTlb rfl (cp15Write_zero rfl hv) hs ⟨rfl, s.dtlb.invalidateAll_entries⟩,
        does .invalidateTlbs rfl (cp15Write_zero rfl hv) hs
          ⟨rfl, s.itlb.invalidateAll_entries, s.dtlb.invalidateAll_entries⟩⟩,
      does .invalidateIEntry rfl rfl hs ⟨rfl, s.itlb.invalidateOne_entries mva, s.itlb.invalidateOne_matching mva⟩,
      does .invalidateDEntry rfl rfl hs ⟨rfl, s.dtlb.invalidateOne_entries mva, s.dtlb.invalidateOne_matching mva⟩,
      does .invalidateILine rfl rfl hs ⟨rfl, gone s.icache⟩,
      does .invalidateDLine rfl rfl hs ⟨rfl, gone s.dcache⟩,
      does .cleanDLine rfl rfl ((cleanByVa_memSide v false).canAdvance.trans hs) (byVa false),
      does .cleanInvalidateDLine rfl rfl ((cleanByVa_memSide v true).canAdvance.trans hs) (byVa true),
      fun hv => ⟨does .cleanDIndex rfl (if_pos (beq_iff_eq.mpr hv)) ((s.canAdvance_cleanDrained ..).trans hs) (byWay false),
        does .cleanInvalidateDIndex rfl (if_pos (beq_iff_eq.mpr hv)) ((s.canAdvance_cleanDrained ..).trans hs) (byWay true)⟩,
      ?badIndex, fun hv => ?nonzero, ?prefetch⟩
    case badIndex =>
      rintro hv crm (rfl | rfl)
      · exact exec_mcr_of_refuse .cleanDIndex hp hc rfl (if_neg (mt beq_iff_eq.mp hv))
      · exact exec_mcr_of_refuse .cleanInvalidateDIndex hp hc rfl (if_neg (mt beq_iff_eq.mp hv))
    case nonzero =>
      simp only [List.forall_mem_cons]
      exact ⟨bad hv .invalidateICache rfl rfl, bad hv .invalidateDCache rfl rfl, bad hv .invalidateCaches rfl rfl,
        bad hv .drainWriteBuffer rfl rfl, bad hv .invalidateITlb rfl rfl, bad hv .invalidateDTlb rfl rfl,
        bad hv .invalidateTlbs rfl rfl, List.forall_mem_nil _⟩
    case prefetch =>
      intro hm hh hmap hi
      by_cases miss : s.icacheOn = true ∧ s.icache.lookup mva = none
      · obtain ⟨on, none⟩ := miss
        obtain ⟨frame, filled⟩ := instrFill_alone (mva := mva) (pa := mva) (priv := s.priv)
          (b := instrBufferable s false) hmap hi none
        refine does .prefetchILine rfl (prefetchLine_miss hm hh on none) (by rw [frame]; exact hs)
          ⟨fun idle => ?_, fun _ _ => ⟨?_, _, filled, fun a ha => instrFill_word hmap hi ha⟩⟩
        · rw [on, none] at idle
          simp at idle
        · rw [frame]
      · have idle : s.icacheOn = false ∨ (s.icache.lookup mva).isSome = true := by
          rw [Option.isSome_iff_ne_none, ← Bool.not_eq_true, ← not_and_or]
          exact miss
        exact does .prefetchILine rfl (prefetchLine_idle hm hh idle) hs ⟨fun _ => rfl, fun on none => absurd ⟨on, none⟩ miss⟩
  case oneDrain =>
    intro s hi t
    constructor
    · intro e rest hw hx a
      obtain ⟨r, ⟨h1, h2, h3, h4, h5, h6⟩, ht⟩ := drainOne_entry_alone hi hw hx
      refine ⟨⟨r, h1, h2, h3, h4, h5, h6, ?_⟩, drainedEntry_mem s e (congrArg State.mem ht)⟩
      simp only [t, ht]
    · intro x hc hw line
      obtain ⟨r, hr, ht⟩ := drainOne_castout_alone hi hc hw
      refine ⟨by simp only [t, ht], ⟨r, congrArg State.bus ht, ?_⟩, fun hm => drainedCastout_mem s x hm (congrArg State.mem ht)⟩
      intro k d
      obtain ⟨h1, h2, h3, h4, -, -⟩ := hr k
      exact ⟨h1, h2, h3, h4, (hr k).place (BitVec.toNat_add _ _)⟩
  case fullDrain =>
    refine fun s => ⟨drainAll_eq_drains s, fun rest h hr => ?_⟩
    rw [step_of_event h]
    exact if_neg hr
  case store =>
    intro s e
    obtain ⟨n, hn, h0⟩ := bufferWrite_drains s e
    have len := bufferWrite_length s e
    have pos := wbufDepth_pos s
    have depth : wbufDepth s = if s.fastInt then 4 else 8 := rfl
    rw [← depth]
    exact ⟨n, hn, by omega, h0, fun h => by omega⟩

end Sys2Proof.Machine
end

section
/-!
MRC, MCR, LDC and STC of CP14 (O47; spec/12 R161-R185; spec/46 R722; spec/61 R925).
-/
namespace Sys2Proof.Machine

variable {s u : State}

/-! ### An access that CP14 names -/

theorem cp14RegOf_ba : ∀ k : Fin 6, cp14RegOf 4#3 (BitVec.ofNat 4 k) = some (.ba k) := by decide
theorem cp14RegOf_bc : ∀ k : Fin 6, cp14RegOf 5#3 (BitVec.ofNat 4 k) = some (.bc k) := by decide
theorem cp14RegOf_wa : ∀ k : Fin 2, cp14RegOf 6#3 (BitVec.ofNat 4 k) = some (.wa k) := by decide
theorem cp14RegOf_wc : ∀ k : Fin 2, cp14RegOf 7#3 (BitVec.ofNat 4 k) = some (.wc k) := by decide

/-- Software names a register that is there and that its mode may name (spec/12 R161). -/
theorem cp14Named_of_reg {rd : Reg} {crm : BitVec 4} {op2 : BitVec 3} {r : Cp14Reg} (hr : cp14RegOf op2 crm = some r)
    (hu : (s.priv || r.user) = true) : cp14Named ⟨0#3, 0#4, rd, 14#4, op2, crm⟩ s = some r := by
  rw [cp14Named, hr]
  exact (if_pos rfl).trans (Option.filter_some_pos hu)

/-- What completes an instruction reads DSCR[0] of the debug unit only. -/
theorem State.canAdvance_withDebug {d : Debug} (h : d.dscr.getLsbD 0 = s.dbg.dscr.getLsbD 0) :
    ({ s with dbg := d } : State).canAdvance = s.canAdvance :=
  State.canAdvance_congr rfl rfl h

theorem cp14Read_canAdvance (r : Cp14Reg) (s : State) : (cp14Read r s).2.canAdvance = s.canAdvance := by
  cases r
  case dtr => exact State.canAdvance_withDebug (by simp)
  all_goals rfl

/-- An MRC that is named gives Rd, or the flags, what the register answers. -/
theorem exec_mrc_of_cp14 {c : Cond} {rd : Reg} {crm : BitVec 4} {op2 : BitVec 3} {v : Word} {t : State} (r : Cp14Reg)
    (hc : s.passes c = true) (hn : s.canAdvance = true) (hr : cp14RegOf op2 crm = some r) (hu : (s.priv || r.user) = true)
    (hv : cp14Read r s = (v, t)) : exec (.mrc c ⟨0#3, 0#4, rd, 14#4, op2, crm⟩) s = .next (t.receive rd v).moveOn := by
  have next := cp14Read_canAdvance r s
  rw [hv] at next
  rw [exec_mrc_cp14 hc rfl, mrc14, cp14Named_of_reg hr hu]
  simp only [mrcResult_eq, hv]
  exact advance_of_canAdvance (by rw [State.canAdvance_receive, next, hn])

/-- An MCR that is named carries out the register's write on what it sends. -/
theorem exec_mcr_of_cp14 {c : Cond} {rd : Reg} {crm : BitVec 4} {op2 : BitVec 3} (r : Cp14Reg) (hc : s.passes c = true)
    (hr : cp14RegOf op2 crm = some r) (hu : (s.priv || r.user) = true) :
    exec (.mcr c ⟨0#3, 0#4, rd, 14#4, op2, crm⟩) s = cp14Write r (s.sent rd) (s.sending rd) := by
  rw [exec_mcr_cp14 hc rfl, mcr14, cp14Named_of_reg hr hu]
  simp only [mcrValue_eq]

/-- A write that changes the debug unit, DSCR[0] apart, is complete. -/
theorem advance_withDebug {d : Debug} (hn : s.canAdvance = true) (h : d.dscr.getLsbD 0 = s.dbg.dscr.getLsbD 0) :
    advance { s with dbg := d } = .next ({ s with dbg := d } : State).moveOn :=
  advance_of_canAdvance (by rw [State.canAdvance_withDebug h, hn])

/-! ### The registers (spec/12 R166, R175, R180-R185) -/

/-- The DSCR that an MRC reads: its reserved bits are free. -/
theorem getLsbD_dscrRead (free dscr : Word) {k : Nat}
    (h : k ∈ [31, 30, 29, 28, 23, 22, 20, 19, 18, 17, 16, 7, 6, 4, 3, 2]) :
    (maskedWrite free dscr 0xF0DF00DC#32).getLsbD k = dscr.getLsbD k := by
  have mask : ∀ i ∈ [31, 30, 29, 28, 23, 22, 20, 19, 18, 17, 16, 7, 6, 4, 3, 2], i < 32 ∧ (0xF0DF00DC#32).getLsbD i = true := by
    decide
  obtain ⟨small, set⟩ := mask k h
  rw [maskedWrite_getLsbD, set]
  simp

/-- The DSCR after an MCR: GE is written and a 0 clears the sticky abort bit (spec/12 R166, R169). -/
theorem getLsbD_dscrWrite (old v : Word) (k : Nat) : (dscrWrite old v).getLsbD k =
    if k = 31 then v.getLsbD 31 else if k = 5 then (old.getLsbD 5 && v.getLsbD 5) else old.getLsbD k := by
  rcases Nat.lt_or_ge k 32 with hk | hk
  · unfold dscrWrite
    cases h : v.getLsbD 5 <;> interval_cases k <;> simp
  · simp [BitVec.getLsbD_of_ge _ _ hk, show k ≠ 31 by omega, show k ≠ 5 by omega]

theorem bcAllowed_iff (v : Word) :
    bcAllowed v = true ↔ v &&& 0xFFFFFFE0#32 = 0#32 ∧ v &&& 0x18#32 ≠ 0#32 ∧ v &&& 6#32 ≠ 0#32 := by
  simp [bcAllowed, sbz, and_assoc]

theorem wcAllowed_iff (v : Word) : wcAllowed v = true ↔
    v &&& 0xFFFFF900#32 = 0#32 ∧ v &&& 0xE0#32 ≠ 0#32 ∧ v &&& 0x18#32 ≠ 0#32 ∧ v &&& 6#32 ≠ 0#32 := by
  simp [wcAllowed, sbz, and_assoc]

/-- Software writes the breakpoint and watchpoint registers but in halt mode outside debug state (spec/12 R185). -/
theorem lockedOut_eq_false_iff : lockedOut s = false ↔ s.haltMode = false ∨ s.halted = true := by
  rw [lockedOut, Bool.and_eq_false_iff, Bool.not_eq_false']

/-- A write of a breakpoint or watchpoint register while software may write them. -/
theorem cp14Write_unlocked (v : Word) (hn : u.canAdvance = true) (hl : lockedOut u = false) :
    (∀ k : Fin 6, cp14Write (.ba k) v u = .next ({ u with dbg := { u.dbg with ba := u.dbg.ba.set k v } } : State).moveOn) ∧
    (∀ k : Fin 2, cp14Write (.wa k) v u = .next ({ u with dbg := { u.dbg with wa := u.dbg.wa.set k v } } : State).moveOn) ∧
    (∀ k : Fin 6, cp14Write (.bc k) v u = if bcAllowed v = true
      then .next ({ u with dbg := { u.dbg with bc := u.dbg.bc.set k (v.extractLsb' 0 5) } } : State).moveOn
      else .refused .cp14ShouldBe) ∧
    (∀ k : Fin 2, cp14Write (.wc k) v u = if wcAllowed v = true
      then .next ({ u with dbg := { u.dbg with wc := u.dbg.wc.set k (v.extractLsb' 0 11) } } : State).moveOn
      else .refused .cp14ShouldBe) := by
  have unlocked : ¬lockedOut u = true := by rw [hl]; exact Bool.false_ne_true
  refine ⟨fun k => (if_neg unlocked).trans (advance_withDebug hn rfl), fun k => (if_neg unlocked).trans (advance_withDebug hn rfl),
    fun k => (if_neg unlocked).trans (congrArg (require _ _) (advance_withDebug hn rfl)),
    fun k => (if_neg unlocked).trans (congrArg (require _ _) (advance_withDebug hn rfl))⟩

/-- And while software is locked out (D15). -/
theorem cp14Write_locked (v : Word) (hn : u.canAdvance = true) (hl : lockedOut u = true) :
    (∀ k : Fin 6, cp14Write (.ba k) v u = .next u.moveOn ∧ cp14Write (.bc k) v u = .next u.moveOn) ∧
    (∀ k : Fin 2, cp14Write (.wa k) v u = .next u.moveOn ∧ cp14Write (.wc k) v u = .next u.moveOn) := by
  have go := advance_of_canAdvance hn
  exact ⟨fun k => ⟨(if_pos hl).trans go, (if_pos hl).trans go⟩, fun k => ⟨(if_pos hl).trans go, (if_pos hl).trans go⟩⟩

/-! ### LDC and STC (spec/46 R701, R722) -/

theorem exec_ldc_cp14 {c : Cond} {f : CpMem} (hc : s.passes c = true) (hf : f.cp = 14#4) : exec (.ldc c f) s = ldc14 f s :=
  (whenCond_pass hc).trans ((if_neg (by rw [hf]; decide)).trans (if_pos hf))

theorem exec_stc_cp14 {c : Cond} {f : CpMem} (hc : s.passes c = true) (hf : f.cp = 14#4) : exec (.stc c f) s = stc14 f s :=
  (whenCond_pass hc).trans ((if_neg (by rw [hf]; decide)).trans (if_pos hf))

/-- The base is written back and the instruction is complete. -/
theorem advance_cpWriteBase {f : CpMem} {v : Word} (hn : s.canAdvance = true) :
    advance (cpWriteBase f v s) = .next (if f.w then s.setReg f.rn v else s).moveOn := by
  refine advance_of_canAdvance ?_
  unfold cpWriteBase
  split
  · rw [State.canAdvance_setReg, hn]
  · exact hn

/-- An LDC of c5 puts the word it reads into the wDTR. -/
theorem ldc14_of_read {f : CpMem} {w : Word} (hf : f.crd = 5#4) (ha : cpMemAllowed f = true) (hn : s.canAdvance = true)
    (h : memReadMany (cpMultiple false s) 1 (cpStart f s) s = .ok [w] u) :
    ldc14 f s = .next (if f.w then (writeDtr w u).setReg f.rn (cpBase f s) else writeDtr w u).moveOn := by
  have side := memReadMany_readSide (cpMultiple false s) 1 (cpStart f s) s
  rw [h] at side
  rw [ldc14, if_pos hf, ha, require_true, h]
  refine advance_cpWriteBase ((State.canAdvance_withDebug ?_).trans (side.canAdvance.trans hn))
  simp

/-- An STC of c5 stores the rDTR. -/
theorem stc14_of_written {f : CpMem} (hf : f.crd = 5#4) (ha : cpMemAllowed f = true) (hn : s.canAdvance = true)
    (h : memWriteMany (cpMultiple false s) [s.dbg.rdtr] (cpStart f s) s = .ok () u) :
    stc14 f s = .next (if f.w then (readDtr u).setReg f.rn (cpBase f s) else readDtr u).moveOn := by
  have side := memWriteMany_memSide (cpMultiple false s) [s.dbg.rdtr] (cpStart f s) s
  rw [h] at side
  rw [stc14, if_pos hf, ha, require_true, h]
  refine advance_cpWriteBase ((State.canAdvance_withDebug ?_).trans (side.canAdvance.trans hn))
  simp

@[simp] theorem State.receive_dbg (s : State) (rd : Reg) (v : Word) : (s.receive rd v).dbg = s.dbg := by
  unfold State.receive
  split <;> simp

/-- COMMRX and COMMTX show the debug unit. -/
theorem State.comms_congr (h : u.dbg = s.dbg) : u.commrx = s.commrx ∧ u.commtx = s.commtx := by
  rw [State.commrx_eq, State.commtx_eq, h]
  exact ⟨rfl, rfl⟩

/-- Settles O47: each clause is a named MRC or MCR with what its register answers or takes, or the one word that an LDC or STC
moves. -/
theorem debugCoprocessor : Obligations.DebugCoprocessor := by
  intro c rd s hc hn v u mrc mcr dbg
  have hu : u.canAdvance = true := (s.canAdvance_sending rd).trans hn
  have same : u.dbg = s.dbg := s.sending_dbg rd
  have any {r : Cp14Reg} (h : r.user = true) : (s.priv || r.user) = true := by rw [h, Bool.or_true]
  have read {crm op2 w t} (r : Cp14Reg) := exec_mrc_of_cp14 (rd := rd) (crm := crm) (op2 := op2) (v := w) (t := t) r hc hn
  have write {crm op2} (r : Cp14Reg) := exec_mcr_of_cp14 (rd := rd) (crm := crm) (op2 := op2) r hc
  have mrcDtr : mrc 0#3 5#4 = .next ((readDtr s).receive rd s.dbg.rdtr).moveOn := read .dtr rfl (any rfl) rfl
  have mcrDtr : mcr 0#3 5#4 = .next (writeDtr v u).moveOn :=
    (write .dtr rfl (any rfl)).trans (advance_withDebug hu (by simp))
  refine ⟨read .didr rfl (any rfl) rfl, fun hh => ?didr, ?dscrRead, ?dscrWrite, mrcDtr, ?mcrDtr, fun t ht => ?readFlags,
    fun t ht => ?writeFlags, fun hp => ?comparators, fun f hf hr ha => ?barred, fun f hf hr ha => ?transfer⟩
  case didr =>
    refine (write .didr rfl (any rfl)).trans (undefinedInstr_of_running ?_)
    rw [State.halted, State.sending_dbg]
    exact hh
  case dscrRead => exact ⟨_, read .dscr rfl (any rfl) rfl, fun k _ hk => getLsbD_dscrRead _ _ hk⟩
  case dscrWrite =>
    have bits := getLsbD_dscrWrite s.dbg.dscr v
    refine ⟨dscrWrite s.dbg.dscr v, (write .dscr rfl (any rfl)).trans ?_, bits 31, bits 5, fun k h31 h5 => ?_⟩
    · rw [← same]
      exact advance_withDebug hu (by rw [getLsbD_dscrWrite]; rfl)
    · rw [bits, if_neg h31, if_neg h5]
  case mcrDtr =>
    rw [mcrDtr, writeDtr, same]
  case readFlags =>
    rw [mrcDtr] at ht
    cases ht
    obtain ⟨rx, tx⟩ := State.comms_congr ((readDtr s).receive_dbg rd s.dbg.rdtr)
    exact ⟨rx.trans (readDtr_commrx s), tx.trans (readDtr_commtx s)⟩
  case writeFlags =>
    rw [mcrDtr] at ht
    cases ht
    exact ⟨writeDtr_commtx v u, (writeDtr_commrx v u).trans (State.comms_congr same).1⟩
  case comparators =>
    have priv {r : Cp14Reg} : (s.priv || r.user) = true := by rw [hp, Bool.true_or]
    have lock : lockedOut u = lockedOut s := by rw [lockedOut, lockedOut, State.haltMode, State.halted, same]; rfl
    refine ⟨fun k => ⟨read (.ba k) (cp14RegOf_ba k) priv rfl, read (.bc k) (cp14RegOf_bc k) priv rfl⟩,
      fun k => ⟨read (.wa k) (cp14RegOf_wa k) priv rfl, read (.wc k) (cp14RegOf_wc k) priv rfl⟩, fun free => ?_,
      fun hm hh => ?_⟩
    · obtain ⟨ba, wa, bc, wc⟩ := cp14Write_unlocked v hu (lock.trans (lockedOut_eq_false_iff.mpr free))
      rw [same] at ba wa bc wc
      simp only [bcAllowed_iff, wcAllowed_iff] at bc wc
      exact ⟨fun k => ⟨(write (.ba k) (cp14RegOf_ba k) priv).trans (ba k), (write (.bc k) (cp14RegOf_bc k) priv).trans (bc k)⟩,
        fun k => ⟨(write (.wa k) (cp14RegOf_wa k) priv).trans (wa k), (write (.wc k) (cp14RegOf_wc k) priv).trans (wc k)⟩⟩
    · obtain ⟨b, w⟩ := cp14Write_locked v hu (lock.trans (by rw [lockedOut, hm, hh]; rfl))
      exact ⟨fun k => ⟨(write (.ba k) (cp14RegOf_ba k) priv).trans (b k).1, (write (.bc k) (cp14RegOf_bc k) priv).trans (b k).2⟩,
        fun k => ⟨(write (.wa k) (cp14RegOf_wa k) priv).trans (w k).1, (write (.wc k) (cp14RegOf_wc k) priv).trans (w k).2⟩⟩
  case barred =>
    rw [exec_ldc_cp14 hc hf, exec_stc_cp14 hc hf, ldc14, stc14, if_pos hr, if_pos hr, ha]
    exact ⟨rfl, rfl⟩
  case transfer =>
    exact ⟨fun s1 w h => (exec_ldc_cp14 hc hf).trans (ldc14_of_read hr ha hn h),
      fun s1 h => (exec_stc_cp14 hc hf).trans (stc14_of_written hr ha hn h)⟩

end Sys2Proof.Machine
end

section
/-!
What an access to memory leaves of the debug unit: all of it, until the access is compared with the watchpoints (spec/20 R210, R211;
spec/61 R907).
-/
namespace Sys2Proof.Machine

variable {s t u : State}

/-! ### Buses and buffers -/

theorem DrainSide.dbg (h : DrainSide s t) : t.dbg = s.dbg := by rw [h.eq]

theorem busRead_dbg (m : BusMaster) (size : BusSize) (pa : Word) (prot : BitVec 4) (locked : Bool) (s : State) :
    (busRead m size pa prot locked s).2.dbg = s.dbg := by
  unfold busRead
  split <;> simp

theorem busReadPair_dbg (m : BusMaster) (pa : Word) (prot : BitVec 4) (s : State) :
    (busReadPair m pa prot s).2.2.dbg = s.dbg := by
  unfold busReadPair
  split <;> simp

theorem fillBeats_dbg (m : BusMaster) (line : Word) (prot : BitVec 4) (l : List (BitVec 2)) (acc : Vector Word 8 × State) :
    (l.foldl (fillBeat m line prot) acc).2.dbg = acc.2.dbg := by
  induction l generalizing acc with
  | nil => rfl
  | cons k l ih => exact (ih _).trans (busReadPair_dbg m _ prot acc.2)

theorem readLine_dbg (m : BusMaster) (pa : Word) (prot : BitVec 4) (s : State) : (readLine m pa prot s).2.dbg = s.dbg :=
  fillBeats_dbg m _ prot _ _

theorem busWrite_dbg (big : Bool) (size : BusSize) (pa : Word) (v : BitVec 64) (prot : BitVec 4) (locked : Bool)
    (burst : Burst) (s : State) : (busWrite big size pa v prot locked burst s).2.dbg = s.dbg := by
  unfold busWrite
  split <;> simp

theorem bufferWrite_dbg (e : WriteEntry) (s : State) : (bufferWrite e s).dbg = s.dbg := by
  obtain ⟨n, h, -⟩ := bufferWrite_drains s e
  rw [h]
  exact (drains_drainSide n s).dbg

theorem castIfDirty_dbg (o : Option CacheLine) (start : BitVec 2) (s : State) : (castIfDirty o start s).dbg = s.dbg := by
  cases o with
  | none => rfl
  | some l =>
    obtain ⟨n, h, -⟩ := castIfDirty_drains l start s
    rw [h]
    exact (drains_drainSide n s).dbg

/-! ### The DCache -/

theorem dataFill_dbg (mva pa : Word) (wb priv : Bool) (s : State) : (dataFill mva pa wb priv s).2.dbg = s.dbg := by
  have filled := (readLine_dbg .dbiu pa (hprot true priv wb true) (drainAll s)).trans (drainAll_drainSide s).dbg
  unfold dataFill
  generalize readLine .dbiu pa (hprot true priv wb true) (drainAll s) = r at filled ⊢
  exact (castIfDirty_dbg (r.2.dcache.occupant mva) 0#2 r.2).trans filled

theorem storeInCache_dbg (loc : Located) (size : BusSize) (v : BitVec 64) (dirty : Bool) (s : State) :
    (storeInCache loc size v dirty s).dbg = s.dbg := by
  unfold storeInCache
  split
  · rfl
  · split <;> rfl

/-! ### Translation -/

theorem walkRead_dbg (side : Side) (pa : Word) (s : State) : (walkRead side pa s).2.dbg = s.dbg := by
  have read {t s1 : State} {prot : BitVec 4} {o : Option (BitVec 64)} (ht : t.dbg = s.dbg)
      (h : busRead side.master .word pa prot false t.useFree = (o, s1)) : s1.dbg = s.dbg := by
    have kept := busRead_dbg side.master .word pa prot false t.useFree
    rw [h] at kept
    exact kept.trans ht
  unfold walkRead
  dsimp only
  cases side
  case instr =>
    split
    next h => exact read rfl h
    next h => exact read rfl h
  case data =>
    split
    next h => exact read (drainAll_drainSide s).dbg h
    next h => exact read (drainAll_drainSide s).dbg h

theorem dbg_of_walkRead {side : Side} {pa : Word} {o : Option Word} (h : walkRead side pa s = (o, t)) : t.dbg = s.dbg := by
  have kept := walkRead_dbg side pa s
  rw [h] at kept
  exact kept

theorem tableWalk_dbg (side : Side) (mva : Word) (s : State) : (tableWalk side mva s).2.dbg = s.dbg := by
  unfold tableWalk
  dsimp only
  split
  next h => exact dbg_of_walkRead h
  next h =>
    have first := dbg_of_walkRead h
    split
    · exact first
    · exact first
    all_goals
      split
      next h' => exact (dbg_of_walkRead h').trans first
      next h' => exact (dbg_of_walkRead h').trans first

theorem usePermission_dbg (e : TlbEntry) (s : State) : (usePermission e s).dbg = s.dbg := by
  unfold usePermission
  split <;> rfl

theorem translate_dbg (side : Side) (mva : Word) (write priv : Bool) (s : State) :
    (translate side mva write priv s).2.dbg = s.dbg := by
  unfold translate
  split
  · exact usePermission_dbg _ s
  · rfl
  · split
    · rfl
    · have walked := tableWalk_dbg side mva s
      split
      next h =>
        rw [h] at walked
        exact walked
      next h =>
        rw [h] at walked
        cases side <;> exact walked

/-- A translated address: the debug unit is as it was. -/
theorem locate_dbg (va : Word) (write priv : Bool) (s : State) : (locate va write priv s).All fun t => t.dbg = s.dbg := by
  unfold locate
  dsimp only
  split
  · rfl
  · have kept := translate_dbg .data (relocate s.cp15.pid va) write priv s
    split
    next h =>
      rw [h] at kept
      exact kept
    next h =>
      rw [h] at kept
      exact kept
    · trivial

/-! ### The access -/

theorem readAt_dbg (loc : Located) (va : Word) (size : BusSize) (priv ext locked : Bool) (s : State) :
    (readAt loc va size priv ext locked s).All fun t => t.dbg = s.dbg := by
  unfold readAt
  split
  · split
    · rfl
    · exact dataFill_dbg _ _ _ _ s
  · have kept := (busRead_dbg .dbiu size (alignDown size loc.pa) (hprot true priv loc.b loc.c) locked (drainAll s)).trans
      (drainAll_drainSide s).dbg
    split
    next h =>
      rw [h] at kept
      exact kept
    next h =>
      rw [h] at kept
      cases ext <;> exact kept

theorem writeUnbuffered_dbg (loc : Located) (va : Word) (size : BusSize) (v : BitVec 64) (priv ext locked : Bool)
    (s : State) : (writeUnbuffered loc va size v priv ext locked s).All fun t => t.dbg = s.dbg := by
  have kept := (busWrite_dbg s.big size (alignDown size loc.pa) v (hprot true priv loc.b loc.c) locked .single
    (drainAll s)).trans (drainAll_drainSide s).dbg
  unfold writeUnbuffered
  split
  next h =>
    rw [h] at kept
    exact (storeInCache_dbg loc size v false _).trans kept
  next h =>
    rw [h] at kept
    cases ext
    · exact (storeInCache_dbg loc size v false _).trans kept
    · exact kept

theorem writeAt_dbg (loc : Located) (va : Word) (size : BusSize) (v : BitVec 64) (priv ext locked : Bool) (burst : Burst)
    (s : State) : (writeAt loc va size v priv ext locked burst s).All fun t => t.dbg = s.dbg := by
  unfold writeAt
  split
  · exact writeUnbuffered_dbg _ va size v priv ext true s
  · split
    · exact writeUnbuffered_dbg _ va size v priv ext false s
    · exact writeUnbuffered_dbg loc va size v priv ext false s
    · exact (bufferWrite_dbg _ _).trans (storeInCache_dbg loc size v false s)
    · exact (bufferWrite_dbg _ _).trans (storeInCache_dbg loc size v false s)
    · split
      · exact storeInCache_dbg loc size v true s
      · exact bufferWrite_dbg _ s

/-- What `bind` answers with, it answers after both operations. -/
theorem Res.bind_ok {α β : Type} {x : Res α} {k : α → State → Res β} {b : β} (h : x.bind k = .ok b t) :
    ∃ a s1, x = .ok a s1 ∧ k a s1 = .ok b t := by
  cases x with
  | ok a s1 => exact ⟨a, s1, rfl, h⟩
  | abort i s1 => cases h
  | refuse r => cases h

/-- A read that is answered ends in the comparison with the watchpoints. -/
theorem memRead_noted {va v : Word} {size : BusSize} {priv : Bool} (h : memRead va size priv s = .ok v t) :
    ∃ u, u.dbg = s.dbg ∧ t = noteAccess va size true priv u := by
  obtain ⟨wide, s0, h, e⟩ := Res.bind_ok h
  cases e
  unfold memReadWide at h
  split at h
  · cases h
  · obtain ⟨loc, s1, hl, h⟩ := Res.bind_ok h
    obtain ⟨w, u, hr, h⟩ := Res.bind_ok h
    have located := locate_dbg va false (Access.ordinary priv).priv s
    have read := readAt_dbg loc va size (Access.ordinary priv).priv (Access.ordinary priv).ext (Access.ordinary priv).locked s1
    rw [hl] at located
    rw [hr] at read
    cases h
    exact ⟨u, read.trans located, rfl⟩

theorem memWrite_noted {va v : Word} {size : BusSize} {priv : Bool} (h : memWrite va size v priv s = .ok () t) :
    ∃ u, u.dbg = s.dbg ∧ t = noteAccess va size false priv u := by
  unfold memWrite memWriteX memWriteWide at h
  split at h
  · cases h
  · obtain ⟨loc, s1, hl, h⟩ := Res.bind_ok h
    obtain ⟨w, u, hr, h⟩ := Res.bind_ok h
    have located := locate_dbg va true (Access.ordinary priv).priv s
    have written := writeAt_dbg loc va size ((carried size v).zeroExtend 64) (Access.ordinary priv).priv
      (Access.ordinary priv).ext (Access.ordinary priv).locked .single s1
    rw [hl] at located
    rw [hr] at written
    cases h
    exact ⟨u, written.trans located, rfl⟩

end Sys2Proof.Machine
end

section
/-!
Breakpoints, watchpoints and vector catches (O58; spec/12 R171, R180-R184; spec/61 R905-R908, R916; spec/11 R106-R109).
-/
namespace Sys2Proof.Machine

variable {s t u : State}

/-! ### The comparators (spec/61 R906, R907) -/

theorem fromBit1_eq_iff (a b : Word) : a.extractLsb' 1 31 = b.extractLsb' 1 31 ↔ a.toNat / 2 = b.toNat / 2 := by
  rw [← BitVec.toNat_inj]
  simp [Nat.shiftRight_eq_div_pow]
  omega

theorem fromBit2_eq_iff (a b : Word) : a.extractLsb' 2 30 = b.extractLsb' 2 30 ↔ a.toNat / 4 = b.toNat / 4 := by
  rw [← BitVec.toNat_inj]
  simp [Nat.shiftRight_eq_div_pow]
  omega

theorem breakMatches_iff (ba pc : Word) (bc : BitVec 5) (thumb priv : Bool) : breakMatches ba bc pc thumb priv = true ↔
    bc.getLsbD 0 = true ∧ (if thumb then ba.toNat / 2 = pc.toNat / 2 else ba.toNat / 4 = pc.toNat / 4) ∧
      (if thumb then bc.getLsbD 3 else bc.getLsbD 4) = true ∧ (if priv then bc.getLsbD 2 else bc.getLsbD 1) = true := by
  cases thumb
  · simp [breakMatches, and_assoc, fromBit2_eq_iff]
  · simp [breakMatches, and_assoc, fromBit1_eq_iff]

theorem watchMatches_iff {wa va : Word} {wc : BitVec 11} {size : BusSize} {load priv : Bool} (h : size ≠ .dword) :
    watchMatches wa wc va size load priv = true ↔ wc.getLsbD 0 = true ∧ va.toNat / 4 = wa.toNat / 4 ∧
      (wc.getLsbD 10 = false → va.getLsbD 1 = wa.getLsbD 1) ∧ (wc.getLsbD 9 = false → va.getLsbD 0 = wa.getLsbD 0) ∧
      (size = .byte → wc.getLsbD 5 = true) ∧ (size = .half → wc.getLsbD 6 = true) ∧ (size = .word → wc.getLsbD 7 = true) ∧
      (if load then wc.getLsbD 4 else wc.getLsbD 3) = true ∧ (if priv then wc.getLsbD 2 else wc.getLsbD 1) = true := by
  have masked (m b : Bool) (p : Prop) (hb : b = true ↔ p) : (m || b) = true ↔ (m = false → p) := by
    cases m <;> simp [hb]
  have bySize : watchSize wc size = true ↔
      (size = .byte → wc.getLsbD 5 = true) ∧ (size = .half → wc.getLsbD 6 = true) ∧ (size = .word → wc.getLsbD 7 = true) := by
    cases size <;> simp [watchSize] at h ⊢
  simp only [watchMatches, Bool.and_eq_true, beq_iff_eq, fromBit2_eq_iff, masked _ _ _ beq_iff_eq, bySize, and_assoc]

/-! ### Breakpoints are compared at the fetch (spec/61 R906) -/

theorem breakpointAt_iff (s : State) (pc : Word) (thumb : Bool) : breakpointAt s pc thumb = true ↔
    s.debugEnabled = true ∧ ∃ k : Fin 6, breakMatches s.dbg.ba[k] s.dbg.bc[k] pc thumb s.priv = true := by
  rw [breakpointAt, Bool.and_eq_true, List.any_eq_true]
  refine and_congr_right fun _ => ⟨?_, ?_⟩
  · rintro ⟨p, hp, hm⟩
    obtain ⟨k, hk, rfl⟩ := Vector.mem_iff_getElem.mp (Vector.mem_toList_iff.mp hp)
    rw [Vector.getElem_zip] at hm
    exact ⟨⟨k, hk⟩, hm⟩
  · rintro ⟨k, hm⟩
    refine ⟨(s.dbg.ba[k], s.dbg.bc[k]), Vector.mem_toList_iff.mpr (Vector.mem_iff_getElem.mpr ⟨k, k.isLt, ?_⟩), hm⟩
    exact Vector.getElem_zip

theorem fetchEntry_marks {prev : Option Prefetched} {pc : Word} {thumb : Bool} {p : Prefetched}
    (h : fetchEntry prev pc thumb s = .ok (p, t)) : p.addr = pc ∧ p.thumb = thumb ∧ p.breakpoint = breakpointAt s pc thumb := by
  unfold fetchEntry at h
  split at h
  · cases h
    exact ⟨rfl, rfl, rfl⟩
  · cases h

/-! ### Watchpoints are compared at the access (spec/61 R907) -/

theorem watched_iff {va : Word} {size : BusSize} {load priv : Bool} : watched s va size load priv = true ↔
    s.debugEnabled = true ∧ s.halted = false ∧
      ∃ k : Fin 2, watchMatches s.dbg.wa[k] s.dbg.wc[k] va size load priv = true := by
  simp [watched, Fin.exists_fin_two, and_assoc]

theorem noteAccess_watch {va : Word} {size : BusSize} {load priv : Bool} (hs : size ≠ .dword) (hw : s.dbg.watch = none) :
    (noteAccess va size load priv s).dbg.watch = if watched s va size load priv = true
      then some ⟨va, s.pc, s.thumb, if s.mmuOn then dtlbDomain s va else none⟩ else none := by
  have single : noteAccess va size load priv s = noteWatch va size load priv s := by
    cases size
    case dword => exact absurd rfl hs
    all_goals rfl
  rw [single, noteWatch, hw]
  cases watched s va size load priv
  · exact hw
  · rfl

/-- What an access notes, when up to the comparison it has left the debug unit alone. -/
theorem noted_of_access {va : Word} {size : BusSize} {load priv : Bool} (hs : size ≠ .dword) (hw : s.dbg.watch = none)
    (hm : MemSide s t) (ht : ∃ u, u.dbg = s.dbg ∧ t = noteAccess va size load priv u) :
    if s.debugEnabled = true ∧ s.halted = false ∧
        ∃ k : Fin 2, watchMatches s.dbg.wa[k] s.dbg.wc[k] va size load priv = true then
      ∃ h, t.dbg.watch = some h ∧ h.addr = va ∧ h.pc = s.pc ∧ h.thumb = s.thumb
    else t.dbg.watch = none := by
  obtain ⟨u, hd, rfl⟩ := ht
  have side := (noteAccess_readSide va size load priv u).toMemSide
  have same : watched u va size load priv = watched s va size load priv := by
    rw [watched, watched, ← side.debugEnabled, ← side.halted, hm.debugEnabled, hm.halted, hd]
  rw [noteAccess_watch hs (hd ▸ hw), same]
  split
  next h =>
    rw [if_pos (watched_iff.mpr h)]
    exact ⟨_, rfl, rfl, side.pc.symm.trans hm.pc, side.thumb.symm.trans hm.thumb⟩
  next h => exact if_neg (mt watched_iff.mp h)

/-! ### The event of a breakpoint or a vector catch (spec/61 R905, R906, R908) -/

theorem extract_moe (high : BitVec 27) (moe : BitVec 3) (low : BitVec 2) :
    (high ++ moe ++ low : Word).extractLsb' 2 3 = moe := by
  apply BitVec.eq_of_getLsbD_eq
  intro i hi
  have parts : (high ++ moe ++ low).getLsbD (2 + i) = _ := BitVec.getLsbD_append
  rw [BitVec.getLsbD_extractLsb', decide_eq_true hi, Bool.true_and]
  refine (show _ = _ from parts).trans ?_
  rw [if_neg (by omega), Nat.add_sub_cancel_left, BitVec.getLsbD_append, if_pos hi]

theorem takeException_dscr (e : Exc) (link : Word) (s : State) : (takeException e link s).dbg.dscr = s.dbg.dscr := rfl

theorem takeException_watch (e : Exc) (link : Word) (s : State) : (takeException e link s).dbg.watch = s.dbg.watch := rfl

theorem debugEvent_mem (moe : BitVec 3) (s : State) : (debugEvent moe s).mem = s.mem := by
  unfold debugEvent
  split
  · rfl
  · exact takeException_mem _ _ _

theorem debugEvent_moe (moe : BitVec 3) (s : State) : (debugEvent moe s).dbg.dscr.extractLsb' 2 3 = moe := by
  unfold debugEvent
  split
  · exact extract_moe _ _ _
  · exact extract_moe _ _ _

/-- In halt mode debug state is entered, and no register of CP15 is written (D30). -/
theorem debugEvent_of_haltMode (moe : BitVec 3) (h : s.haltMode = true) :
    debugEvent moe s = enterDebug moe (caughtHere s) := if_pos h

theorem pc_not_mem_caughtHere (s : State) : s.pc ∉ (caughtHere s).dbg.catchAt := by
  simp

/-- In monitor mode a Prefetch Abort is taken. -/
theorem debugEvent_of_monitorMode (moe : BitVec 3) (h : s.haltMode = false) :
    debugEvent moe s = prefetchAbort 2#4 { caughtHere s with dbg := setMoe (caughtHere s).dbg moe } :=
  if_neg (by rw [h]; exact Bool.false_ne_true)

theorem prefetchAbort_entry (status : BitVec 4) (s : State) : (prefetchAbort status s).pc = vectorBase s + 0x0C#32 ∧
    (prefetchAbort status s).regIn .abt regLr = s.pc + 4#32 ∧ (prefetchAbort status s).spsr[3] = s.cpsr :=
  ⟨rfl, takeException_link .prefetchAbort _ _, takeException_saved (e := .prefetchAbort) (k := 3) _ _ rfl⟩

/-! ### The step that comes to it -/

theorem MemSide.catchAt (h : MemSide s t) : t.dbg.catchAt = s.dbg.catchAt := by
  have same := congrArg Debug.catchAt h.dbg
  exact same

/-- At a boundary with nothing else due a step fetches and runs one instruction. -/
theorem step_of_boundary (hin : s.inputs = []) (hreset : s.inReset = false) (hpend : s.pm.pending = none)
    (hrun : s.run = .running) (hhalt : s.halted = false) (hreq : debugRequest s = false) (hfiq : fiqPending s = false)
    (hirq : irqPending s = false) : step s = runInstruction s := by
  calc step s = processorStep s := by rw [step, stepBody, hin]
    _ = stepByRun s := by rw [processorStep, hreset, if_neg Bool.false_ne_true, hpend]
    _ = boundary s := by rw [stepByRun, hrun, hhalt]
    _ = runInstruction s := by
      rw [boundary, hreq, if_neg Bool.false_ne_true, interruptOr, hfiq, if_neg Bool.false_ne_true, hirq,
        if_neg Bool.false_ne_true]

theorem runInstruction_of_granted {p : Prefetched} (hn : nextInstruction s = .ok (p, t)) (hg : granted s t = true) :
    runInstruction s = runFetched p t := by
  rw [runInstruction, hn]
  exact if_pos hg

theorem runFetched_breakpoint {p : Prefetched} {w : Word} (hw : p.what = .word w) (hb : p.breakpoint = true) :
    runFetched p s = .next (debugEvent 1#3 s) := by
  rw [runFetched, hw]
  exact if_pos hb

theorem runFetched_caught {p : Prefetched} {w : Word} (hw : p.what = .word w) (hb : p.breakpoint = false)
    (hd : s.debugEnabled = true) (hc : s.pc ∈ s.dbg.catchAt) : runFetched p s = .next (debugEvent 5#3 s) := by
  have caught : vectorCaught s = true := by
    rw [vectorCaught, hd, Bool.true_and]
    exact List.contains_iff_mem.mpr hc
  rw [runFetched, hw]
  exact (if_neg (by rw [hb]; exact Bool.false_ne_true)).trans (if_pos caught)

/-! ### The event of a watchpoint (spec/61 R907, R916, R918) -/

theorem recordDataFault_eq (status : BitVec 4) (domain : Option (BitVec 4)) (va ifar : Word) (s : State) :
    ∃ (d : BitVec 4) (n : Nat), recordDataFault status domain va ifar s =
      { s with cp15 := { s.cp15 with dfsr := d ++ status, dfar := va, ifar := ifar }, freeCount := n } ∧
      ∀ x, domain = some x → d = x := by
  cases domain with
  | none => exact ⟨s.freeVal.extractLsb' 0 4, s.freeCount + 1, rfl, fun x h => by cases h⟩
  | some d => exact ⟨d, s.freeCount, rfl, fun x h => by cases h; rfl⟩

/-- In halt mode the event enters debug state, in monitor mode it is a Data Abort. -/
theorem watchEvent_eq (h : WatchHit) {t u : State}
    (he : recordDataFault 2#4 h.domain h.addr (h.pc + (if h.thumb then 4#32 else 8#32)) t = u) :
    (t.haltMode = true → watchEvent h t = enterDebug 2#3 u) ∧
    (t.haltMode = false → watchEvent h t =
      takeException .dataAbort (u.pc + 8#32) { u with dbg := { setMoe u.dbg 2#3 with watch := none } }) := by
  subst he
  exact ⟨fun hm => if_pos hm, fun hm => if_neg (by rw [hm]; exact Bool.false_ne_true)⟩

/-! ### Vector catch (spec/61 R908) -/

theorem mem_addCatch (target : Word) (l : List Word) : target ∈ addCatch target l := by
  unfold addCatch
  split
  next h => exact List.contains_iff_mem.mp h
  next => exact List.mem_cons_self

/-- Taking an exception whose catch bit is set arms the catch of its vector. -/
theorem takeException_catches {e : Exc} (link : Word) (hd : s.debugEnabled = true) (hb : s.dbg.dscr.getLsbD e.catchBit = true) :
    (takeException e link s).pc ∈ (takeException e link s).dbg.catchAt := by
  have armed : (takeException e link s).dbg.catchAt = addCatch (vectorBase s + e.offset) s.dbg.catchAt :=
    if_pos (by rw [hd, hb]; rfl)
  rw [armed, takeException_pc]
  exact mem_addCatch _ _

/-- Settles O58: the comparators bit by bit; the fetch and the access that they are asked at; the event, which is an entry to debug
state or an exception; and the vectors that an exception arms. -/
theorem debugEvents : Obligations.DebugEvents := by
  refine ⟨fun ba pc bc priv => ⟨breakMatches_iff ba pc bc false priv, breakMatches_iff ba pc bc true priv⟩, ?fetched, ?empty, ?marked,
    fun wa va wc size load priv h => watchMatches_iff h, ?noted, ?due, fun e link s hd hb => takeException_catches link hd ?catchBit⟩
  case fetched =>
    intro s s1 prev pc thumb p h
    obtain ⟨addr, state, mark⟩ := fetchEntry_marks h
    exact ⟨addr, state, by rw [mark, breakpointAt_iff]⟩
  case empty =>
    intro s h
    rw [nextInstruction, h]
  case marked =>
    intro s s1 p w hin hreset hpend hrun hhalt hreq hfiq hirq hn hg hw caught
    have begun : step s = runFetched p s1 :=
      (step_of_boundary hin hreset hpend hrun hhalt hreq hfiq hirq).trans (runInstruction_of_granted hn hg)
    obtain ⟨l, side⟩ := nextInstruction_memSide hn
    have event {moe : BitVec 3} (h : runFetched p s1 = .next (debugEvent moe s1)) : caught moe := by
      have mode : s1.haltMode = s.haltMode := congrArg (BitVec.getLsbD · 30) side.dscr
      refine ⟨debugEvent moe s1, begun.trans h, debugEvent_mem moe s1, debugEvent_moe moe s1, fun hm => ?_, fun hm => ?_⟩
      · rw [debugEvent_of_haltMode moe (mode.trans hm)]
        refine ⟨enterDebug_dbgack moe _, side.pc, side.regs, side.cpsr, side.cp15, ?_⟩
        rw [show s.pc = s1.pc from side.pc.symm]
        exact pc_not_mem_caughtHere s1
      · rw [debugEvent_of_monitorMode moe (mode.trans hm)]
        obtain ⟨pc, link, saved⟩ := prefetchAbort_entry 2#4 { caughtHere s1 with dbg := setMoe (caughtHere s1).dbg moe }
        refine ⟨prefetchAbort_ifsr _ _, pc.trans ?_, link.trans ?_, saved.trans side.cpsr⟩
        · exact congrArg (· + 0x0C#32) side.vectorBase
        · exact congrArg (· + 4#32) side.pc
    refine ⟨fun hb => event (runFetched_breakpoint hw hb), fun hb hd hc => event (runFetched_caught hw hb ?_ ?_)⟩
    · exact side.debugEnabled.trans hd
    · rw [side.catchAt, side.pc]
      exact hc
  case noted =>
    intro s s1 va v size priv hs hnone noted
    refine ⟨fun h => noted_of_access hs hnone ?_ (memRead_noted h), fun h => noted_of_access hs hnone ?_ (memWrite_noted h)⟩
    · have side := memRead_readSide va size priv s
      rw [h] at side
      exact side.toMemSide
    · have side := memWrite_memSide va size v priv s
      rw [h] at side
      exact side
  case due =>
    intro t h hw u
    obtain ⟨d, n, he, hd⟩ := recordDataFault_eq 2#4 h.domain h.addr (h.pc + (if h.thumb then 4#32 else 8#32)) t
    obtain ⟨halt, monitor⟩ := watchEvent_eq h he
    have settled : u = watchEvent h t := by
      show settleWatch t = _
      rw [settleWatch, hw]
    have status : (d ++ 2#4 : BitVec 8).extractLsb' 0 4 = 2#4 := BitVec.extractLsb'_append_eq_right
    have domain (x : BitVec 4) (hx : h.domain = some x) : (d ++ 2#4 : BitVec 8).extractLsb' 4 4 = x :=
      BitVec.extractLsb'_append_eq_left.trans (hd x hx)
    cases hm : t.haltMode
    case true =>
      rw [settled, halt hm]
      exact ⟨rfl, rfl, rfl, status, domain, extract_moe _ _ _, rfl, fun _ => ⟨enterDebug_dbgack _ _, rfl, rfl, rfl⟩,
        fun other => by cases other⟩
    case false =>
      rw [settled, monitor hm]
      refine ⟨takeException_mem _ _ _, ?_, ?_, ?_, fun x hx => ?_, extract_moe _ _ _, rfl, fun other => (by cases other), fun _ =>
        ⟨rfl, takeException_link .dataAbort _ _, takeException_saved (e := .dataAbort) (k := 3) _ _ rfl⟩⟩
      all_goals rw [takeException_cp15]
      · exact status
      · exact domain x hx
  case catchBit => cases e <;> exact hb

end Sys2Proof.Machine
end

section
/-!
Single loads and stores: each is one access, with the base written back after it (O23, O25; spec/20 R206; spec/43 R600-R623).
-/
namespace Sys2Proof.Machine

variable {s s1 : State}

/-! ### What an operation on memory answered -/

theorem Res.All.of_ok {α : Type} {P : State → Prop} {x : Res α} {a : α} (h : x.All P) (e : x = .ok a s1) : P s1 := by
  rw [e] at h
  exact h

theorem Res.All.of_abort {α : Type} {P : State → Prop} {x : Res α} {i : AbortInfo} (h : x.All P) (e : x = .abort i s1) :
    P s1 := by
  rw [e] at h
  exact h

theorem Res.finish_ok {α : Type} {x : Res α} {a : α} {k : α → State → Outcome State} (h : x = .ok a s1) :
    x.finish k = k a s1 := by
  rw [h]
  rfl

theorem Res.finish_abort {α : Type} {x : Res α} {i : AbortInfo} {k : α → State → Outcome State} (h : x = .abort i s1) :
    x.finish k = dataAbort i s1 := by
  rw [h]
  rfl

/-! ### Alignment (spec/20 R206) -/

theorem toNat_lowBits (va : Word) : (va &&& 3#32).toNat = va.toNat % 4 :=
  (BitVec.toNat_and va 3#32).trans (Nat.and_two_pow_sub_one_eq_mod va.toNat 2)

theorem toNat_alignDword (va : Word) : (alignDown .dword va).toNat = va.toNat / 8 * 8 := by
  have e : alignDown .dword va = (va >>> 3) <<< 3 := by
    apply BitVec.eq_of_getLsbD_eq
    intro i hi
    interval_cases i <;> simp [alignDown]
  have := va.isLt
  rw [e, BitVec.toNat_shiftLeft, BitVec.toNat_ushiftRight, Nat.shiftRight_eq_div_pow, Nat.shiftLeft_eq]
  omega

theorem misaligned_half (va : Word) : misaligned .half va = va.getLsbD 0 := by
  have clear : va.getLsbD 0 = false → va = alignDown .half va := fun h => (clearBit0_of_even h).symm
  have bit0 : (alignDown .half va).getLsbD 0 = false := even_and (by decide)
  cases h : va.getLsbD 0
  · simpa [misaligned] using clear h
  · have : va ≠ alignDown .half va := fun e => by rw [e, bit0] at h; cases h
    simpa [misaligned] using this

theorem misaligned_word (va : Word) : misaligned .word va = decide (va.toNat % 4 ≠ 0) := by
  rw [misaligned, Bool.eq_iff_iff, bne_iff_ne, decide_eq_true_iff, ne_eq, ← BitVec.toNat_inj, toNat_alignWord]
  omega

theorem misaligned_dword (va : Word) : misaligned .dword va = decide (va.toNat % 8 ≠ 0) := by
  rw [misaligned, Bool.eq_iff_iff, bne_iff_ne, decide_eq_true_iff, ne_eq, ← BitVec.toNat_inj, toNat_alignDword]
  omega

/-! ### The templates (spec/43 R602) -/

theorem runs_of_ready {i : Instr} (h : s.ready i = true) : s.runs i = true ∧ s.canAdvance = true := by
  rwa [State.ready, Bool.and_eq_true] at h

@[simp] theorem State.canAdvance_writeBase (ix : Index) (target : Word) (s : State) :
    (writeBase ix target s).canAdvance = s.canAdvance := by
  unfold writeBase
  split
  · exact s.canAdvance_setReg _ _
  · rfl

/-- A load whose access is answered: write-back, then Rd. -/
theorem loadReg_of_read {e : Extend} {priv : Bool} {ix : Index} {o v w : Word} {rd : Reg} {u : State}
    (hn : s.canAdvance = true) (h : memRead (indexAddress ix o s) e.size priv s = .ok v s1)
    (hv : loadedValue e (indexAddress ix o s) v s1 = (w, u)) (hu : u.canAdvance = s1.canAdvance) :
    loadReg e priv ix o rd s = .next ((writeBase ix (indexTarget ix o s) u).setReg rd w).moveOn := by
  have next : s1.canAdvance = s.canAdvance := ((memRead_readSide _ _ _ _).of_ok h).canAdvance
  rw [loadReg, Res.finish_ok h]
  simp only [hv]
  exact advance_of_canAdvance (by simp [hu, next, hn])

/-- A store whose access is answered: write-back. -/
theorem storeReg_of_written {size : BusSize} {priv : Bool} {ix : Index} {o v : Word} (hn : s.canAdvance = true)
    (h : memWrite (indexAddress ix o s) size v priv s = .ok () s1) :
    storeReg size priv ix o v s = .next (writeBase ix (indexTarget ix o s) s1).moveOn := by
  have next : s1.canAdvance = s.canAdvance := ((memWrite_memSide _ _ _ _ _).of_ok h).canAdvance
  rw [storeReg, Res.finish_ok h]
  exact advance_of_canAdvance (by simp [next, hn])

/-! ### The value loaded (spec/43 R610-R622) -/

theorem loadedValue_word (va v : Word) (s : State) :
    loadedValue .word va v s = (v.rotateRight (8 * (va.toNat % 4)), s) := by
  rw [← toNat_lowBits]
  rfl

/-- A halfword at an odd address is a free value (U5). -/
theorem loadedValue_half {e : Extend} (he : e.size = .half) (va v : Word) (s : State) :
    loadedValue e va v s = if va.getLsbD 0 then (s.freeVal, s.useFree) else (extendLoaded e va v, s) := by
  rw [loadedValue, misaligned_half, he]
  rfl

/-! ### The instructions -/

variable {c : Cond} {ix : Index} {rd : Reg}

theorem exec_ldr {off : Off2} (hr : s.runs (.ldr c ix rd off) = true) (hrd : rd ≠ regPc) :
    exec (.ldr c ix rd off) s = loadReg .word s.priv ix (offset2 off s) rd s := by
  obtain ⟨hc, -, ho⟩ := runs_iff.mp hr
  exact (whenCond_pass hc).trans ((require_pass ho).trans (if_neg hrd))

theorem exec_ldrb {off : Off2} (hr : s.runs (.ldrb c ix rd off) = true) :
    exec (.ldrb c ix rd off) s = loadReg .byte s.priv ix (offset2 off s) rd s := by
  obtain ⟨hc, -, ho⟩ := runs_iff.mp hr
  exact (whenCond_pass hc).trans (require_pass ho)

theorem exec_ldrt {u : Bool} {rn : Reg} {off : Off2} (hr : s.runs (.ldrt c u rn rd off) = true) :
    exec (.ldrt c u rn rd off) s = loadReg .word false (postIndex u rn) (offset2 off s) rd s := by
  obtain ⟨hc, -, ho⟩ := runs_iff.mp hr
  exact (whenCond_pass hc).trans (require_pass ho)

theorem exec_ldrbt {u : Bool} {rn : Reg} {off : Off2} (hr : s.runs (.ldrbt c u rn rd off) = true) :
    exec (.ldrbt c u rn rd off) s = loadReg .byte false (postIndex u rn) (offset2 off s) rd s := by
  obtain ⟨hc, -, ho⟩ := runs_iff.mp hr
  exact (whenCond_pass hc).trans (require_pass ho)

/-- A load of addressing mode 3 that runs. -/
theorem loadMode3_eq {e : Extend} {off : Off3} (hc : s.passes c = true) (hz : off.regular = true)
    (ho : (mode3Allowed ix off && loadAllowed ix rd && rd != regPc) = true) :
    loadMode3 e c ix rd off s = loadReg e s.priv ix (offset3 off s) rd s :=
  (whenCond_pass hc).trans ((require_pass hz).trans (require_pass ho))

theorem exec_ldrh {off : Off3} (hr : s.runs (.ldrh c ix rd off) = true) :
    exec (.ldrh c ix rd off) s = loadReg .half s.priv ix (offset3 off s) rd s := by
  obtain ⟨hc, hz, ho⟩ := runs_iff.mp hr
  exact loadMode3_eq hc hz ho

theorem exec_ldrsb {off : Off3} (hr : s.runs (.ldrsb c ix rd off) = true) :
    exec (.ldrsb c ix rd off) s = loadReg .signedByte s.priv ix (offset3 off s) rd s := by
  obtain ⟨hc, hz, ho⟩ := runs_iff.mp hr
  exact loadMode3_eq hc hz ho

theorem exec_ldrsh {off : Off3} (hr : s.runs (.ldrsh c ix rd off) = true) :
    exec (.ldrsh c ix rd off) s = loadReg .signedHalf s.priv ix (offset3 off s) rd s := by
  obtain ⟨hc, hz, ho⟩ := runs_iff.mp hr
  exact loadMode3_eq hc hz ho

theorem exec_str {off : Off2} (hr : s.runs (.str c ix rd off) = true) :
    exec (.str c ix rd off) s = storeReg .word s.priv ix (offset2 off s) (s.stored rd) s := by
  obtain ⟨hc, -, ho⟩ := runs_iff.mp hr
  exact (whenCond_pass hc).trans (require_pass ho)

theorem exec_strb {off : Off2} (hr : s.runs (.strb c ix rd off) = true) :
    exec (.strb c ix rd off) s = storeReg .byte s.priv ix (offset2 off s) (s.reg rd) s := by
  obtain ⟨hc, -, ho⟩ := runs_iff.mp hr
  exact (whenCond_pass hc).trans (require_pass ho)

theorem exec_strt {u : Bool} {rn : Reg} {off : Off2} (hr : s.runs (.strt c u rn rd off) = true) :
    exec (.strt c u rn rd off) s = storeReg .word false (postIndex u rn) (offset2 off s) (s.stored rd) s := by
  obtain ⟨hc, -, ho⟩ := runs_iff.mp hr
  exact (whenCond_pass hc).trans (require_pass ho)

theorem exec_strbt {u : Bool} {rn : Reg} {off : Off2} (hr : s.runs (.strbt c u rn rd off) = true) :
    exec (.strbt c u rn rd off) s = storeReg .byte false (postIndex u rn) (offset2 off s) (s.reg rd) s := by
  obtain ⟨hc, -, ho⟩ := runs_iff.mp hr
  exact (whenCond_pass hc).trans (require_pass ho)

/-- An STRH that runs, its address checked (U5). -/
theorem exec_strh {off : Off3} (hr : s.runs (.strh c ix rd off) = true) :
    exec (.strh c ix rd off) s =
      require (s.alignOn || !(indexAddress ix (offset3 off s) s).getLsbD 0) .misalignedHalfwordStore
        (storeReg .half s.priv ix (offset3 off s) (s.reg rd) s) := by
  obtain ⟨hc, hz, ho⟩ := runs_iff.mp hr
  rw [← misaligned_half]
  exact (whenCond_pass hc).trans ((require_pass hz).trans (require_pass ho))

/-- Settles O23: each instruction is its access, and the value loaded is the word rotated or the part extended. -/
theorem singleLoads : Obligations.SingleLoads := by
  intro c ix rd o2 o3 s s1 v hrd a b post to2 to3
  have half {e : Extend} (he : e.size = .half) (hn : s.canAdvance = true) (h : memRead b .half s.priv s = .ok v s1) :
      loadReg e s.priv ix (offset3 o3 s) rd s =
        if b.getLsbD 0 then to3 s1.useFree s1.freeVal else to3 s1 (extendLoaded e b v) := by
    have value := loadedValue_half he b v s1
    split
    next odd => exact loadReg_of_read hn (he ▸ h) (value.trans (if_pos odd)) rfl
    next even => exact loadReg_of_read hn (he ▸ h) (value.trans (if_neg even)) rfl
  refine ⟨fun hr h => ?_, fun hr h => ?_, fun hr h => ?_, fun hr h => ?_, fun hr h => ?_, fun hr h => ?_, fun hr h => ?_⟩
  all_goals obtain ⟨run, hn⟩ := runs_of_ready hr
  · exact (exec_ldr run hrd).trans (loadReg_of_read hn h (loadedValue_word a v s1) rfl)
  · exact (exec_ldrb run).trans (loadReg_of_read hn h rfl rfl)
  · exact (exec_ldrt run).trans (loadReg_of_read hn h (loadedValue_word _ v s1) rfl)
  · exact (exec_ldrbt run).trans (loadReg_of_read hn h rfl rfl)
  · exact (exec_ldrh run).trans (half rfl hn h)
  · exact (exec_ldrsb run).trans (loadReg_of_read hn h rfl rfl)
  · exact (exec_ldrsh run).trans (half rfl hn h)

/-- Settles O25: each instruction is its access; only STRH checks its address before it. -/
theorem singleStores : Obligations.SingleStores := by
  intro c ix rd o2 o3 s s1 a b post done2
  refine ⟨fun hr h => ?_, fun hr h => ?_, fun hr h => ?_, fun hr h => ?_, fun hr h hb => ?_, fun hr ha hb => ?_⟩
  case refine_6 => exact (exec_strh hr).trans (if_neg (by rw [ha, hb]; exact Bool.false_ne_true))
  all_goals obtain ⟨run, hn⟩ := runs_of_ready hr
  · exact (exec_str run).trans (storeReg_of_written hn h)
  · exact (exec_strb run).trans (storeReg_of_written hn h)
  · exact (exec_strt run).trans (storeReg_of_written hn h)
  · exact (exec_strbt run).trans (storeReg_of_written hn h)
  · have checked : (s.alignOn || !b.getLsbD 0) = true := by simpa using hb
    exact (exec_strh run).trans ((require_pass checked).trans (storeReg_of_written hn h))

end Sys2Proof.Machine
end

section
/-!
Accesses with the DCache off and nothing buffered, all of memory RAM: the bytes, the order of several words, the translation,
and what other masters write between (O30; spec/20 R202-R211, R224; spec/21 R298).
-/
namespace Sys2Proof.Machine

variable {s s1 : State}

/-! ### Straight to memory (spec/20 R210, R211) -/

/-- Data accesses go straight to RAM and meet no watchpoint; other masters may be about to write. -/
structure Direct (s : State) : Prop where
  dcacheOff : s.dcacheOn = false
  noEntry : s.wbuf = []
  noCastout : s.castout = none
  allRam : s.memMap = []
  noWatch : s.debugEnabled = false

theorem Direct.kindAt (h : Direct s) (a : Nat) : kindAt s.memMap a = .ram := by
  rw [h.allRam]
  rfl

theorem busRead_direct (h : Direct s) (m : BusMaster) (size : BusSize) (pa : Word) (prot : BitVec 4) (locked : Bool) :
    ∃ r : BusRecord, r.locked = locked ∧ r.write = false ∧
      busRead m size pa prot locked s = (some (physReadWide s.mem s.big size pa), s.record r) := by
  unfold busRead
  rw [h.kindAt]
  exact ⟨_, rfl, rfl, rfl⟩

theorem busWrite_direct (h : Direct s) (big : Bool) (size : BusSize) (pa : Word) (v : BitVec 64) (prot : BitVec 4)
    (locked : Bool) (burst : Burst) :
    ∃ r : BusRecord, r.write = true ∧ busWrite big size pa v prot locked burst s =
      (true, ({ s with mem := physWriteWide s.mem big size pa v } : State).record r) := by
  unfold busWrite
  rw [h.kindAt]
  exact ⟨_, rfl, rfl⟩

theorem readAt_direct (h : Direct s) {loc : Located} (hr : loc.region = .ncnb) (va : Word) (size : BusSize)
    (priv ext locked : Bool) :
    ∃ r : BusRecord, r.locked = locked ∧ r.write = false ∧
      readAt loc va size priv ext locked s = .ok (physReadWide s.mem s.big size loc.pa) (s.record r) := by
  obtain ⟨r, hlocked, hwrite, e⟩ :=
    busRead_direct h .dbiu size (alignDown size loc.pa) (hprot true priv loc.b loc.c) locked
  refine ⟨r, hlocked, hwrite, ?_⟩
  simp only [readAt, hr, RegionType.cachable, drainAll_of_empty h.noEntry h.noCastout, e, physReadWide_alignDown]

/-- A store to a region that is neither cachable nor bufferable goes straight to the bus (spec/20 R211; spec/22 R351). -/
theorem writeAt_ncnb {loc : Located} (hr : loc.region = .ncnb) (va : Word) (size : BusSize) (v : BitVec 64)
    (priv ext locked : Bool) (burst : Burst) (s : State) :
    ∃ place : Located, place.pa = loc.pa ∧
      writeAt loc va size v priv ext locked burst s = writeUnbuffered place va size v priv ext locked s := by
  unfold writeAt
  rw [hr]
  cases locked <;> cases s.wbufOn
  · exact ⟨loc.forced, rfl, rfl⟩
  · exact ⟨loc, rfl, rfl⟩
  · exact ⟨loc.forced, rfl, rfl⟩
  · exact ⟨loc, rfl, rfl⟩

theorem storeInCache_of_off (h : s.dcacheOn = false) (loc : Located) (size : BusSize) (v : BitVec 64) (dirty : Bool) :
    storeInCache loc size v dirty s = s := by
  simp only [storeInCache, h]

theorem writeAt_direct (h : Direct s) {loc : Located} (hr : loc.region = .ncnb) (va : Word) (size : BusSize) (v : BitVec 64)
    (priv ext locked : Bool) (burst : Burst) :
    ∃ r : BusRecord, r.write = true ∧ writeAt loc va size v priv ext locked burst s =
      .ok () (({ s with mem := physWriteWide s.mem s.big size loc.pa v } : State).record r) := by
  obtain ⟨place, hpa, hw⟩ := writeAt_ncnb hr va size v priv ext locked burst s
  obtain ⟨r, hwrite, e⟩ :=
    busWrite_direct h s.big size (alignDown size place.pa) v (hprot true priv place.b place.c) locked .single
  rw [physWriteWide_alignDown, hpa] at e
  refine ⟨r, hwrite, ?_⟩
  have off : (({ s with mem := physWriteWide s.mem s.big size loc.pa v } : State).record r).dcacheOn = false := by
    rw [State.dcacheOn, State.ctlBit, State.record_cp15]
    exact h.dcacheOff
  simp only [hw, writeUnbuffered, drainAll_of_empty h.noEntry h.noCastout, hpa, e, storeInCache_of_off off]

/-- A read whose translation, if any, is done. -/
theorem memReadWide_direct {va : Word} {size : BusSize} {a : Access} {loc : Located} (h : Direct s1)
    (ha : (s.alignOn && faultsAlignment size va) = false) (hl : locate va false a.priv s = .ok loc s1)
    (hr : loc.region = .ncnb) :
    ∃ r : BusRecord, r.locked = a.locked ∧ r.write = false ∧
      memReadWide va size a s = .ok (physReadWide s1.mem s1.big size loc.pa) (s1.record r) := by
  obtain ⟨r, hlocked, hwrite, e⟩ := readAt_direct h hr va size a.priv a.ext a.locked
  refine ⟨r, hlocked, hwrite, ?_⟩
  rw [memReadWide, if_neg (by rw [ha]; exact Bool.false_ne_true), hl]
  simp only [Res.bind, e]
  exact congrArg (Res.ok _) (noteAccess_of_disabled ((s1.record_debugEnabled r).trans h.noWatch) _ _ _ _)

/-- A write whose translation, if any, is done. -/
theorem memWriteWide_direct {va : Word} {size : BusSize} {v : BitVec 64} {a : Access} {burst : Burst} {loc : Located}
    (h : Direct s1) (ha : (s.alignOn && faultsAlignment size va) = false) (hl : locate va true a.priv s = .ok loc s1)
    (hr : loc.region = .ncnb) :
    ∃ r : BusRecord, r.write = true ∧ memWriteWide va size v a burst s =
      .ok () (({ s1 with mem := physWriteWide s1.mem s1.big size loc.pa v } : State).record r) := by
  obtain ⟨r, hwrite, e⟩ := writeAt_direct h hr va size v a.priv a.ext a.locked burst
  refine ⟨r, hwrite, ?_⟩
  rw [memWriteWide, if_neg (by rw [ha]; exact Bool.false_ne_true), hl]
  simp only [Res.bind, e]
  have off : (({ s1 with mem := physWriteWide s1.mem s1.big size loc.pa v } : State).record r).debugEnabled = false := by
    rw [State.debugEnabled, State.record_dbg, State.record_pins]
    exact h.noWatch
  rw [noteAccess_of_disabled off]

theorem memReadX_direct {va : Word} {size : BusSize} {a : Access} {loc : Located} (h : Direct s1) (hs : size ≠ .dword)
    (ha : (s.alignOn && faultsAlignment size va) = false) (hl : locate va false a.priv s = .ok loc s1)
    (hr : loc.region = .ncnb) :
    ∃ r : BusRecord, r.locked = a.locked ∧ r.write = false ∧
      memReadX va size a s = .ok (physRead s1.mem s1.big size loc.pa) (s1.record r) := by
  obtain ⟨r, hlocked, hwrite, e⟩ := memReadWide_direct h ha hl hr
  refine ⟨r, hlocked, hwrite, ?_⟩
  simp only [memReadX, e, Res.bind, physReadWide_low hs, low_of_zeroExtend]

theorem memWriteX_direct {va v : Word} {size : BusSize} {a : Access} {loc : Located} (h : Direct s1) (hs : size ≠ .dword)
    (ha : (s.alignOn && faultsAlignment size va) = false) (hl : locate va true a.priv s = .ok loc s1)
    (hr : loc.region = .ncnb) :
    ∃ r : BusRecord, r.write = true ∧ memWriteX va size v a s =
      .ok () (({ s1 with mem := physWrite s1.mem s1.big size loc.pa v } : State).record r) := by
  obtain ⟨r, hwrite, e⟩ := memWriteWide_direct (v := (carried size v).zeroExtend 64) (burst := .single) h ha hl hr
  refine ⟨r, hwrite, ?_⟩
  rw [memWriteX, e, physWriteWide_low hs, low_of_zeroExtend, physWrite_carried]

/-! ### Plain memory (spec/20 R202, R204, R205; spec/70 R988) -/

theorem plain_keeps_bus_mem (h : s.plain = true) (b : List BusRecord) (m : List Host.Cell) :
    ({ s with bus := b, mem := m } : State).plain = true := h

theorem record_plain (h : s.plain = true) (r : BusRecord) : s.record r = { s with bus := r :: s.bus } := by
  obtain ⟨-, -, -, -, -, -, -, -, hi⟩ := plain_iff.mp h
  exact State.record_quiet hi r

theorem memSwap_plain (h : s.plain = true) (va v : Word) {size : BusSize} (hs : size ≠ .dword) (priv : Bool) :
    ∃ b, memSwap va size v priv s = .ok (physRead s.mem s.big size (relocate s.cp15.pid va))
      { s with bus := b, mem := physWrite s.mem s.big size (relocate s.cp15.pid va) v } := by
  obtain ⟨r, hread⟩ := memReadX_plain h va size hs ⟨priv, priv, true, true⟩
  rw [record_plain h] at hread
  obtain ⟨w, hwrite⟩ := memWriteX_plain (s := { s with bus := r :: s.bus }) h va size hs v ⟨priv, priv, true, true⟩
  exact ⟨w :: r :: s.bus, by simp only [memSwap, hread, Res.bind, hwrite]; rfl⟩

/-- What is written is read back. -/
theorem memRead_of_written (h : s.plain = true) (hm : Memory.wf s.mem = true) (va v : Word) {size : BusSize}
    (hs : size ≠ .dword) (priv : Bool) :
    ∃ s1 s2, memWrite va size v priv s = .ok () s1 ∧ memRead va size priv s1 = .ok (carried size v) s2 := by
  obtain ⟨w, hwrite⟩ := memWriteX_plain h va size hs v (.ordinary priv)
  obtain ⟨r, hread⟩ := memReadX_plain (plain_keeps_bus_mem h (w :: s.bus)
    (physWrite s.mem s.big size (relocate s.cp15.pid va) v)) va size hs (.ordinary priv)
  exact ⟨_, _, hwrite, hread.trans (congrArg (Res.ok · _) (physRead_physWrite hm))⟩

/-! ### Several words (spec/44 R650, R654) -/

theorem wordsFrom_bus (s : State) (b : List BusRecord) (n : Nat) (va : Word) :
    wordsFrom { s with bus := b } n va = wordsFrom s n va := by
  induction n generalizing va with
  | zero => rfl
  | succ n ih => exact congrArg (s.wordAt va :: ·) (ih (va + 4#32))

theorem add_eight (va : Word) : va + 8#32 = va + 4#32 + 4#32 := (BitVec.add_assoc va 4#32 4#32).symm

/-- Does a pair begin here: then bit 2 of the address is clear. -/
theorem Multiple.pairAt_bit2 {m : Multiple} {va : Word} (h : m.pairAt va = true) : va.getLsbD 2 = false := by
  rw [Multiple.pairAt, Bool.and_eq_true, Bool.not_eq_true'] at h
  exact h.2

/-- A run of reads in plain memory, in words and pairs, answers the words one after the other. -/
theorem readRun_plain (m : Multiple) : ∀ (n : Nat) (first : Bool) (va : Word) {s : State}, s.plain = true →
    ∃ b, readRun m n first va s = (wordsFrom s n va, .ok () { s with bus := b })
  | 0, _, _, s, _ => ⟨s.bus, rfl⟩
  | 1, first, va, s, h => by
    obtain ⟨r, e⟩ := memReadWide_plain h va .word (m.access first va)
    rw [record_plain h] at e
    exact ⟨r :: s.bus, by simp only [readRun, e, physReadWide, low_of_zeroExtend]; rfl⟩
  | n + 2, first, va, s, h => by
    unfold readRun
    split
    next pair =>
      obtain ⟨r, e⟩ := memReadWide_plain h va .dword (m.access first va)
      rw [record_plain h, physReadWide_pair _ _ _ _ (m.pairAt_bit2 pair)] at e
      obtain ⟨b, rest⟩ := readRun_plain m n false (va + 8#32) (s := { s with bus := r :: s.bus }) h
      refine ⟨b, ?_⟩
      simp only [e, rest, low_of_pair, high_of_pair, wordsFrom_bus]
      rw [add_eight]
      rfl
    next =>
      obtain ⟨r, e⟩ := memReadWide_plain h va .word (m.access first va)
      rw [record_plain h] at e
      obtain ⟨b, rest⟩ := readRun_plain m (n + 1) false (va + 4#32) (s := { s with bus := r :: s.bus }) h
      refine ⟨b, ?_⟩
      simp only [e, rest, physReadWide, low_of_zeroExtend, wordsFrom_bus]
      rfl

theorem memReadMany_plain (m : Multiple) (n : Nat) (va : Word) (h : s.plain = true) :
    ∃ b, memReadMany m n va s = .ok (wordsFrom s n va) { s with bus := b } := by
  obtain ⟨b, e⟩ := readRun_plain m n true va h
  exact ⟨b, by rw [memReadMany, e]; rfl⟩

/-- A run of writes in plain memory stores the words one after the other. -/
theorem writeRun_plain (m : Multiple) : ∀ (vs : List Word) (first : Bool) (va : Word) {s : State}, s.plain = true →
    ∃ b, writeRun m vs first va s = .ok () { s with bus := b, mem := storeWords s.big s.cp15.pid vs va s.mem }
  | [], _, _, s, _ => ⟨s.bus, rfl⟩
  | [v], first, va, s, h => by
    obtain ⟨r, e⟩ := memWriteWide_plain h va .word (v.zeroExtend 64) (m.access first va) (runBurst first va 1 0)
    rw [physWriteWide_low (by decide), low_of_zeroExtend] at e
    exact ⟨r :: s.bus, e⟩
  | v :: w :: rest, first, va, s, h => by
    unfold writeRun
    split
    next pair =>
      obtain ⟨r, e⟩ := memWriteWide_plain h va .dword (w ++ v) (m.access first va) (runBurst first va 2 rest.length)
      rw [physWriteWide_pair _ _ _ _ _ _ (m.pairAt_bit2 pair)] at e
      obtain ⟨b, after⟩ := writeRun_plain m rest false (va + 8#32) (plain_keeps_bus_mem h (r :: s.bus) _)
      refine ⟨b, ?_⟩
      simp only [e, Res.bind]
      rw [after, add_eight]
      rfl
    next =>
      obtain ⟨r, e⟩ := memWriteWide_plain h va .word (v.zeroExtend 64) (m.access first va)
        (runBurst first va 1 (rest.length + 1))
      rw [physWriteWide_low (by decide), low_of_zeroExtend] at e
      obtain ⟨b, after⟩ := writeRun_plain m (w :: rest) false (va + 4#32) (plain_keeps_bus_mem h (r :: s.bus) _)
      refine ⟨b, ?_⟩
      simp only [e, Res.bind]
      rw [after]
      rfl

theorem memWriteMany_plain (m : Multiple) (vs : List Word) (va : Word) (h : s.plain = true) :
    ∃ b, memWriteMany m vs va s = .ok () { s with bus := b, mem := storeWords s.big s.cp15.pid vs va s.mem } :=
  writeRun_plain m vs true va h

/-! ### Translated accesses (spec/20 R210; spec/21 R298) -/

/-- What `locate` makes of the translation's answer. -/
theorem locate_of_translated {va pa : Word} {write priv c b : Bool} (hm : s.mmuOn = true)
    (ht : translate .data (relocate s.cp15.pid va) write priv s = (.ok pa c b, s1)) :
    ∃ loc, locate va write priv s = .ok loc s1 ∧ loc.pa = pa := by
  simp only [locate, hm, ht]
  exact ⟨_, rfl, rfl⟩

theorem locate_of_fault {va : Word} {write priv : Bool} {status : BitVec 4} {domain : Option (BitVec 4)}
    (hm : s.mmuOn = true) (ht : translate .data (relocate s.cp15.pid va) write priv s = (.fault status domain, s1)) :
    locate va write priv s = .abort ⟨va, status, domain⟩ s1 := by
  simp only [locate, hm, ht]

/-- After its translation an uncached access goes straight to memory. -/
theorem Direct.of_readSide (h : ReadSide s s1) (hu : s.uncached = true) (hr : s.memMap = []) (hg : s.debugEnabled = false) :
    Direct s1 := by
  obtain ⟨hd, hw, hc, -⟩ := uncached_iff.mp (h.idle hu).2
  exact ⟨hd, hw, hc, h.memMap.trans hr, h.toMemSide.debugEnabled.trans hg⟩

theorem translate_memory {side : Side} {mva : Word} {write priv : Bool} {x : Xlate} (hu : s.uncached = true)
    (ht : translate side mva write priv s = (x, s1)) :
    ReadSide s s1 ∧ s1.mem = s.mem ∧ s1.big = s.big ∧ s1.intruders = [] := by
  have moved := translate_readSide side mva write priv s
  rw [ht] at moved
  obtain ⟨same, idle⟩ := moved.idle hu
  obtain ⟨-, -, -, none⟩ := uncached_iff.mp idle
  exact ⟨moved, same, moved.toMemSide.ctlBit 7, none⟩

theorem faultsAlignment_eq {size : BusSize} (h : size ≠ .dword) (va : Word) : faultsAlignment size va = misaligned size va := by
  cases size
  case dword => exact absurd rfl h
  all_goals rfl

section

variable {va v pa : Word} {size : BusSize} {priv c b : Bool} {status : BitVec 4} {domain : Option (BitVec 4)}

theorem memRead_translated (hu : s.uncached = true) (hm : s.mmuOn = true) (hr : s.memMap = [])
    (hg : s.debugEnabled = false) (hs : size ≠ .dword) (ha : (s.alignOn && faultsAlignment size va) = false)
    (ht : translate .data (relocate s.cp15.pid va) false priv s = (.ok pa c b, s1)) :
    ∃ r, memRead va size priv s = .ok (physRead s.mem s.big size pa) (s1.record r) := by
  obtain ⟨loc, hl, rfl⟩ := locate_of_translated hm ht
  obtain ⟨moved, hmem, hbig, -⟩ := translate_memory hu ht
  obtain ⟨r, -, -, e⟩ := memReadX_direct (a := .ordinary priv) (Direct.of_readSide moved hu hr hg) hs ha hl
    (locate_region hl (uncached_iff.mp hu).1)
  rw [hmem, hbig] at e
  exact ⟨r, e⟩

theorem memWrite_translated (hu : s.uncached = true) (hm : s.mmuOn = true) (hr : s.memMap = [])
    (hg : s.debugEnabled = false) (hs : size ≠ .dword) (ha : (s.alignOn && faultsAlignment size va) = false)
    (ht : translate .data (relocate s.cp15.pid va) true priv s = (.ok pa c b, s1)) :
    ∃ r, memWrite va size v priv s = .ok () { s1.record r with mem := physWrite s.mem s.big size pa v } := by
  obtain ⟨loc, hl, rfl⟩ := locate_of_translated hm ht
  obtain ⟨moved, hmem, hbig, none⟩ := translate_memory hu ht
  obtain ⟨r, -, e⟩ := memWriteX_direct (v := v) (a := .ordinary priv) (Direct.of_readSide moved hu hr hg) hs ha hl
    (locate_region hl (uncached_iff.mp hu).1)
  rw [hmem, hbig, State.record_quiet (by exact none)] at e
  refine ⟨r, ?_⟩
  rw [State.record_quiet none]
  exact e

theorem memRead_faulted (hm : s.mmuOn = true) (ha : (s.alignOn && faultsAlignment size va) = false)
    (ht : translate .data (relocate s.cp15.pid va) false priv s = (.fault status domain, s1)) :
    memRead va size priv s = .abort ⟨va, status, domain⟩ s1 := by
  have hl : locate va false (Access.ordinary priv).priv s = _ := locate_of_fault hm ht
  rw [memRead, memReadX, memReadWide, if_neg (by rw [ha]; exact Bool.false_ne_true), hl]
  rfl

theorem memWrite_faulted (hm : s.mmuOn = true) (ha : (s.alignOn && faultsAlignment size va) = false)
    (ht : translate .data (relocate s.cp15.pid va) true priv s = (.fault status domain, s1)) :
    memWrite va size v priv s = .abort ⟨va, status, domain⟩ s1 := by
  have hl : locate va true (Access.ordinary priv).priv s = _ := locate_of_fault hm ht
  rw [memWrite, memWriteX, memWriteWide, if_neg (by rw [ha]; exact Bool.false_ne_true), hl]
  rfl

end

/-! ### Another master's write (spec/20 R208, R224) -/

/-- A transaction after which a write of another master lands. -/
theorem record_intruded {pa : Word} {b : Byte} (hr : s.memMap = []) (hi : s.intruders = [⟨0, pa, b⟩]) {r : BusRecord}
    (h : (r.locked && !r.write) = false) :
    s.record r = { s with bus := r :: s.bus, intruders := [], mem := Memory.write s.mem pa.toNat b } := by
  have ram : kindAt s.memMap pa.toNat = .ram := by rw [hr]; rfl
  rw [State.record, if_neg (by rw [h]; exact Bool.false_ne_true), hi]
  simp only [intrude, if_true, otherMasterWrite, ram]

/-- The read of a locked swap keeps the bus. -/
theorem record_locked {r : BusRecord} (hl : r.locked = true) (hw : r.write = false) (s : State) :
    s.record r = { s with bus := r :: s.bus } :=
  if_pos (by rw [hl, hw]; rfl)

/-- Plain memory but for the writes of other masters. -/
theorem direct_of_plain (h : ({ s with intruders := [] } : State).plain = true) :
    Direct s ∧ s.mmuOn = false ∧ s.alignOn = false := by
  obtain ⟨hm, hd, ha, hw, hc, hr, hg, -, -⟩ := plain_iff.mp h
  exact ⟨⟨hd, hw, hc, hr, hg⟩, hm, ha⟩

section

variable {pa : Word} {b : Byte} (h : ({ s with intruders := [] } : State).plain = true) (hi : s.intruders = [⟨0, pa, b⟩])
include h hi

/-- Two words that are no pair are two transactions: the write lands between them. -/
theorem memReadMany_intruded {va : Word} (priv : Bool) (h2 : va.getLsbD 2 = true) :
    ∃ t, memReadMany (.ordinary priv) 2 va s =
        .ok [s.wordAt va, ({ s with mem := Memory.write s.mem pa.toNat b } : State).wordAt (va + 4#32)] t ∧
      t.mem = Memory.write s.mem pa.toNat b ∧ t.intruders = [] := by
  obtain ⟨direct, hm, ha⟩ := direct_of_plain h
  have noPair : ¬(Multiple.ordinary priv).pairAt va = true := by simp [Multiple.pairAt, h2]
  have aligned : (s.alignOn && faultsAlignment .word va) = false := by rw [ha]; rfl
  obtain ⟨r, hlocked, -, e⟩ := memReadWide_direct (s := s) (a := (Multiple.ordinary priv).access true va)
    (loc := plainPlace s va) direct aligned (locate_plain hm direct.dcacheOff va _ _) rfl
  rw [record_intruded direct.allRam hi (by rw [hlocked]; rfl)] at e
  obtain ⟨bus, rest⟩ := readRun_plain (.ordinary priv) 1 false (va + 4#32)
    (s := { s with bus := r :: s.bus, intruders := [], mem := Memory.write s.mem pa.toNat b }) h
  refine ⟨{ s with bus := bus, intruders := [], mem := Memory.write s.mem pa.toNat b }, ?_, rfl, rfl⟩
  rw [memReadMany, readRun, if_neg noPair, e]
  simp only [rest, physReadWide, low_of_zeroExtend]
  rfl

/-- A swap is locked: the write lands after both halves. -/
theorem memSwap_intruded (va v : Word) (priv : Bool) :
    ∃ t, memSwap va .word v priv s = .ok (s.wordAt va) t ∧ t.intruders = [] ∧
      t.mem = Memory.write (physWrite s.mem s.big .word (relocate s.cp15.pid va) v) pa.toNat b := by
  obtain ⟨direct, hm, ha⟩ := direct_of_plain h
  have aligned : (s.alignOn && faultsAlignment .word va) = false := by rw [ha]; rfl
  obtain ⟨r, hlocked, hread, e⟩ := memReadX_direct (s := s) (a := ⟨priv, priv, true, true⟩)
    (loc := plainPlace s va) direct (by decide) aligned (locate_plain hm direct.dcacheOff va _ _) rfl
  rw [record_locked hlocked hread] at e
  obtain ⟨w, hwrite, e'⟩ := memWriteX_direct (s := { s with bus := r :: s.bus }) (v := v) (a := ⟨priv, priv, true, true⟩)
    (s1 := { s with bus := r :: s.bus }) (loc := plainPlace s va)
    ⟨direct.dcacheOff, direct.noEntry, direct.noCastout, direct.allRam, direct.noWatch⟩ (by decide)
    aligned (locate_plain (s := { s with bus := r :: s.bus }) hm direct.dcacheOff va _ _) rfl
  rw [record_intruded (by exact direct.allRam) (by exact hi) (by rw [hwrite, Bool.not_true, Bool.and_false])] at e'
  exact ⟨_, by simp only [memSwap, e, Res.bind, e']; rfl, rfl, rfl⟩

end

/-- Settles O30: plain memory by the two accesses to it, the MMU by what `translate` leaves, and the other master by the
transaction it waits for. -/
theorem plainAccesses : Obligations.PlainAccesses := by
  refine ⟨?plain, ?translated, fun s va v pa b priv h hi =>
    ⟨memReadMany_intruded h hi priv, memSwap_intruded h hi va v priv⟩⟩
  case plain =>
    intro s va v size priv m h pa
    refine ⟨fun hs => ⟨memReadX_plain h va size hs (.ordinary priv), ?_, memSwap_plain h va v hs priv,
      fun hm => memRead_of_written h hm va v hs priv⟩, fun n => memReadMany_plain m n va h,
      fun vs => memWriteMany_plain m vs va h⟩
    obtain ⟨r, e⟩ := memWriteX_plain h va size hs v (.ordinary priv)
    refine ⟨r, ?_⟩
    rw [record_plain h]
    exact e
  case translated =>
    intro s s1 va v pa size priv c b status domain hu hm hr hg hs ha mva
    have aligned : (s.alignOn && faultsAlignment size va) = false := by
      rw [faultsAlignment_eq hs, Bool.and_eq_false_iff]
      exact ha
    have quiet : s.debugEnabled = false := by
      rw [State.noDebug, Bool.and_eq_true, Bool.not_eq_true'] at hg
      exact hg.1
    exact ⟨memRead_translated hu hm hr quiet hs aligned, memWrite_translated hu hm hr quiet hs aligned,
      memRead_faulted hm aligned, memWrite_faulted hm aligned⟩

end Sys2Proof.Machine
end

section
/-!
LDRD, STRD, SWP, SWPB and PLD, and what a Data Abort leaves (O26; spec/43 R603, R624, R625, R630; spec/45 R680, R681;
spec/22 R342; spec/60 R868).
-/
namespace Sys2Proof.Machine

variable {s s1 : State}

/-! ### The Data Abort (spec/60 R860, R868; spec/61 R910) -/

theorem entryCpsr_thumb (e : Exc) (w : Word) : (entryCpsr e w).getLsbD 5 = false := by
  have key : ∀ (a : BitVec 24) (x y z : BitVec 1) (m : BitVec 5), (a ++ x ++ y ++ z ++ m).getLsbD 5 = z.getLsbD 0 := by
    intro a x y z m
    simp only [BitVec.getLsbD_append]
    rfl
  exact key _ _ _ _ _

theorem entryCpsr_irq (e : Exc) (w : Word) : (entryCpsr e w).getLsbD 7 = true := by
  have key : ∀ (a : BitVec 24) (x y z : BitVec 1) (m : BitVec 5), (a ++ x ++ y ++ z ++ m).getLsbD 7 = x.getLsbD 0 := by
    intro a x y z m
    simp only [BitVec.getLsbD_append]
    rfl
  exact key _ _ _ _ _

/-- DSCR[5] is outside the method of entry. -/
theorem setMoe_sticky (d : Debug) (moe : BitVec 3) : (setMoe d moe).dscr.getLsbD 5 = d.dscr.getLsbD 5 := by
  have key : ∀ (a : BitVec 27) (m : BitVec 3) (l : BitVec 2), (a ++ m ++ l).getLsbD 5 = a.getLsbD 0 := by
    intro a m l
    simp only [BitVec.getLsbD_append]
    rfl
  refine (key _ _ _).trans ?_
  rw [BitVec.getLsbD_extractLsb']
  rfl

/-- The Data Abort of an access that left `s1`, for the instruction that began in `s`. -/
theorem dataAbort_aborted (h : MemSide s s1) (e : AbortInfo) : ∃ t, dataAbort e s1 = .next t ∧ dataAborted s s1 e t := by
  obtain ⟨d, n, rec, hd⟩ := recordDataFault_eq e.status e.domain e.va (s1.pc + s1.pcOffset) s1
  have status : (d ++ e.status : BitVec 8).extractLsb' 0 4 = e.status := BitVec.extractLsb'_append_eq_right
  have domain (x : BitVec 4) (hx : e.domain = some x) : (d ++ e.status : BitVec 8).extractLsb' 4 4 = x :=
    BitVec.extractLsb'_append_eq_left.trans (hd x hx)
  have ifar : s1.pc + s1.pcOffset = s.pc + s.pcOffset := by rw [h.pc, h.pcOffset]
  unfold dataAbort
  rw [rec]
  by_cases halted : s1.halted = true
  · have off : s.halted = true := h.halted ▸ halted
    refine ⟨_, if_pos halted, rfl, rfl, status, domain, ifar, fun no => ?_, fun _ => ⟨h.pc, h.regs, h.cpsr, ?_⟩⟩
    · rw [off] at no
      cases no
    · rw [setMoe_sticky]
      simp
  · have off : s.halted ≠ true := h.halted ▸ halted
    refine ⟨_, if_neg halted, takeException_mem _ _ _, ?_, ?_, ?_, ?_,
      fun _ => ⟨?_, ?_, ?_, takeException_mode _ _ _, ?_, ?_, ?_⟩, fun yes => absurd yes off⟩
    · rw [takeException_cp15]
    · rw [takeException_cp15]
      exact status
    · rw [takeException_cp15]
      exact domain
    · rw [takeException_cp15]
      exact ifar
    · rw [takeException_pc]
      exact congrArg (· + 0x10#32) h.vectorBase
    · refine (takeException_link .dataAbort _ _).trans ?_
      exact congrArg (· + 8#32) h.pc
    · exact (takeException_saved (e := .dataAbort) (k := 3) _ _ rfl).trans h.cpsr
    · rw [State.thumb, takeException_cpsr, entryCpsr_thumb]
    · rw [takeException_cpsr, entryCpsr_irq]
    · intro k hk
      refine (takeException_regs_ne .dataAbort _ _ hk).trans ?_
      exact congrArg (fun r : Vector Word 30 => r[k]) h.regs

/-- An operation on memory that aborts is a Data Abort. -/
theorem finish_aborted {α : Type} {x : Res α} {e : AbortInfo} {k : α → State → Outcome State} (hx : x.All (MemSide s))
    (h : x = .abort e s1) : ∃ t, x.finish k = .next t ∧ dataAborted s s1 e t := by
  rw [Res.finish_abort h]
  exact dataAbort_aborted (hx.of_abort h) e

/-! ### Alignment with A = 1 (spec/21 R290) -/

theorem memReadWide_misaligned {va : Word} {size : BusSize} (ha : s.alignOn = true) (hm : faultsAlignment size va = true)
    (a : Access) : memReadWide va size a s = .abort ⟨va, 1#4, none⟩ s := by
  rw [memReadWide, if_pos (by rw [ha, hm]; rfl)]

theorem memWriteWide_misaligned {va : Word} {size : BusSize} (ha : s.alignOn = true) (hm : faultsAlignment size va = true)
    (v : BitVec 64) (a : Access) (b : Burst) : memWriteWide va size v a b s = .abort ⟨va, 1#4, none⟩ s := by
  rw [memWriteWide, if_pos (by rw [ha, hm]; rfl)]

/-- A run of words from a misaligned address aborts on its first access, a word or a pair. -/
theorem memReadMany_misaligned {va : Word} (ha : s.alignOn = true) (hm : misaligned .word va = true) (m : Multiple) (n : Nat) :
    memReadMany m (n + 1) va s = .abort ⟨va, 1#4, none⟩ s := by
  have word := memReadWide_misaligned (size := .word) ha hm
  have pair := memReadWide_misaligned (size := .dword) ha hm
  cases n with
  | zero =>
    simp only [memReadMany, readRun, word]
    rfl
  | succ n =>
    simp only [memReadMany, readRun, word, pair, ite_self]
    rfl

theorem memWriteMany_misaligned {va : Word} (ha : s.alignOn = true) (hm : misaligned .word va = true) (m : Multiple) (v : Word)
    (vs : List Word) : memWriteMany m (v :: vs) va s = .abort ⟨va, 1#4, none⟩ s := by
  have word := memWriteWide_misaligned (size := .word) ha hm
  have pair := memWriteWide_misaligned (size := .dword) ha hm
  cases vs with
  | nil => simp only [memWriteMany, writeRun, word]
  | cons w vs => simp only [memWriteMany, writeRun, word, pair, Res.bind, ite_self]

/-! ### LDRD and STRD (spec/43 R624, R625) -/

/-- The address of a pair that is refused: not doubleword aligned, unless A = 1 makes it an Alignment fault. -/
def BadPair (s : State) (va : Word) : Prop := va.toNat % 8 ≠ 0 ∧ (s.alignOn = false ∨ va.toNat % 4 = 0)

theorem pairRefused_iff (va : Word) (s : State) : pairRefused va s = true ↔ BadPair s va := by
  rw [pairRefused, misaligned_dword, misaligned_word, BadPair]
  simp

section

variable {va : Word} {k : Outcome State}

theorem require_badPair (h : BadPair s va) (r : Refusal) : require (!pairRefused va s) r k = .refused r :=
  if_neg (by simp [(pairRefused_iff va s).mpr h])

theorem require_goodPair (h : ¬BadPair s va) (r : Refusal) : require (!pairRefused va s) r k = k :=
  require_pass (by simp [mt (pairRefused_iff va s).mp h])

theorem goodPair_of_aligned (h : va.toNat % 8 = 0) : ¬BadPair s va := fun bad => bad.1 h

theorem goodPair_of_fault (ha : s.alignOn = true) (h : va.toNat % 4 ≠ 0) : ¬BadPair s va := fun bad => by
  simp [BadPair, ha, h] at bad

end

/-- What a pair's access does that is not answered: refused, an Alignment fault, or another abort. -/
theorem pair_unanswered {α : Type} {x : Res α} {va : Word} {k : α → State → Outcome State} {out : Outcome State}
    {e : AbortInfo} (hout : out = require (!pairRefused va s) .misalignedDoubleword (x.finish k)) (hx : x.All (MemSide s))
    (hm : s.alignOn = true → misaligned .word va = true → x = .abort ⟨va, 1#4, none⟩ s) :
    (BadPair s va → out = .refused .misalignedDoubleword) ∧
    (s.alignOn = true → va.toNat % 4 ≠ 0 → ∃ t, out = .next t ∧ dataAborted s s ⟨va, 1#4, none⟩ t) ∧
    (¬BadPair s va → x = .abort e s1 → ∃ t, out = .next t ∧ dataAborted s s1 e t) := by
  subst hout
  refine ⟨fun bad => require_badPair bad _, fun ha h4 => ?_, fun good h => ?_⟩
  · rw [require_goodPair (goodPair_of_fault ha h4)]
    exact finish_aborted hx (hm ha (by rw [misaligned_word]; exact decide_eq_true h4))
  · rw [require_goodPair good]
    exact finish_aborted hx h

section

variable {c : Cond} {ix : Index} {rd : Reg} {off : Off3}

/-- An LDRD of an even Rd that runs, its address checked. -/
theorem exec_ldrd (hr : s.runs (.ldrd c ix rd off) = true) (hrd : rd.getLsbD 0 = false) :
    exec (.ldrd c ix rd off) s = require (!pairRefused (indexAddress ix (offset3 off s) s) s) .misalignedDoubleword
      ((memReadMany (.ordinary s.priv) 2 (indexAddress ix (offset3 off s) s) s).finish fun vs s1 =>
        advance (((writeBase ix (indexTarget ix (offset3 off s) s) s1).setReg rd (vs.getD 0 0#32)).setReg (rd + 1#4)
          (vs.getD 1 0#32))) := by
  obtain ⟨hc, hz, ho⟩ := runs_iff.mp hr
  have even : ¬rd.getLsbD 0 = true := by rw [hrd]; exact Bool.false_ne_true
  have allowed : (mode3Allowed ix off && pairAllowed rd && ldrdAllowed ix rd off) = true := by
    simpa only [operandsAllowed, hrd, Bool.false_or] using ho
  exact (whenCond_pass hc).trans ((require_pass hz).trans ((if_neg even).trans (require_pass allowed)))

theorem exec_strd (hr : s.runs (.strd c ix rd off) = true) (hrd : rd.getLsbD 0 = false) :
    exec (.strd c ix rd off) s = require (!pairRefused (indexAddress ix (offset3 off s) s) s) .misalignedDoubleword
      ((memWriteMany (.ordinary s.priv) [s.reg rd, s.reg (rd + 1#4)] (indexAddress ix (offset3 off s) s) s).finish fun _ s1 =>
        advance (writeBase ix (indexTarget ix (offset3 off s) s) s1)) := by
  obtain ⟨hc, hz, ho⟩ := runs_iff.mp hr
  have even : ¬rd.getLsbD 0 = true := by rw [hrd]; exact Bool.false_ne_true
  have allowed : (mode3Allowed ix off && pairAllowed rd && ldrdAllowed ix rd off) = true := by
    simpa only [operandsAllowed, hrd, Bool.false_or] using ho
  exact (whenCond_pass hc).trans ((require_pass hz).trans ((if_neg even).trans (require_pass allowed)))

theorem exec_ldrd_answered {v w : Word} (hr : s.ready (.ldrd c ix rd off) = true) (hrd : rd.getLsbD 0 = false)
    (good : ¬BadPair s (indexAddress ix (offset3 off s) s))
    (h : memReadMany (.ordinary s.priv) 2 (indexAddress ix (offset3 off s) s) s = .ok [v, w] s1) :
    exec (.ldrd c ix rd off) s =
      .next (((writeBase ix (indexTarget ix (offset3 off s) s) s1).setReg rd v).setReg (rd + 1#4) w).moveOn := by
  obtain ⟨run, hn⟩ := runs_of_ready hr
  have next : s1.canAdvance = s.canAdvance := ((memReadMany_readSide _ _ _ _).of_ok h).canAdvance
  rw [exec_ldrd run hrd, require_goodPair good, Res.finish_ok h]
  exact advance_of_canAdvance (by simp [next, hn])

theorem exec_strd_answered (hr : s.ready (.strd c ix rd off) = true) (hrd : rd.getLsbD 0 = false)
    (good : ¬BadPair s (indexAddress ix (offset3 off s) s))
    (h : memWriteMany (.ordinary s.priv) [s.reg rd, s.reg (rd + 1#4)] (indexAddress ix (offset3 off s) s) s = .ok () s1) :
    exec (.strd c ix rd off) s = .next (writeBase ix (indexTarget ix (offset3 off s) s) s1).moveOn := by
  obtain ⟨run, hn⟩ := runs_of_ready hr
  have next : s1.canAdvance = s.canAdvance := ((memWriteMany_memSide _ _ _ _).of_ok h).canAdvance
  rw [exec_strd run hrd, require_goodPair good, Res.finish_ok h]
  exact advance_of_canAdvance (by simp [next, hn])

/-- With an odd Rd both are Undefined (log 16). -/
theorem exec_ldrd_odd (hr : s.runs (.ldrd c ix rd off) = true) (hrd : rd.getLsbD 0 = true) :
    exec (.ldrd c ix rd off) s = undefinedInstr s := by
  obtain ⟨hc, hz, -⟩ := runs_iff.mp hr
  exact (whenCond_pass hc).trans ((require_pass hz).trans (if_pos hrd))

theorem exec_strd_odd (hr : s.runs (.strd c ix rd off) = true) (hrd : rd.getLsbD 0 = true) :
    exec (.strd c ix rd off) s = undefinedInstr s := by
  obtain ⟨hc, hz, -⟩ := runs_iff.mp hr
  exact (whenCond_pass hc).trans ((require_pass hz).trans (if_pos hrd))

end

/-! ### SWP and SWPB (spec/45 R680, R681) -/

section

variable {c : Cond} {rn rd rm : Reg} {z : BitVec 4}

/-- A swap that runs. -/
theorem swapOp_eq {e : Extend} (hc : s.passes c = true) (hz : (z == 0#4) = true)
    (ho : (noPc [rn, rd, rm] && rn != rm && rn != rd) = true) :
    swapOp e c rn rd z rm s = (memSwap (s.reg rn) e.size (s.reg rm) s.priv s).finish fun v s1 =>
      advance (s1.setReg rd (extendLoaded e (s.reg rn) v)) := by
  have allowed : (rn != regPc && rd != regPc && rm != regPc && rn != rm && rn != rd) = true := by
    simpa [noPc, and_assoc] using ho
  exact (whenCond_pass hc).trans ((require_pass hz).trans (require_pass allowed))

theorem exec_swp (hr : s.runs (.swp c rn rd z rm) = true) : exec (.swp c rn rd z rm) s =
    (memSwap (s.reg rn) .word (s.reg rm) s.priv s).finish fun v s1 =>
      advance (s1.setReg rd (v.rotateRight (8 * ((s.reg rn).toNat % 4)))) := by
  obtain ⟨hc, hz, ho⟩ := runs_iff.mp hr
  rw [← toNat_lowBits]
  exact swapOp_eq (e := .word) hc hz ho

theorem exec_swpb (hr : s.runs (.swpb c rn rd z rm) = true) : exec (.swpb c rn rd z rm) s =
    (memSwap (s.reg rn) .byte (s.reg rm) s.priv s).finish fun v s1 => advance (s1.setReg rd v) := by
  obtain ⟨hc, hz, ho⟩ := runs_iff.mp hr
  exact swapOp_eq (e := .byte) hc hz ho

/-- A swap whose two accesses are answered: the old contents go to Rd. -/
theorem swap_finish {va v x : Word} {size : BusSize} {priv : Bool} (f : Word → Word) (hn : s.canAdvance = true)
    (h : memSwap va size x priv s = .ok v s1) :
    ((memSwap va size x priv s).finish fun v s1 => advance (s1.setReg rd (f v))) = .next (s1.setReg rd (f v)).moveOn := by
  have next : s1.canAdvance = s.canAdvance := ((memSwap_memSide _ _ _ _ _).of_ok h).canAdvance
  rw [Res.finish_ok h]
  exact advance_setReg (next.trans hn) _ _

end

/-! ### PLD (spec/43 R630; spec/22 R342) -/

theorem exec_pld {u : Bool} {rn : Reg} {off : Off2} (hr : s.runs (.pld u rn off) = true) :
    exec (.pld u rn off) s = (preload (indexAddress ⟨true, u, false, rn⟩ (offset2 off s) s) s.priv s).finish fun _ s1 =>
      advance s1 := by
  obtain ⟨-, -, ho⟩ := runs_iff.mp hr
  exact require_pass ho

theorem checkEntry_ne_ambiguous (s : State) (e : TlbEntry) (mva : Word) (write priv : Bool) :
    checkEntry s e mva write priv ≠ .ambiguous := by
  unfold checkEntry
  split
  · exact nofun
  · split <;> exact nofun

/-- Only two entries for one address make a translation ambiguous (spec/21 R252; log 35). -/
theorem translate_ne_ambiguous {side : Side} {mva : Word} (write priv : Bool)
    (h : ((s.tlb side).matching mva).length ≤ 1) : (translate side mva write priv s).1 ≠ .ambiguous := by
  unfold translate
  split
  · exact checkEntry_ne_ambiguous _ _ _ _ _
  next two =>
    rw [two] at h
    simp at h
  · split
    · exact nofun
    · split
      · exact nofun
      · exact checkEntry_ne_ambiguous _ _ _ _ _

/-- Then the address of an access is found, or the access aborts. -/
theorem locate_ne_refuse {va : Word} (write priv : Bool)
    (h : s.mmuOn = false ∨ (s.dtlb.matching (relocate s.cp15.pid va)).length ≤ 1) (r : Refusal) :
    locate va write priv s ≠ .refuse r := by
  unfold locate
  dsimp only
  split
  · exact nofun
  next on =>
    have single : (s.dtlb.matching (relocate s.cp15.pid va)).length ≤ 1 := h.resolve_left (by rw [on]; decide)
    have found := translate_ne_ambiguous (side := .data) write priv single
    split
    · exact nofun
    · exact nofun
    next two =>
      rw [two] at found
      exact absurd rfl found

/-- A preload raises no abort, whatever becomes of its translation. -/
theorem preload_ok {va : Word} (priv : Bool)
    (h : s.mmuOn = false ∨ (s.dtlb.matching (relocate s.cp15.pid va)).length ≤ 1) :
    ∃ t, preload va priv s = .ok () t := by
  unfold preload
  split
  · split
    · exact ⟨_, rfl⟩
    · split
      · exact ⟨_, rfl⟩
      · split <;> exact ⟨_, rfl⟩
  · exact ⟨_, rfl⟩
  next r no => exact absurd no (locate_ne_refuse false priv h r)

/-- No watchpoint compares a preload (log 21). -/
theorem preload_dbg (va : Word) (priv : Bool) (s : State) : (preload va priv s).All fun t => t.dbg = s.dbg := by
  have located := locate_dbg va false priv s
  unfold preload
  split
  next hl =>
    have kept := located.of_ok hl
    split
    · exact kept
    · split
      · exact kept
      · split
        · exact ((readLine_dbg _ _ _ _).trans (drainAll_drainSide _).dbg).trans kept
        · exact (dataFill_dbg _ _ _ _ _).trans kept
  next hl => exact located.of_abort hl
  · trivial

theorem preload_plain (h : s.plain = true) (va : Word) (priv : Bool) : preload va priv s = .ok () s := by
  obtain ⟨hm, hd, -⟩ := plain_iff.mp h
  rw [preload, locate_plain hm hd]
  rfl

/-- Settles O26: each instruction is its accesses, whose abort is `dataAbort_aborted` and which plain memory answers by O30's
lemmas. -/
theorem pairsSwapsAndPreload : Obligations.PairsSwapsAndPreload := by
  refine ⟨?pairs, ?swaps, ?preloads⟩
  case pairs =>
    intro c ix rd off s s1 v w e a base load store words bad
    refine ⟨fun hrd hr => ⟨exec_ldrd_answered hr hrd, fun hp h8 => ?_⟩,
      fun hrd hr => ⟨exec_strd_answered hr hrd, fun hp h8 => ?_⟩,
      fun hrd hr => ?_, fun hrd hr => ?_, fun hrd hh => ⟨fun hr => ?_, fun hr => ?_⟩⟩
    · obtain ⟨b, h⟩ := memReadMany_plain (.ordinary s.priv) 2 a hp
      exact ⟨b, exec_ldrd_answered hr hrd (goodPair_of_aligned h8) h⟩
    · obtain ⟨b, h⟩ := memWriteMany_plain (.ordinary s.priv) words a hp
      exact ⟨b, exec_strd_answered hr hrd (goodPair_of_aligned h8) h⟩
    · exact pair_unanswered (exec_ldrd hr hrd) ((memReadMany_readSide _ _ _ _).mono fun _ k => k.toMemSide)
        fun ha hm => memReadMany_misaligned ha hm _ 1
    · exact pair_unanswered (exec_strd hr hrd) (memWriteMany_memSide _ _ _ _) fun ha hm => memWriteMany_misaligned ha hm _ _ _
    · exact (exec_ldrd_odd hr hrd).trans (undefinedInstr_of_running hh)
    · exact (exec_strd_odd hr hrd).trans (undefinedInstr_of_running hh)
  case swaps =>
    intro c rn rd rm z s s1 v e a does
    have swapped {i : Instr} {size : BusSize} {f : Word → Word} (hs : size ≠ .dword)
        (hx : s.runs i = true → exec i s = (memSwap a size (s.reg rm) s.priv s).finish fun v s1 =>
          advance (s1.setReg rd (f v))) : does i size f := by
      refine ⟨fun hr h => ?_, fun hr hp => ?_, fun hr h => ?_⟩
      · obtain ⟨run, hn⟩ := runs_of_ready hr
        exact (hx run).trans (swap_finish f hn h)
      · obtain ⟨run, hn⟩ := runs_of_ready hr
        obtain ⟨b, h⟩ := memSwap_plain hp a (s.reg rm) hs s.priv
        exact ⟨b, (hx run).trans (swap_finish f hn h)⟩
      · rw [hx hr]
        exact finish_aborted (memSwap_memSide _ _ _ _ _) h
    exact ⟨swapped (by decide) exec_swp, swapped (by decide) exec_swpb⟩
  case preloads =>
    intro u rn off s hr a
    obtain ⟨run, hn⟩ := runs_of_ready hr
    have done {t : State} (h : preload a s.priv s = .ok () t) : exec (.pld u rn off) s = .next t.moveOn := by
      have next : t.canAdvance = s.canAdvance := ((preload_readSide _ _ _).of_ok h).canAdvance
      exact (exec_pld run).trans ((Res.finish_ok h).trans (advance_of_canAdvance (next.trans hn)))
    refine ⟨fun hone => ?_, fun hp => done (preload_plain hp a s.priv)⟩
    obtain ⟨t, h⟩ := preload_ok s.priv hone
    have side := (preload_readSide a s.priv s).of_ok h
    exact ⟨t, done h, h, side.regs, side.cpsr, side.spsr, side.cp15, side.pc, (preload_dbg a s.priv s).of_ok h⟩

end Sys2Proof.Machine
end

section
/-!
Which bytes of memory a load or store writes with the DCache off and nothing buffered: none, those of its transfer, or those
of its transfers (O32, O33; spec/20 R202-R211, R224; spec/43; spec/44; spec/45 R680, R681; spec/46 R722; spec/48).
-/
namespace Sys2Proof.Machine

variable {s s1 t : State} {P : List Host.Cell → Prop}

/-! ### Memory through the templates: what completes an instruction leaves it alone -/

/-- Where an instruction ends in a next state, memory has the property there. -/
def Leaves (P : List Host.Cell → Prop) (x : Outcome State) : Prop := ∀ t, x = .next t → P t.mem

theorem Leaves.of_next (h : P s.mem) : Leaves P (.next s) := fun _ e => Host.Outcome.next.inj e ▸ h

theorem Leaves.of_refused (r : Refusal) : Leaves P (.refused r) := fun _ e => by cases e

theorem Leaves.advance (h : P s.mem) : Leaves P (advance s) := by
  intro t e
  rw [advance_next e, State.moveOn_mem]
  exact h

theorem Leaves.undefinedInstr (h : P s.mem) : Leaves P (undefinedInstr s) := by
  unfold Machine.undefinedInstr
  split
  · exact .of_refused _
  · exact .of_next (by rwa [takeException_mem])

theorem Leaves.loadPc {v : Word} (h : P s.mem) : Leaves P (loadPc v s) := by
  unfold Machine.loadPc
  split
  · exact .of_next h
  · unfold exchangeTo
    split
    · exact .of_refused _
    · exact .of_next h

theorem Leaves.exceptionReturn {v : Word} (h : P s.mem) : Leaves P (exceptionReturn v s) := by
  unfold Machine.exceptionReturn
  split
  · exact .of_refused _
  · dsimp only
    split
    · exact .of_next h
    · exact .of_refused _

theorem Leaves.whenCond {c : Cond} {k : Outcome State} (hs : P s.mem) (hk : Leaves P k) : Leaves P (whenCond c s k) := by
  unfold Machine.whenCond
  split
  · exact hk
  · exact .advance hs

theorem Leaves.require {ok : Bool} {r : Refusal} {k : Outcome State} (hk : Leaves P k) : Leaves P (require ok r k) :=
  fun t e => hk t (require_next e).2

/-- An access that aborts leaves memory to the Data Abort, which leaves it alone. -/
theorem Leaves.finish {α : Type} {x : Res α} {k : α → State → Outcome State} (hx : x.All fun u => P u.mem)
    (hk : ∀ a u, P u.mem → Leaves P (k a u)) : Leaves P (x.finish k) := by
  intro t e
  rcases Res.finish_next e with ⟨a, u, ok, e⟩ | ⟨i, u, abort, e⟩
  · exact hk a u (hx.of_ok ok) t e
  · obtain ⟨t', e', hmem, -⟩ := dataAbort_aborted (MemSide.refl u) i
    rw [e] at e'
    rw [Host.Outcome.next.inj e', hmem]
    exact hx.of_abort abort

@[simp] theorem writeBase_mem (ix : Index) (v : Word) (s : State) : (writeBase ix v s).mem = s.mem := by
  unfold writeBase
  split <;> simp

@[simp] theorem multipleWriteBase_mem (ix : Index) (list : BitVec 16) (v : Word) (s : State) :
    (multipleWriteBase ix list v s).mem = s.mem := by
  unfold multipleWriteBase
  split <;> simp

@[simp] theorem setRegs_mem (b : Bank) (l : List (Reg × Word)) (s : State) : (setRegs b s l).mem = s.mem := by
  unfold setRegs
  induction l generalizing s with
  | nil => rfl
  | cons p l ih => exact (ih _).trans (s.setRegIn_mem b p.1 p.2)

@[simp] theorem cpWriteBase_mem (f : CpMem) (v : Word) (s : State) : (cpWriteBase f v s).mem = s.mem := by
  unfold cpWriteBase
  split <;> simp

@[simp] theorem loadedValue_mem (e : Extend) (va v : Word) (s : State) : (loadedValue e va v s).2.mem = s.mem := by
  unfold loadedValue
  split <;> rfl

@[simp] theorem thumbLoaded_mem (e : Extend) (va v : Word) (s : State) : (thumbLoaded e va v s).2.mem = s.mem := by
  unfold thumbLoaded
  split <;> rfl

/-! ### Loads (spec/20 R210) -/

/-- A read with the DCache off and nothing buffered leaves memory alone. -/
theorem Res.All.unread {α : Type} {x : Res α} (h : x.All (ReadSide s)) (hu : s.uncached = true) :
    x.All fun u => u.mem = s.mem := h.mono fun _ k => (k.idle hu).1

section

variable (hu : s.uncached = true)
include hu

theorem loadReg_leaves (e : Extend) (priv : Bool) (ix : Index) (o : Word) (rd : Reg) :
    Leaves (· = s.mem) (loadReg e priv ix o rd s) :=
  .finish ((memRead_readSide _ _ _ _).unread hu) fun _ _ h => .advance (by simpa using h)

theorem loadToPc_leaves (ix : Index) (o : Word) : Leaves (· = s.mem) (loadToPc ix o s) :=
  .finish ((memRead_readSide _ _ _ _).unread hu) fun _ _ h => .require (.loadPc (by simpa using h))

theorem thumbLoad_leaves (e : Extend) (va : Word) (rd : LoReg) : Leaves (· = s.mem) (thumbLoad e va rd s) :=
  .finish ((memRead_readSide _ _ _ _).unread hu) fun _ _ h => .advance (by simpa using h)

theorem loadMultiple_leaves (ix : Index) (list : BitVec 16) : Leaves (· = s.mem) (loadMultiple ix list s) := by
  refine .finish ((memReadMany_readSide _ _ _ _).unread hu) fun vs u h => ?_
  dsimp only
  split
  · exact .require (.loadPc (by simpa using h))
  · exact .advance (by simpa using h)

/-- A load, single or multiple, leaves memory alone, whether or not it aborts. -/
theorem exec_load_leaves {i : Instr} (hi : isLoad i = true) : Leaves (· = s.mem) (exec i s) := by
  have many (m : Multiple) (n : Nat) (va : Word) := (memReadMany_readSide m n va s).unread hu
  cases i
  case ldr c ix rd off =>
    refine .whenCond rfl (.require ?_)
    split
    · exact loadToPc_leaves hu ix _
    · exact loadReg_leaves hu .word s.priv ix _ rd
  case ldrb | ldrt | ldrbt => exact .whenCond rfl (.require (loadReg_leaves hu _ _ _ _ _))
  case ldrh | ldrsb | ldrsh => exact .whenCond rfl (.require (.require (loadReg_leaves hu _ _ _ _ _)))
  case ldrd c ix rd off =>
    refine .whenCond rfl (.require ?_)
    split
    · exact .undefinedInstr rfl
    · exact .require (.require (.finish (many _ _ _) fun _ _ h => .advance (by simpa using h)))
  case ldm1 => exact .whenCond rfl (.require (loadMultiple_leaves hu _ _))
  case ldm2 =>
    exact .whenCond rfl (.require (.require (.require (.finish (many _ _ _) fun _ _ h => .advance (by simpa using h)))))
  case ldm3 =>
    exact .whenCond rfl (.require (.require (.finish (many _ _ _) fun _ _ h =>
      .require (.exceptionReturn (by simpa using h)))))
  case pld => exact .require (.finish ((preload_readSide _ _ _).unread hu) fun _ _ h => .advance h)
  case tPop | tLdmia => exact .require (loadMultiple_leaves hu _ _)
  case tLdrPc | tLdrsbReg | tLdrReg | tLdrhReg | tLdrbReg | tLdrshReg | tLdrImm | tLdrbImm | tLdrhImm | tLdrSp =>
    exact thumbLoad_leaves hu _ _ _
  all_goals cases hi

end

/-! ### Stores: a property that the access keeps, the instruction keeps -/

theorem storeReg_leaves {size : BusSize} {priv : Bool} {ix : Index} {o v : Word}
    (h : (memWrite (indexAddress ix o s) size v priv s).All fun u => P u.mem) : Leaves P (storeReg size priv ix o v s) :=
  .finish h fun _ _ h => .advance (by simpa using h)

theorem thumbStore_leaves {size : BusSize} {va : Word} {rd : LoReg}
    (h : (memWrite va size (loVal s rd) s.priv s).All fun u => P u.mem) : Leaves P (thumbStore size va rd s) :=
  .require (.finish h fun _ _ => .advance)

theorem storeMultiple_leaves {ix : Index} {list : BitVec 16}
    (h : (memWriteMany (.ordinary s.priv) ((listRegs list).map (stmValue ix list s)) (multipleStart ix list (s.reg ix.rn))
      (stmFree ix list s)).All fun u => P u.mem) : Leaves P (storeMultiple ix list s) :=
  .finish h fun _ _ h => .advance (by simpa using h)

/-- A single store is at most the access that `storeTarget` names. -/
theorem exec_store_leaves {i : Instr} {a : Word} {size : BusSize} {priv : Bool} (hi : storeTarget s i = some (a, size, priv))
    (hs : P s.mem) (hw : ∀ v, (memWrite a size v priv s).All fun u => P u.mem) : Leaves P (exec i s) := by
  cases i
  case str | strb | strt | strbt =>
    cases hi
    exact .whenCond hs (.require (storeReg_leaves (hw _)))
  case strh =>
    cases hi
    exact .whenCond hs (.require (.require (.require (storeReg_leaves (hw _)))))
  case tStrReg | tStrhReg | tStrbReg | tStrImm | tStrbImm | tStrhImm | tStrSp =>
    cases hi
    exact thumbStore_leaves (hw _)
  all_goals cases hi

/-- A store of several words is at most the run that `storeMany` names. -/
theorem exec_storeMany_leaves {i : Instr} {m : Multiple} {vs : List Word} {a : Word} {s0 : State}
    (hi : storeMany s i = some (m, vs, a, s0)) (hs : P s.mem) (hw : (memWriteMany m vs a s0).All fun u => P u.mem) :
    Leaves P (exec i s) := by
  cases i
  case strd c ix rd off =>
    cases hi
    refine .whenCond hs (.require ?_)
    split
    · exact .undefinedInstr hs
    · exact .require (.require (.finish hw fun _ _ h => .advance (by simpa using h)))
  case stm1 =>
    cases hi
    exact .whenCond hs (.require (storeMultiple_leaves hw))
  case stm2 =>
    cases hi
    exact .whenCond hs (.require (.require (.require (.finish hw fun _ _ => .advance))))
  case tPush | tStmia =>
    cases hi
    exact .require (storeMultiple_leaves hw)
  case stc c f =>
    obtain ⟨⟨hcp, hcrd⟩, e⟩ := Option.ite_none_right_eq_some.mp hi
    cases e
    refine .whenCond hs ?_
    rw [if_neg (by rw [hcp]; decide), if_pos hcp, stc14, if_pos hcrd]
    exact .require (.finish hw fun _ _ h => .advance (by rwa [cpWriteBase_mem]))
  all_goals cases hi

/-! ### One transfer (spec/20 R211) -/

theorem wideBytes_low (big : Bool) {size : BusSize} (h : size ≠ .dword) (pa : Word) :
    wideBytes big size pa = storedBytes big size pa := by
  cases size
  case dword => exact absurd rfl h
  all_goals rfl

theorem read_physWriteWide_of_not_mem {m : List Host.Cell} {big : Bool} {size : BusSize} {pa : Word} {v : BitVec 64} {x : Nat}
    (h : x ∉ wideBytes big size pa) : Memory.read (physWriteWide m big size pa v) x = Memory.read m x := by
  by_cases hs : size = .dword
  · subst hs
    obtain ⟨first, second⟩ := not_or.mp (fun e => h (List.mem_append.mpr e))
    rw [physWriteWide, read_physWrite_of_not_mem second, read_physWrite_of_not_mem first]
  · rw [wideBytes_low big hs] at h
    rw [physWriteWide_low hs, read_physWrite_of_not_mem h]

/-- Memory is as it was but at these bytes. -/
def Unwritten (bytes : List Nat) (s t : State) : Prop := ∀ x, x ∉ bytes → Memory.read t.mem x = Memory.read s.mem x

theorem Unwritten.of_mem (bytes : List Nat) (h : t.mem = s.mem) : Unwritten bytes s t := fun _ _ => by rw [h]

/-- A write on the bus: with ERROR nothing is stored, else at most its bytes. -/
theorem busWrite_unwritten (hu : s.uncached = true) (big : Bool) (size : BusSize) (pa : Word) (v : BitVec 64) (prot : BitVec 4)
    (locked : Bool) (burst : Burst) {ok : Bool} (h : busWrite big size pa v prot locked burst s = (ok, t)) :
    t.uncached = true ∧ (ok = false → t.mem = s.mem) ∧ Unwritten (wideBytes big size pa) s t := by
  obtain ⟨-, -, -, hi⟩ := uncached_iff.mp hu
  unfold busWrite at h
  split at h <;> cases h
  · rw [State.record_quiet hi]
    exact ⟨hu, fun _ => rfl, .of_mem _ rfl⟩
  · rw [State.record_quiet (by exact hi)]
    exact ⟨hu, nofun, fun x hx => read_physWriteWide_of_not_mem hx⟩
  · rw [State.record_quiet hi]
    exact ⟨hu, fun _ => rfl, .of_mem _ rfl⟩

end Sys2Proof.Machine
end

section
/-!
The bytes of single stores, of runs of stores and of swaps, and the two frames (O32, O33; spec/20 R202-R211, R224; spec/44 R654;
spec/45 R680, R681).
-/
namespace Sys2Proof.Machine

variable {s s1 t : State}

/-! ### A located store (spec/20 R211) -/

theorem wideBytes_alignDown (big : Bool) (size : BusSize) (pa : Word) :
    wideBytes big size (alignDown size pa) = wideBytes big size pa := by
  by_cases hs : size = .dword
  · subst hs
    have twice : alignDown .dword (alignDown .dword pa) = alignDown .dword pa := by simp [alignDown, BitVec.and_assoc]
    simp only [wideBytes, twice]
  · simp only [wideBytes_low big hs, storedBytes, laneAddr_alignDown]

section

variable {loc : Located} {va : Word} {size : BusSize} {v : BitVec 64} {priv ext locked : Bool} {burst : Burst}

theorem writeAt_ok (hu : s.uncached = true) (hr : loc.region = .ncnb)
    (h : writeAt loc va size v priv ext locked burst s = .ok () t) :
    t.uncached = true ∧ Unwritten (wideBytes s.big size loc.pa) s t := by
  obtain ⟨place, hpa, e⟩ := writeAt_ncnb hr va size v priv ext locked burst s
  rw [e, writeUnbuffered, drainAll_of_uncached hu] at h
  rcases hb : busWrite s.big size (alignDown size place.pa) v (hprot true priv place.b place.c) locked .single s with ⟨ok, u⟩
  obtain ⟨idle, -, frame⟩ := busWrite_unwritten hu _ _ _ _ _ _ _ hb
  rw [wideBytes_alignDown, hpa] at frame
  have off : u.dcacheOn = false := (uncached_iff.mp idle).1
  simp only [hb] at h
  cases ok with
  | true =>
    simp only [storeInCache_of_off off] at h
    cases h
    exact ⟨idle, frame⟩
  | false =>
    cases ext with
    | true => cases h
    | false =>
      simp only [storeInCache_of_off off] at h
      cases h
      exact ⟨idle, frame⟩

/-- A store that aborts has written nothing. -/
theorem writeAt_abort {i : AbortInfo} (hu : s.uncached = true) (hr : loc.region = .ncnb)
    (h : writeAt loc va size v priv ext locked burst s = .abort i t) : t.mem = s.mem := by
  obtain ⟨place, -, e⟩ := writeAt_ncnb hr va size v priv ext locked burst s
  rw [e, writeUnbuffered, drainAll_of_uncached hu] at h
  rcases hb : busWrite s.big size (alignDown size place.pa) v (hprot true priv place.b place.c) locked .single s with ⟨ok, u⟩
  obtain ⟨-, kept, -⟩ := busWrite_unwritten hu _ _ _ _ _ _ _ hb
  simp only [hb] at h
  cases ok
  case false =>
    cases ext <;> cases h
    exact kept rfl
  case true => cases h

end

/-! ### One transfer -/

theorem Res.bind_abort {α β : Type} {x : Res α} {k : α → State → Res β} {i : AbortInfo} (h : x.bind k = .abort i t) :
    x = .abort i t ∨ ∃ a u, x = .ok a u ∧ k a u = .abort i t := by
  cases x with
  | ok a u => exact .inr ⟨a, u, rfl, h⟩
  | abort j u =>
    cases h
    exact .inl rfl
  | refuse r => cases h

/-- An uncached access after its translation: nothing is buffered, and memory, byte order and region are known. -/
theorem locate_uncached {va : Word} {write priv : Bool} {loc : Located} (hu : s.uncached = true)
    (h : locate va write priv s = .ok loc s1) :
    s1.uncached = true ∧ s1.mem = s.mem ∧ s1.big = s.big ∧ loc.region = .ncnb := by
  have moved := (locate_readSide va write priv s).of_ok h
  obtain ⟨same, idle⟩ := moved.idle hu
  exact ⟨idle, same, moved.toMemSide.ctlBit 7, locate_region h (uncached_iff.mp hu).1⟩

section

variable {va : Word} {size : BusSize} {v : BitVec 64} {a : Access} {b : Burst}

/-- A write that is answered has written at most the bytes of its transfer, where its address translates to. -/
theorem memWriteWide_ok (hu : s.uncached = true) (h : memWriteWide va size v a b s = .ok () t) :
    t.uncached = true ∧ ∃ loc s1, locate va true a.priv s = .ok loc s1 ∧ Unwritten (wideBytes s.big size loc.pa) s t := by
  unfold memWriteWide at h
  split at h
  · cases h
  · obtain ⟨loc, s1, hl, h⟩ := Res.bind_ok h
    obtain ⟨_, u, hw, h⟩ := Res.bind_ok h
    cases h
    obtain ⟨idle, hmem, hbig, hr⟩ := locate_uncached hu hl
    obtain ⟨written, frame⟩ := writeAt_ok idle hr hw
    obtain ⟨noted, still⟩ := (noteAccess_readSide va size false a.seenPriv u).idle written
    refine ⟨still, loc, s1, hl, fun x hx => ?_⟩
    rw [noted, frame x (by rwa [hbig]), hmem]

/-- A write that aborts, in its translation or on the bus, has written nothing. -/
theorem memWriteWide_abort {i : AbortInfo} (hu : s.uncached = true) (h : memWriteWide va size v a b s = .abort i t) :
    t.mem = s.mem := by
  unfold memWriteWide at h
  split at h
  · cases h
    rfl
  · rcases Res.bind_abort h with h | ⟨loc, s1, hl, h⟩
    · exact (((locate_readSide va true a.priv s).of_abort h).idle hu).1
    · obtain ⟨idle, hmem, -, hr⟩ := locate_uncached hu hl
      rcases Res.bind_abort h with h | ⟨_, u, -, h⟩
      · exact (writeAt_abort idle hr h).trans hmem
      · cases h

end

/-- A single store: at most the bytes where its address translates to. -/
theorem memWriteX_unwritten {va v : Word} {size : BusSize} {a : Access} (hu : s.uncached = true) (hs : size ≠ .dword) :
    (memWriteX va size v a s).All fun u => ∀ x,
      (∀ loc s1, locate va true a.priv s = .ok loc s1 → x ∉ storedBytes s.big size loc.pa) →
        Memory.read u.mem x = Memory.read s.mem x := by
  cases hw : memWriteX va size v a s with
  | ok _ u =>
    obtain ⟨-, loc, s1, hl, frame⟩ := memWriteWide_ok hu hw
    rw [wideBytes_low _ hs] at frame
    exact fun x hx => frame x (hx loc s1 hl)
  | abort i u => exact fun x _ => by rw [memWriteWide_abort hu hw]
  | refuse r => trivial

/-- The two halves of a swap: the write's bytes, where its address translates to after the read. -/
theorem memSwap_unwritten {va v : Word} {size : BusSize} {priv : Bool} (hu : s.uncached = true) (hs : size ≠ .dword) :
    (memSwap va size v priv s).All fun u => ∀ x,
      (¬∃ old s1 loc s2, memReadX va size ⟨priv, priv, true, true⟩ s = .ok old s1 ∧
        locate va true priv s1 = .ok loc s2 ∧ x ∈ storedBytes s.big size loc.pa) → Memory.read u.mem x = Memory.read s.mem x := by
  have read := memReadX_readSide va size ⟨priv, priv, true, true⟩ s
  unfold memSwap
  cases hr : memReadX va size ⟨priv, priv, true, true⟩ s with
  | ok old s1 =>
    have moved := read.of_ok hr
    obtain ⟨same, idle⟩ := moved.idle hu
    have big : s1.big = s.big := moved.toMemSide.ctlBit 7
    refine ((memWriteX_unwritten idle hs).mono fun u frame x hx => ?_ :
      (memWriteX va size v ⟨priv, priv, true, true⟩ s1).All _).bind (fun _ _ => id) fun _ => id
    rw [frame x fun loc s2 hl hm => hx ⟨old, s1, loc, s2, rfl, hl, big ▸ hm⟩, same]
  | abort i s1 => exact fun x _ => by rw [((read.of_abort hr).idle hu).1]
  | refuse r => trivial

/-! ### A run of transfers (spec/44 R654) -/

/-- The bytes of one transfer of a run, and those of what follows it if it does not abort. -/
def transferBytes (va : Word) (size : BusSize) (v : BitVec 64) (a : Access) (b : Burst) (tail : State → List Nat) (s : State) :
    List Nat :=
  match locate va true a.priv s, memWriteWide va size v a b s with
  | .ok loc _, .ok () u => wideBytes s.big size loc.pa ++ tail u
  | _, _ => []

theorem writtenBytes_one (m : Multiple) (v : Word) (first : Bool) (va : Word) (s : State) :
    writtenBytes m [v] first va s = transferBytes va .word (v.zeroExtend 64) (m.access first va) (runBurst first va 1 0)
      (fun _ => []) s := by
  unfold writtenBytes transferBytes
  simp only [List.append_nil]
  rfl

theorem writtenBytes_pair {m : Multiple} {va : Word} (h : m.pairAt va = true) (v w : Word) (rest : List Word) (first : Bool)
    (s : State) : writtenBytes m (v :: w :: rest) first va s = transferBytes va .dword (w ++ v) (m.access first va)
      (runBurst first va 2 rest.length) (writtenBytes m rest false (va + 8#32)) s := by
  rw [writtenBytes, if_pos h]
  rfl

theorem writtenBytes_word {m : Multiple} {va : Word} (h : ¬m.pairAt va = true) (v w : Word) (rest : List Word) (first : Bool)
    (s : State) : writtenBytes m (v :: w :: rest) first va s = transferBytes va .word (v.zeroExtend 64) (m.access first va)
      (runBurst first va 1 (rest.length + 1)) (writtenBytes m (w :: rest) false (va + 4#32)) s := by
  rw [writtenBytes, if_neg h]
  rfl

section

variable {va : Word} {size : BusSize} {v : BitVec 64} {a : Access} {b : Burst} {tail : State → List Nat}

theorem mem_transferBytes {x : Nat} (h : x ∈ transferBytes va size v a b tail s) :
    ∃ loc s1 u, locate va true a.priv s = .ok loc s1 ∧ memWriteWide va size v a b s = .ok () u ∧
      (x ∈ wideBytes s.big size loc.pa ∨ x ∈ tail u) := by
  unfold transferBytes at h
  split at h
  next hl hw => exact ⟨_, _, _, hl, hw, List.mem_append.mp h⟩
  next => cases h

/-- A transfer and what follows it, which is only where the transfer does not abort. -/
theorem transfer_unwritten {k : Unit → State → Res Unit} (hu : s.uncached = true)
    (hk : ∀ u : State, u.uncached = true → (k () u).All (Unwritten (tail u) u)) :
    ((memWriteWide va size v a b s).bind k).All (Unwritten (transferBytes va size v a b tail s) s) := by
  cases hw : memWriteWide va size v a b s with
  | ok _ u =>
    obtain ⟨idle, loc, s1, hl, frame⟩ := memWriteWide_ok hu hw
    refine (hk u idle).mono fun t after x hx => ?_
    rw [transferBytes, hl, hw] at hx
    obtain ⟨outside, behind⟩ := not_or.mp fun e => hx (List.mem_append.mpr e)
    rw [after x behind, frame x outside]
  | abort i u => exact .of_mem _ (memWriteWide_abort hu hw)
  | refuse r => trivial

end

/-- A run of stores writes at most `writtenBytes`. -/
theorem writeRun_unwritten (m : Multiple) : ∀ (vs : List Word) (first : Bool) (va : Word) {s : State}, s.uncached = true →
    (writeRun m vs first va s).All (Unwritten (writtenBytes m vs first va s) s)
  | [], _, _, _, _ => .of_mem _ rfl
  | [v], first, va, s, hu => by
    have alone := transfer_unwritten (va := va) (size := .word) (v := v.zeroExtend 64) (a := m.access first va)
      (b := runBurst first va 1 0) (tail := fun _ => []) (k := fun _ u => .ok () u) hu fun u _ => .of_mem _ rfl
    rw [writtenBytes_one, writeRun]
    cases hw : memWriteWide va .word (v.zeroExtend 64) (m.access first va) (runBurst first va 1 0) s with
    | ok _ u => rwa [hw] at alone
    | abort i u => rwa [hw] at alone
    | refuse r => trivial
  | v :: w :: rest, first, va, s, hu => by
    unfold writeRun
    split
    next pair =>
      rw [writtenBytes_pair pair]
      exact transfer_unwritten hu fun u idle => writeRun_unwritten m rest false (va + 8#32) idle
    next noPair =>
      rw [writtenBytes_word noPair]
      exact transfer_unwritten hu fun u idle => writeRun_unwritten m (w :: rest) false (va + 4#32) idle

/-! ### With the MMU off: the bytes of the words (spec/20 R202) -/

theorem locate_of_mmuOff {va : Word} {write priv : Bool} {loc : Located} (hm : s.mmuOn = false)
    (h : locate va write priv s = .ok loc s1) : loc.pa = relocate s.cp15.pid va := by
  simp only [locate, hm] at h
  cases h
  rfl

theorem wideBytes_two (big : Bool) (pid : BitVec 7) {va : Word} (h : va.getLsbD 2 = false) :
    wideBytes big .dword (relocate pid va) =
      storedBytes big .word (relocate pid va) ++ storedBytes big .word (relocate pid (va + 4#32)) := by
  have low (x : Word) : storedBytes big .word (alignDown .word x) = storedBytes big .word x := by
    simp only [storedBytes, laneAddr_alignDown]
  obtain ⟨first, second⟩ := relocate_next pid va h
  simp only [wideBytes, first, ← second, low]

theorem transferBytes_subset {va : Word} {size : BusSize} {v : BitVec 64} {a : Access} {b : Burst} {tail : State → List Nat}
    {rest : List Nat} (hm : s.mmuOn = false) (ht : ∀ u, MemSide s u → tail u ⊆ rest) :
    transferBytes va size v a b tail s ⊆ wideBytes s.big size (relocate s.cp15.pid va) ++ rest := by
  intro x hx
  obtain ⟨loc, s1, u, hl, hw, hx⟩ := mem_transferBytes hx
  rw [locate_of_mmuOff hm hl] at hx
  exact List.mem_append.mpr (hx.imp_right fun h => ht u ((memWriteWide_memSide _ _ _ _ _ _).of_ok hw) h)

theorem MemSide.wordBytes {u : State} (side : MemSide s u) : wordBytes u.big u.cp15.pid = wordBytes s.big s.cp15.pid := by
  rw [side.cp15, show u.big = s.big from side.ctlBit 7]

/-- With the MMU off a run of stores writes at most the bytes of its words. -/
theorem writtenBytes_subset (m : Multiple) : ∀ (vs : List Word) (first : Bool) (va : Word) {s : State}, s.mmuOn = false →
    writtenBytes m vs first va s ⊆ wordBytes s.big s.cp15.pid vs.length va
  | [], _, _, _, _ => List.nil_subset _
  | [v], first, va, s, hm => by
    rw [writtenBytes_one]
    exact transferBytes_subset (size := .word) hm fun _ _ => List.nil_subset _
  | v :: w :: rest, first, va, s, hm => by
    by_cases pair : m.pairAt va = true
    · have two : wordBytes s.big s.cp15.pid (v :: w :: rest).length va =
          wideBytes s.big .dword (relocate s.cp15.pid va) ++ wordBytes s.big s.cp15.pid rest.length (va + 8#32) := by
        rw [wideBytes_two _ _ (m.pairAt_bit2 pair), List.append_assoc, add_eight]
        rfl
      rw [writtenBytes_pair pair, two]
      exact transferBytes_subset hm fun u side =>
        side.wordBytes ▸ writtenBytes_subset m rest false (va + 8#32) ((side.ctlBit 0).trans hm)
    · rw [writtenBytes_word pair]
      exact transferBytes_subset (size := .word) hm fun u side =>
        side.wordBytes ▸ writtenBytes_subset m (w :: rest) false (va + 4#32) ((side.ctlBit 0).trans hm)

/-! ### The instructions -/

theorem storeTarget_size {i : Instr} {a : Word} {size : BusSize} {priv : Bool} (h : storeTarget s i = some (a, size, priv)) :
    size ≠ .dword := by
  cases i
  case str | strb | strt | strbt | strh | tStrReg | tStrhReg | tStrbReg | tStrImm | tStrbImm | tStrhImm | tStrSp =>
    cases h
    decide
  all_goals cases h

/-- A store of several words begins where the instruction does, but for a free value that it may use up (spec/44 R658). -/
theorem storeMany_start {i : Instr} {m : Multiple} {vs : List Word} {a : Word} {s0 : State}
    (h : storeMany s i = some (m, vs, a, s0)) : s0 = s ∨ s0 = s.useFree := by
  have freed (ix : Index) (list : BitVec 16) : stmFree ix list s = s ∨ stmFree ix list s = s.useFree := by
    unfold stmFree
    split
    · exact .inr rfl
    · exact .inl rfl
  cases i
  case strd | stm2 =>
    cases h
    exact .inl rfl
  case stm1 | tPush | tStmia =>
    cases h
    exact freed _ _
  case stc =>
    obtain ⟨-, e⟩ := Option.ite_none_right_eq_some.mp h
    cases e
    exact .inl rfl
  all_goals cases h

theorem exec_storeMany_unwritten {i : Instr} {m : Multiple} {vs : List Word} {a : Word} {s0 : State}
    (h : storeMany s i = some (m, vs, a, s0)) (hu : s.uncached = true) (ht : exec i s = .next t) :
    Unwritten (writtenBytes m vs true a s0) s t := by
  have start : s0.uncached = true ∧ s0.mem = s.mem := by
    rcases storeMany_start h with rfl | rfl
    · exact ⟨hu, rfl⟩
    · exact ⟨hu, rfl⟩
  refine exec_storeMany_leaves (P := fun mem => ∀ x,
    x ∉ writtenBytes m vs true a s0 → Memory.read mem x = Memory.read s.mem x)
    h (fun _ _ => rfl) ((writeRun_unwritten m vs true a start.1).mono fun u frame x hx => ?_) t ht
  rw [frame x hx, start.2]

theorem swapOp_leaves {P : List Host.Cell → Prop} {e : Extend} {c : Cond} {rn rd rm : Reg} {z : BitVec 4} (hs : P s.mem)
    (h : (memSwap (s.reg rn) e.size (s.reg rm) s.priv s).All fun u => P u.mem) : Leaves P (swapOp e c rn rd z rm s) :=
  .whenCond hs (.require (.require (.finish h fun _ _ h => .advance (by simpa using h))))

/-- A swap, of a word or of a byte, writes at most where its address translates to after its read. -/
theorem swapOp_unwritten {e : Extend} {c : Cond} {rn rd rm : Reg} {z : BitVec 4} (he : e.size ≠ .dword)
    (hu : s.uncached = true) (ht : swapOp e c rn rd z rm s = .next t) (x : Nat)
    (hx : ¬∃ old s1 loc s2, memReadX (s.reg rn) e.size ⟨s.priv, s.priv, true, true⟩ s = .ok old s1 ∧
      locate (s.reg rn) true s.priv s1 = .ok loc s2 ∧ x ∈ storedBytes s.big e.size loc.pa) :
    Memory.read t.mem x = Memory.read s.mem x := by
  refine swapOp_leaves (P := fun mem => Memory.read mem x = Memory.read s.mem x) rfl ?_ t ht
  exact (memSwap_unwritten hu he).mono fun u frame => frame x hx

/-- With the MMU off that is the relocated address. -/
theorem swapOp_unwritten_off {e : Extend} {c : Cond} {rn rd rm : Reg} {z : BitVec 4} (he : e.size ≠ .dword)
    (hu : s.uncached = true) (hm : s.mmuOn = false) (ht : swapOp e c rn rd z rm s = .next t) :
    Unwritten (storedBytes s.big e.size (relocate s.cp15.pid (s.reg rn))) s t := by
  refine fun x hx => swapOp_unwritten he hu ht x ?_
  rintro ⟨old, s1, loc, s2, hr, hl, hmem⟩
  have side := ((memReadX_readSide _ _ _ _).of_ok hr).toMemSide
  rw [locate_of_mmuOff ((side.ctlBit 0).trans hm) hl, side.cp15] at hmem
  exact hx hmem

/-- Settles O32: loads by `exec_load_leaves`, single stores by the bytes of their one transfer. -/
theorem singleAccessMemoryFrame : Obligations.SingleAccessMemoryFrame := by
  refine ⟨fun i s t hi hu ht x => by rw [exec_load_leaves hu hi t ht], fun i s t a size p hi hu ht => ?_⟩
  have frame := exec_store_leaves (P := fun mem => ∀ x,
    (∀ loc s1, locate a true p s = .ok loc s1 → x ∉ storedBytes s.big size loc.pa) →
      Memory.read mem x = Memory.read s.mem x)
    hi (fun _ _ => rfl) (fun v => memWriteX_unwritten (a := .ordinary p) hu (storeTarget_size hi)) t ht
  refine ⟨fun loc s1 hl x hx => frame x fun loc' s1' hl' => ?_, fun no x => frame x fun loc s1 hl => absurd hl (no loc s1)⟩
  rw [hl] at hl'
  cases hl'
  exact hx

/-- Settles O33: runs of stores by `writtenBytes`, transfer by transfer, swaps by their write; with the MMU off each address is
the relocated one. -/
theorem multipleStoreFrame : Obligations.MultipleStoreFrame := by
  refine ⟨fun i s s0 t m vs a h hu ht => exec_storeMany_unwritten h hu ht, fun c rn rd rm z s t hu => ⟨?_, ?_⟩,
    fun i s s0 t m vs a h hu hm ht x hx => exec_storeMany_unwritten h hu ht x fun hw => hx ?_,
    fun c rn rd rm z s t hu hm => ⟨?_, ?_⟩⟩
  · exact fun ht x hx => swapOp_unwritten (e := .word) (by decide) hu ht x hx
  · exact fun ht x hx => swapOp_unwritten (e := .byte) (by decide) hu ht x hx
  · rcases storeMany_start h with rfl | rfl
    · exact writtenBytes_subset m vs true a hm hw
    · exact writtenBytes_subset m vs true a (s := s.useFree) hm hw
  · exact fun ht => swapOp_unwritten_off (e := .word) (by decide) hu hm ht
  · exact fun ht => swapOp_unwritten_off (e := .byte) (by decide) hu hm ht

end Sys2Proof.Machine
end

section
/-!
The entries of a TLB (O55; spec/11 R150-R152; spec/21 R252, R253, R280, R285): the addresses they give, and the check of an access by
the entry of a client domain.
-/
namespace Sys2Proof.Machine

variable {s : State} {e : TlbEntry}

/-! ### Addresses within a page -/

/-- The `n` low bits of `mva` below the others of the base `w`. -/
def pageAddress (n : Nat) (w mva : Word) : Word := ((w >>> n) <<< n) ||| (mva &&& ((1#32 <<< n) - 1#32))

theorem getLsbD_lowMask {n i : Nat} (hn : n < 32) : ((1#32 <<< n) - 1#32).getLsbD i = decide (i < n) := by
  have small : 2 ^ n < 2 ^ 32 := Nat.pow_lt_pow_right (by decide) hn
  have positive : 0 < 2 ^ n := Nat.two_pow_pos n
  have mask : ((1#32 <<< n) - 1#32).toNat = 2 ^ n - 1 := by
    rw [BitVec.toNat_sub, BitVec.toNat_shiftLeft, BitVec.toNat_ofNat, Nat.shiftLeft_eq]
    omega
  rw [BitVec.getLsbD, mask, Nat.testBit_two_pow_sub_one]

theorem getLsbD_pageAddress {n i : Nat} (w mva : Word) (hn : n < 32) (hi : i < 32) :
    (pageAddress n w mva).getLsbD i = if i < n then mva.getLsbD i else w.getLsbD i := by
  rw [pageAddress, BitVec.getLsbD_or, BitVec.getLsbD_and, getLsbD_lowMask hn, BitVec.getLsbD_shiftLeft,
    BitVec.getLsbD_ushiftRight]
  by_cases h : i < n
  · simp [h]
  · simp [h, hi, Nat.add_sub_cancel' (Nat.le_of_not_lt h)]

/-- The physical address of an entry whose size code is listed (spec/11 R152). -/
theorem physical_of_listed (h : ∀ code, e.size ≠ .unlisted code) (mva : Word) :
    e.physical mva = pageAddress e.size.bits (e.pa ++ 0#10) mva := by
  unfold TlbEntry.physical
  split
  next code hc => exact absurd hc (h code)
  next => rfl

theorem isSection_iff_of_listed (h : ∀ code, e.size ≠ .unlisted code) : e.isSection = true ↔ e.size = .mb1 := by
  unfold TlbEntry.isSection
  cases hs : e.size
  case unlisted code => exact absurd hs (h code)
  all_goals simp

/-! ### The check of an access (spec/21 R253, R280, R285) -/

theorem apSelectOk_oneHot : ∀ ap : BitVec 2, apSelectOk (1#4 <<< ap.toNat) = true := by decide

theorem apOfSelect_oneHot : ∀ ap : BitVec 2, apOfSelect (1#4 <<< ap.toNat) = some ap := by decide

theorem usePermission_listed (h : apSelectOk e.apSelect = true) (s : State) : usePermission e s = s := if_pos h

/-- A client's access: its AP bits decide. -/
theorem checkEntry_of_client {ap : BitVec 2} (hd : e.dfi = false) (ha : e.apSelect = 1#4 <<< ap.toNat) (s : State)
    (mva : Word) (write priv : Bool) : checkEntry s e mva write priv =
      if apPermits ap s.sysProt s.romProt priv write then .ok (e.physical mva) e.c e.b
      else .fault (if e.isSection then 13#4 else 15#4) (some e.domain) := by
  have permits : entryPermits s e write priv = apPermits ap s.sysProt s.romProt priv write := by
    rw [entryPermits, ha, if_pos (apSelectOk_oneHot ap), apOfSelect_oneHot]
  rw [checkEntry, hd, permits, if_neg Bool.false_ne_true]

/-- One entry matches: it is checked, and nothing is walked. -/
theorem translate_of_hit {side : Side} {mva : Word} (h : (s.tlb side).matching mva = [e])
    (ha : apSelectOk e.apSelect = true) (write priv : Bool) :
    translate side mva write priv s = (checkEntry s e mva write priv, s) := by
  rw [translate, h]
  exact congrArg _ (usePermission_listed ha s)

/-- The access permission table (spec/21 R280; D29). -/
theorem apPermits_table (sys rom priv write : Bool) :
    apPermits 0#2 false false priv write = false ∧
    (apPermits 0#2 true false priv write = true ↔ priv = true ∧ write = false) ∧
    (apPermits 0#2 false true priv write = true ↔ write = false) ∧
    apPermits 0#2 true true priv write = false ∧
    (apPermits 1#2 sys rom priv write = true ↔ priv = true) ∧
    (apPermits 2#2 sys rom priv write = true ↔ priv = true ∨ write = false) ∧
    apPermits 3#2 sys rom priv write = true := by
  simp [apPermits]

/-- Settles O55: the table, the check of a client's entry, a fetch that such an entry does not permit, and the address. -/
theorem permissionTable : Obligations.PermissionTable := by
  refine ⟨apPermits_table, fun s e mva write priv ap hd ha => checkEntry_of_client hd ha s mva write priv, ?fetched, ?address⟩
  case fetched =>
    intro s e va thumb priv ap hm hit hd ha denied
    have checked := checkEntry_of_client hd ha s (relocate s.cp15.pid va) false priv
    rw [denied, if_neg Bool.false_ne_true] at checked
    have answer := translate_of_hit (side := .instr) hit (by rw [ha, apSelectOk_oneHot]) false priv
    rw [checked] at answer
    exact fetch_of_fault hm answer
  case address =>
    refine fun e mva h => ⟨isSection_iff_of_listed h, e.size.bits, ?_, physical_of_listed h mva⟩
    cases e.size <;> rfl

end Sys2Proof.Machine
end

section
/-!
SUPPORT. A table walk in memory (spec/20 R214; spec/21 R260-R268): the state it reads from and leaves, and the entry or the
fault that it forms of the descriptors.
-/
namespace Sys2Proof.Machine

variable {s t : State} {side : Side}

/-! ### The descriptor reads (spec/20 R214; spec/23 R394) -/

theorem drainOne_intruders (hi : s.intruders = []) : (drainOne s).intruders = [] := by
  cases hc : s.castout with
  | none =>
    cases hw : s.wbuf with
    | nil => rw [drainOne, hw, hc, drainCastout, hc, hi]
    | cons e rest =>
      obtain ⟨r, -, h⟩ := drainOne_entry_alone hi hw (by simp [hc])
      rw [h, hi]
  | some x =>
    by_cases older : s.wbuf = [] ∨ x.ahead = 0
    · obtain ⟨r, -, h⟩ := drainOne_castout_alone hi hc older
      rw [h, hi]
    · obtain ⟨nonempty, ahead⟩ := not_or.mp older
      obtain ⟨e, rest, hw⟩ := List.exists_cons_of_ne_nil nonempty
      obtain ⟨r, -, h⟩ := drainOne_entry_alone hi hw (fun y hy => by rw [hc] at hy; cases hy; exact ahead)
      rw [h, hi]

/-- A drain brings no write of another master. -/
theorem drainAll_intruders (hi : s.intruders = []) : (drainAll s).intruders = [] := by
  have run : ∀ (n : Nat) (t : State), t.intruders = [] → (drains n t).intruders = [] := by
    intro n
    induction n with
    | zero => exact fun t ht => ht
    | succ n ih => exact fun t ht => ih _ (drainOne_intruders ht)
  rw [drainAll_eq_drains]
  exact run _ s hi

/-- A read on the AHB from plain memory. -/
theorem busRead_memory (hm : s.memMap = []) (hi : s.intruders = []) (m : BusMaster) (size : BusSize) (pa : Word)
    (prot : BitVec 4) (locked : Bool) :
    ∃ r, busRead m size pa prot locked s = (some (physReadWide s.mem s.big size pa), { s with bus := r :: s.bus }) := by
  have ram : kindAt s.memMap pa.toNat = .ram := by rw [hm]; rfl
  unfold busRead
  simp only [ram, record_alone hi]
  exact ⟨_, rfl⟩

/-- The state that a walk reads its descriptors in: that after a drain on the data side (spec/20 R214). -/
def walkStart (side : Side) (s : State) : State :=
  match side with
  | .data => drainAll s
  | .instr => s

/-- `t` is the start of a walk but for the bus records and the free values used. -/
structure Walking (side : Side) (s t : State) : Prop where
  eq : t = { walkStart side s with bus := t.bus, freeCount := t.freeCount }

theorem walkStart_memSide (side : Side) (s : State) : MemSide s (walkStart side s) := by
  cases side
  · exact MemSide.refl s
  · exact drainAll_memSide s

theorem walkStart_tlb (side other : Side) (s : State) : (walkStart side s).tlb other = s.tlb other := by
  cases side
  · rfl
  · rw [walkStart, (drainAll_drainSide s).eq]
    cases other <;> rfl

theorem walkStart_intruders (side : Side) (hi : s.intruders = []) : (walkStart side s).intruders = [] := by
  cases side
  · exact hi
  · exact drainAll_intruders hi

theorem Walking.cp15 (h : Walking side s t) : t.cp15 = s.cp15 := by
  rw [h.eq]
  exact (walkStart_memSide side s).cp15

theorem Walking.memMap (h : Walking side s t) : t.memMap = s.memMap := by
  rw [h.eq]
  exact (walkStart_memSide side s).memMap

theorem Walking.mem (h : Walking side s t) : t.mem = (walkStart side s).mem := by rw [h.eq]
theorem Walking.wbuf (h : Walking side s t) : t.wbuf = (walkStart side s).wbuf := by rw [h.eq]
theorem Walking.castout (h : Walking side s t) : t.castout = (walkStart side s).castout := by rw [h.eq]

theorem Walking.tlb (h : Walking side s t) (other : Side) : t.tlb other = s.tlb other := by
  rw [← walkStart_tlb side other s, h.eq]
  cases other <;> rfl

/-- Nothing is left to drain once a walk has begun. -/
theorem Walking.walkStart (h : Walking side s t) : walkStart side t = t := by
  cases side
  · rfl
  · exact drainAll_of_empty (by rw [h.eq]; exact drainAll_wbuf s) (by rw [h.eq]; exact drainAll_castout s)

theorem walkRead_of_busRead {pa : Word} {d : BitVec 64}
    (h : busRead side.master .word pa
      ((walkStart side s).freeVal.extractLsb' 0 3 ++ BitVec.ofBool (side == .data)) false (walkStart side s).useFree =
        (some d, t)) : walkRead side pa s = (some (d.extractLsb' 0 32), t) := by
  unfold walkRead
  cases side <;> dsimp only [walkStart] at h ⊢ <;> rw [h]

/-- A descriptor read from memory. -/
theorem walkRead_memory (side : Side) (pa : Word) (hm : s.memMap = []) (hi : s.intruders = []) :
    ∃ t, walkRead side pa s = (some (physRead (walkStart side s).mem s.big .word pa), t) ∧ t.intruders = [] ∧
      Walking side s t := by
  have same := walkStart_memSide side s
  obtain ⟨r, hr⟩ := busRead_memory (s := (walkStart side s).useFree) (same.memMap.trans hm) (walkStart_intruders side hi)
    side.master .word pa ((walkStart side s).freeVal.extractLsb' 0 3 ++ BitVec.ofBool (side == .data)) false
  have read := walkRead_of_busRead hr
  rw [physReadWide_low (by decide), low_of_zeroExtend, show (walkStart side s).useFree.big = s.big from same.ctlBit 7] at read
  exact ⟨_, read, walkStart_intruders side hi, ⟨rfl⟩⟩

/-- A walk goes on where its first read has left it. -/
theorem Walking.next {u : State} (h : Walking side s t) (hu : Walking side t u) : Walking side s u :=
  ⟨by rw [hu.eq, h.walkStart, h.eq]⟩

/-! ### What a walk forms of the descriptors (spec/21 R260-R268) -/

/-- The type bits of a descriptor. -/
theorem typeBits_of_mod {d : Word} {b1 b0 : Bool} (h : d.toNat % 4 = 2 * b1.toNat + b0.toNat) :
    d.getLsbD 1 = b1 ∧ d.getLsbD 0 = b0 := by
  have bits : d.toNat % 4 = 2 * (d.getLsbD 1).toNat + (d.getLsbD 0).toNat := by
    simp only [BitVec.getLsbD, Nat.toNat_testBit]
    omega
  have unique : ∀ x1 x0 y1 y0 : Bool, 2 * x1.toNat + x0.toNat = 2 * y1.toNat + y0.toNat → x1 = y1 ∧ x0 = y0 := by decide
  exact unique _ _ _ _ (bits.symm.trans h)

theorem getLsbD_baseAppend {m n i : Nat} (w mva : Word) (hi : i < n + m) :
    (w.extractLsb' n m ++ mva.extractLsb' 0 n).getLsbD i = if i < n then mva.getLsbD i else w.getLsbD i := by
  rw [BitVec.getLsbD_append]
  split
  next low => rw [BitVec.getLsbD_extractLsb', Nat.zero_add, decide_eq_true low, Bool.true_and]
  next high =>
    rw [BitVec.getLsbD_extractLsb', Nat.add_sub_cancel' (Nat.le_of_not_lt high), decide_eq_true (by omega), Bool.true_and]

/-- A base above an offset is an address within the page. -/
theorem baseAppend_eq {n : Nat} {a w mva : Word} (hn : n < 32)
    (h : ∀ i < 32, a.getLsbD i = if i < n then mva.getLsbD i else w.getLsbD i) : a = pageAddress n w mva := by
  apply BitVec.eq_of_getLsbD_eq
  intro i hi
  rw [h i hi, getLsbD_pageAddress w mva hn hi]

theorem sectionAddress_eq (w mva : Word) : (w.extractLsb' 20 12 ++ mva.extractLsb' 0 20 : Word) = pageAddress 20 w mva :=
  baseAppend_eq (by decide) fun _ => getLsbD_baseAppend (m := 12) (n := 20) w mva

theorem largeAddress_eq (w mva : Word) : (w.extractLsb' 16 16 ++ mva.extractLsb' 0 16 : Word) = pageAddress 16 w mva :=
  baseAppend_eq (by decide) fun _ => getLsbD_baseAppend (m := 16) (n := 16) w mva

theorem smallAddress_eq (w mva : Word) : (w.extractLsb' 12 20 ++ mva.extractLsb' 0 12 : Word) = pageAddress 12 w mva :=
  baseAppend_eq (by decide) fun _ => getLsbD_baseAppend (m := 20) (n := 12) w mva

theorem tinyAddress_eq (w mva : Word) : (w.extractLsb' 10 22 ++ mva.extractLsb' 0 10 : Word) = pageAddress 10 w mva :=
  baseAppend_eq (by decide) fun _ => getLsbD_baseAppend (m := 22) (n := 10) w mva

/-- A table's base, the index of a descriptor in it, and two zeros. -/
theorem getLsbD_descriptorAddress {m k p i : Nat} (table mva : Word) (hi : i < m + k + 2) :
    (table.extractLsb' (k + 2) m ++ mva.extractLsb' p k ++ 0#2).getLsbD i =
      if i < 2 then false else if i < k + 2 then mva.getLsbD (p + (i - 2)) else table.getLsbD i := by
  rw [BitVec.getLsbD_append, BitVec.getLsbD_append, BitVec.getLsbD_extractLsb', BitVec.getLsbD_extractLsb']
  by_cases h2 : i < 2
  · simp [h2]
  · by_cases hk : i < k + 2
    · simp [h2, hk, show i - 2 < k by omega]
    · simp [h2, hk, show ¬i - 2 < k by omega, show i - 2 - k < m by omega, show k + 2 + (i - 2 - k) = i by omega]

/-- The descriptor of a section or of a table (spec/21 R260). -/
theorem levelOneAddress_eq (ttbr mva : Word) : (ttbr.extractLsb' 14 18 ++ mva.extractLsb' 20 12 ++ 0#2 : Word) =
    (ttbr &&& 0xFFFFC000#32) ||| ((mva >>> 20) <<< 2) := by
  apply BitVec.eq_of_getLsbD_eq
  intro i hi
  refine (getLsbD_descriptorAddress (m := 18) (k := 12) (p := 20) ttbr mva hi).trans ?_
  interval_cases i <;> simp

/-- The descriptor of a page in a coarse table (spec/21 R263). -/
theorem coarseAddress_eq (d mva : Word) : (d.extractLsb' 10 22 ++ mva.extractLsb' 12 8 ++ 0#2 : Word) =
    (d &&& 0xFFFFFC00#32) ||| ((mva.extractLsb' 12 8).zeroExtend 32 <<< 2) := by
  apply BitVec.eq_of_getLsbD_eq
  intro i hi
  refine (getLsbD_descriptorAddress (m := 22) (k := 8) (p := 12) d mva hi).trans ?_
  interval_cases i <;> simp

/-- The descriptor of a page in a fine table (spec/21 R264). -/
theorem fineAddress_eq (d mva : Word) : (d.extractLsb' 12 20 ++ mva.extractLsb' 10 10 ++ 0#2 : Word) =
    (d &&& 0xFFFFF000#32) ||| ((mva.extractLsb' 10 10).zeroExtend 32 <<< 2) := by
  apply BitVec.eq_of_getLsbD_eq
  intro i hi
  refine (getLsbD_descriptorAddress (m := 20) (k := 10) (p := 10) d mva hi).trans ?_
  interval_cases i <;> simp

/-- The AP bits of the subpage that an address is in (spec/21 R265-R267). -/
theorem subpageAp_eq {i : Nat} (w mva : Word) :
    subpageAp w (mva.extractLsb' i 2) = (w >>> (4 + 2 * (mva.toNat / 2 ^ i % 4))).extractLsb' 0 2 := by
  rw [subpageAp, BitVec.extractLsb'_toNat, Nat.shiftRight_eq_div_pow]

section

variable (dacr mva : Word) {w : Word} (dom : BitVec 4) (fine : Bool)

theorem pageEntry_of_invalid (h : w.toNat % 4 = 0) : pageEntry dacr mva w dom fine = .fault 7#4 (some dom) := by
  obtain ⟨h1, h0⟩ := typeBits_of_mod (b1 := false) (b0 := false) h
  simp only [pageEntry, h1, h0]

theorem pageEntry_of_large (h : w.toNat % 4 = 1) : pageEntry dacr mva w dom fine =
    .entry (walkedEntry dacr mva (pageAddress 16 w mva) (if sameAps w then .kb64 else .kb16) dom
      ((w >>> (4 + 2 * (mva.toNat / 16384 % 4))).extractLsb' 0 2) (w.getLsbD 3) (w.getLsbD 2)) := by
  obtain ⟨h1, h0⟩ := typeBits_of_mod (b1 := false) (b0 := true) h
  simp only [pageEntry, h1, h0, largeAddress_eq, subpageAp_eq, Nat.reducePow]

theorem pageEntry_of_small (h : w.toNat % 4 = 2) : pageEntry dacr mva w dom fine =
    .entry (walkedEntry dacr mva (pageAddress 12 w mva) (if sameAps w then .kb4 else .kb1) dom
      ((w >>> (4 + 2 * (mva.toNat / 1024 % 4))).extractLsb' 0 2) (w.getLsbD 3) (w.getLsbD 2)) := by
  obtain ⟨h1, h0⟩ := typeBits_of_mod (b1 := true) (b0 := false) h
  simp only [pageEntry, h1, h0, smallAddress_eq, subpageAp_eq, Nat.reducePow]

/-- Tiny pages are in fine tables only (spec/21 R268). -/
theorem pageEntry_of_tiny (h : w.toNat % 4 = 3) : pageEntry dacr mva w dom fine =
    if fine then .entry (walkedEntry dacr mva (pageAddress 10 w mva) .kb1 dom (w.extractLsb' 4 2) (w.getLsbD 3) (w.getLsbD 2))
    else .fault 7#4 (some dom) := by
  obtain ⟨h1, h0⟩ := typeBits_of_mod (b1 := true) (b0 := true) h
  simp only [pageEntry, h1, h0, tinyAddress_eq]

end

/-- What a walk finds, if `read` gives the descriptors: by the type of the level 1 descriptor (spec/21 R260-R264). -/
def walked (read : Word → Word) (ttbr dacr mva : Word) : Walked :=
  let d := read ((ttbr &&& 0xFFFFC000#32) ||| ((mva >>> 20) <<< 2))
  match d.toNat % 4 with
  | 0 => .fault 5#4 none
  | 1 => pageEntry dacr mva (read ((d &&& 0xFFFFFC00#32) ||| ((mva.extractLsb' 12 8).zeroExtend 32 <<< 2)))
      (d.extractLsb' 5 4) false
  | 2 => .entry (walkedEntry dacr mva (pageAddress 20 d mva) .mb1 (d.extractLsb' 5 4) (d.extractLsb' 10 2)
      (d.getLsbD 3) (d.getLsbD 2))
  | _ => pageEntry dacr mva (read ((d &&& 0xFFFFF000#32) ||| ((mva.extractLsb' 10 10).zeroExtend 32 <<< 2)))
      (d.extractLsb' 5 4) true

section

variable {read : Word → Word} {ttbr mva d : Word} (dacr : Word)
  (hd : read ((ttbr &&& 0xFFFFC000#32) ||| ((mva >>> 20) <<< 2)) = d)
include hd

theorem walked_of_invalid (h : d.toNat % 4 = 0) : walked read ttbr dacr mva = .fault 5#4 none := by
  simp only [walked, hd, h]

theorem walked_of_coarse (h : d.toNat % 4 = 1) : walked read ttbr dacr mva =
    pageEntry dacr mva (read ((d &&& 0xFFFFFC00#32) ||| ((mva.extractLsb' 12 8).zeroExtend 32 <<< 2)))
      (d.extractLsb' 5 4) false := by
  simp only [walked, hd, h]

theorem walked_of_section (h : d.toNat % 4 = 2) : walked read ttbr dacr mva =
    .entry (walkedEntry dacr mva (pageAddress 20 d mva) .mb1 (d.extractLsb' 5 4) (d.extractLsb' 10 2)
      (d.getLsbD 3) (d.getLsbD 2)) := by
  simp only [walked, hd, h]

theorem walked_of_fine (h : d.toNat % 4 = 3) : walked read ttbr dacr mva =
    pageEntry dacr mva (read ((d &&& 0xFFFFF000#32) ||| ((mva.extractLsb' 10 10).zeroExtend 32 <<< 2)))
      (d.extractLsb' 5 4) true := by
  simp only [walked, hd, h]

end

/-- A walk of tables in memory finds what their descriptors give, and only reads. -/
theorem tableWalk_memory (side : Side) (mva : Word) (hm : s.memMap = []) (hi : s.intruders = []) :
    ∃ t, tableWalk side mva s =
      (walked (physRead (walkStart side s).mem s.big .word) s.cp15.ttbr s.cp15.dacr mva, t) ∧ Walking side s t := by
  obtain ⟨t, first, quiet, began⟩ := walkRead_memory side ((s.cp15.ttbr &&& 0xFFFFC000#32) ||| ((mva >>> 20) <<< 2)) hm hi
  have big : t.big = s.big := by rw [State.big, State.ctlBit, began.cp15]; rfl
  have second (pa : Word) : ∃ u, walkRead side pa t = (some (physRead (walkStart side s).mem s.big .word pa), u) ∧
      Walking side s u := by
    obtain ⟨u, read, -, went⟩ := walkRead_memory side pa (began.memMap.trans hm) quiet
    rw [began.walkStart, began.mem, big] at read
    exact ⟨u, read, began.next went⟩
  generalize hd : physRead (walkStart side s).mem s.big .word ((s.cp15.ttbr &&& 0xFFFFC000#32) ||| ((mva >>> 20) <<< 2)) = d
    at first
  have type : d.toNat % 4 = 0 ∨ d.toNat % 4 = 1 ∨ d.toNat % 4 = 2 ∨ d.toNat % 4 = 3 := by omega
  unfold tableWalk
  simp only [levelOneAddress_eq, coarseAddress_eq, fineAddress_eq, sectionAddress_eq, first]
  obtain h | h | h | h := type
  · obtain ⟨h1, h0⟩ := typeBits_of_mod (b1 := false) (b0 := false) h
    rw [walked_of_invalid _ hd h]
    simp only [h1, h0]
    exact ⟨t, rfl, began⟩
  · obtain ⟨h1, h0⟩ := typeBits_of_mod (b1 := false) (b0 := true) h
    obtain ⟨u, read, went⟩ := second ((d &&& 0xFFFFFC00#32) ||| ((mva.extractLsb' 12 8).zeroExtend 32 <<< 2))
    rw [walked_of_coarse _ hd h]
    simp only [h1, h0, read]
    exact ⟨u, rfl, went⟩
  · obtain ⟨h1, h0⟩ := typeBits_of_mod (b1 := true) (b0 := false) h
    rw [walked_of_section _ hd h]
    simp only [h1, h0]
    exact ⟨t, rfl, began⟩
  · obtain ⟨h1, h0⟩ := typeBits_of_mod (b1 := true) (b0 := true) h
    obtain ⟨u, read, went⟩ := second ((d &&& 0xFFFFF000#32) ||| ((mva.extractLsb' 10 10).zeroExtend 32 <<< 2))
    rw [walked_of_fine _ hd h]
    simp only [h1, h0, read]
    exact ⟨u, rfl, went⟩

end Sys2Proof.Machine
end

section
/-!
Translation by the tables of the MMU (O56; spec/21 R251-R255, R260-R268, R280, R285): the entry that a walk loads, the check
of the access by it, and the hit after it.
-/
namespace Sys2Proof.Machine

variable {s t : State} {side : Side} {mva : Word}

/-! ### The TLB of a side -/

@[simp] theorem State.setTlb_tlb (s : State) (side : Side) (x : Tlb) : (s.setTlb side x).tlb side = x := by
  cases side <;> rfl

@[simp] theorem State.setTlb_cp15 (s : State) (side : Side) (x : Tlb) : (s.setTlb side x).cp15 = s.cp15 := by
  cases side <;> rfl

@[simp] theorem State.setTlb_mem (s : State) (side : Side) (x : Tlb) : (s.setTlb side x).mem = s.mem := by
  cases side <;> rfl

@[simp] theorem State.setTlb_wbuf (s : State) (side : Side) (x : Tlb) : (s.setTlb side x).wbuf = s.wbuf := by
  cases side <;> rfl

@[simp] theorem State.setTlb_castout (s : State) (side : Side) (x : Tlb) : (s.setTlb side x).castout = s.castout := by
  cases side <;> rfl

/-- A fill of a TLB with no match makes the loaded entry its only match (spec/21 R255). -/
theorem Tlb.fill_matching {x : Tlb} {e : TlbEntry} (none : x.matching mva = []) (hit : e.hits mva = true) :
    (x.fill e).matching mva = [{ e with preserved := x.preserve }] := by
  have others : ∀ l : List (Option TlbEntry), (∀ o ∈ l, o ∈ x.entries.toList) →
      l.filterMap (fun o => o.filter fun e => e.hits mva) = [] := fun l hl =>
    List.filterMap_eq_nil_iff.mpr fun o ho => List.filterMap_eq_nil_iff.mp none o (hl o ho)
  have loaded : Option.filter (fun e : TlbEntry => e.hits mva) (some { e with preserved := x.preserve }) =
      some { e with preserved := x.preserve } := Option.filter_some_pos hit
  have place : x.victim.toNat < x.entries.toList.length := by
    rw [Vector.length_toList]
    exact x.victim.isLt
  rw [Tlb.matching, Tlb.fill, Vector.toList_set, List.set_eq_take_append_cons_drop, if_pos place, List.filterMap_append,
    List.filterMap_cons, others _ fun o => List.mem_of_mem_take, others _ fun o => List.mem_of_mem_drop, List.nil_append,
    loaded]

/-! ### The entry that a walk forms (spec/11 R151; spec/21 R254) -/

section

variable {dacr p : Word} {size : PageSize} {dom : BitVec 4} {ap : BitVec 2} {c b : Bool}

theorem domainBits_eq {k : Nat} (h : (dacr >>> (2 * dom.toNat)).toNat % 4 = k) : domainBits dacr dom = BitVec.ofNat 2 k := by
  apply BitVec.eq_of_toNat_eq
  rw [domainBits, BitVec.extractLsb'_toNat, Nat.shiftRight_zero, BitVec.toNat_ofNat, ← h, Nat.mod_mod]

/-- The page number of an address, as an entry holds it. -/
theorem getLsbD_pageNumber (v : Word) {i : Nat} (h : 10 ≤ i) :
    (v.extractLsb' 10 22 ++ 0#10 : Word).getLsbD i = v.getLsbD i := by
  refine (BitVec.getLsbD_append (x := v.extractLsb' 10 22) (y := 0#10)).trans ?_
  rw [if_neg (Nat.not_lt.mpr h), BitVec.getLsbD_extractLsb', Nat.add_sub_cancel' h]
  by_cases word : i < 32
  · simp [show i - 10 < 22 by omega]
  · simp [show ¬i - 10 < 22 by omega, BitVec.getLsbD_of_ge v i (by omega)]

theorem PageSize.ten_le_bits (size : PageSize) : 10 ≤ size.bits := by cases size <;> simp [PageSize.bits]

theorem walkedEntry_hits : (walkedEntry dacr mva p size dom ap c b).hits mva = true := by
  rw [TlbEntry.hits, beq_iff_eq]
  apply BitVec.eq_of_getLsbD_eq
  intro i hi
  rw [BitVec.getLsbD_ushiftRight, BitVec.getLsbD_ushiftRight]
  exact (getLsbD_pageNumber mva (Nat.le_add_right_of_le size.ten_le_bits)).symm

theorem walkedEntry_apSelectOk : apSelectOk (walkedEntry dacr mva p size dom ap c b).apSelect = true := by
  unfold walkedEntry
  dsimp only
  split
  · exact apSelectOk_oneHot ap
  · rfl

/-- The size of an entry for a descriptor that maps `n` low address bits: as large as its page or one of its subpages, and a
section's for a section only. -/
structure PageSize.Fits (size : PageSize) (sect : Bool) (n : Nat) : Prop where
  listed : ∀ code, size ≠ .unlisted code
  within : size.bits ≤ n
  small : n < 32
  section_iff : size = .mb1 ↔ sect = true

theorem PageSize.Fits.ite {size size' : PageSize} {sect : Bool} {n : Nat} (h : size.Fits sect n) (h' : size'.Fits sect n)
    (whole : Bool) : (if whole then size else size').Fits sect n := by cases whole <;> assumption

variable {n k : Nat} {w : Word} {sect : Bool}

/-- The entry gives the address that the walk found, whatever subpage it covers. -/
theorem walkedEntry_physical (fits : size.Fits sect n) :
    (walkedEntry dacr mva (pageAddress n w mva) size dom ap c b).physical mva = pageAddress n w mva := by
  rw [physical_of_listed fits.listed]
  apply BitVec.eq_of_getLsbD_eq
  intro i hi
  have bits : (walkedEntry dacr mva (pageAddress n w mva) size dom ap c b).size.bits = size.bits := rfl
  have base : (walkedEntry dacr mva (pageAddress n w mva) size dom ap c b).pa = (pageAddress n w mva).extractLsb' 10 22 := rfl
  rw [bits, base, getLsbD_pageAddress _ _ (Nat.lt_of_le_of_lt fits.within fits.small) hi]
  split
  next low => rw [getLsbD_pageAddress _ _ fits.small hi, if_pos (Nat.lt_of_lt_of_le low fits.within)]
  next high => exact getLsbD_pageNumber _ (size.ten_le_bits.trans (Nat.le_of_not_lt high))

theorem walkedEntry_isSection (fits : size.Fits sect n) : (walkedEntry dacr mva p size dom ap c b).isSection = sect :=
  Bool.eq_iff_iff.mpr ((isSection_iff_of_listed fits.listed).trans fits.section_iff)

theorem checkEntry_walked_noAccess (fits : size.Fits sect n) (hk : (dacr >>> (2 * dom.toNat)).toNat % 4 = k)
    (h : k = 0 ∨ k = 2) (s : State) (write priv : Bool) :
    checkEntry s (walkedEntry dacr mva p size dom ap c b) mva write priv =
      .fault (if sect then 9#4 else 11#4) (some dom) := by
  have dfi : (walkedEntry dacr mva p size dom ap c b).dfi = true := by
    simp only [walkedEntry, domainBits_eq hk]
    obtain rfl | rfl := h <;> rfl
  rw [checkEntry, if_pos dfi, walkedEntry_isSection fits]
  rfl

theorem checkEntry_walked_client (fits : size.Fits sect n) (hk : (dacr >>> (2 * dom.toNat)).toNat % 4 = 1)
    (s : State) (write priv : Bool) :
    checkEntry s (walkedEntry dacr mva (pageAddress n w mva) size dom ap c b) mva write priv =
      if apPermits ap s.sysProt s.romProt priv write then .ok (pageAddress n w mva) c b
      else .fault (if sect then 13#4 else 15#4) (some dom) := by
  have bits := domainBits_eq hk
  rw [checkEntry_of_client (ap := ap) (by simp [walkedEntry, bits]) (by simp [walkedEntry, bits]),
    walkedEntry_isSection fits, walkedEntry_physical fits]
  rfl

theorem checkEntry_walked_manager (fits : size.Fits sect n) (hk : (dacr >>> (2 * dom.toNat)).toNat % 4 = 3)
    (s : State) (write priv : Bool) :
    checkEntry s (walkedEntry dacr mva (pageAddress n w mva) size dom ap c b) mva write priv =
      .ok (pageAddress n w mva) c b := by
  have bits := domainBits_eq hk
  have dfi : (walkedEntry dacr mva (pageAddress n w mva) size dom ap c b).dfi = false := by simp [walkedEntry, bits]
  have free : (walkedEntry dacr mva (pageAddress n w mva) size dom ap c b).apSelect = 0#4 := by simp [walkedEntry, bits]
  have permits : entryPermits s (walkedEntry dacr mva (pageAddress n w mva) size dom ap c b) write priv = true := by
    rw [entryPermits, free]
    rfl
  rw [checkEntry, if_neg (by rw [dfi]; decide), if_pos permits, walkedEntry_physical fits]
  rfl

end

/-- The check reads control register 1 only, if the entry's AP select code is listed. -/
theorem checkEntry_congr {e : TlbEntry} (hc : t.cp15 = s.cp15) (ha : apSelectOk e.apSelect = true) (mva : Word)
    (write priv : Bool) : checkEntry t e mva write priv = checkEntry s e mva write priv := by
  have permits : entryPermits t e write priv = entryPermits s e write priv := by
    simp only [entryPermits, if_pos ha, State.sysProt, State.romProt, State.ctlBit, hc]
  rw [checkEntry, checkEntry, permits]

/-! ### A miss (spec/21 R253-R255) -/

section

variable {write priv : Bool} (miss : (s.tlb side).matching mva = []) (walks : s.cp15.cr2.getLsbD 4 = false)
include miss walks

theorem translate_of_unmapped {status : BitVec 4} {domain : Option (BitVec 4)}
    (walk : tableWalk side mva s = (.fault status domain, t)) :
    translate side mva write priv s = (.fault status domain, t) := by
  rw [translate, miss]
  simp only [walks, walk]
  rfl

theorem translate_of_entry {e : TlbEntry} (walk : tableWalk side mva s = (.entry e, t)) :
    translate side mva write priv s = (checkEntry t e mva write priv, t.setTlb side ((t.tlb side).fill e)) := by
  rw [translate, miss]
  simp only [walks, walk]
  rfl

/-- Beyond the walk a translation moves the TLB of its side only. -/
theorem translate_state {x : Walked} (walk : tableWalk side mva s = (x, t)) :
    ∃ u, (translate side mva write priv s).2 = t.setTlb side u := by
  cases x with
  | fault status domain =>
    rw [translate_of_unmapped miss walks walk]
    exact ⟨t.tlb side, by cases side <;> rfl⟩
  | entry e =>
    rw [translate_of_entry miss walks walk]
    exact ⟨_, rfl⟩

end

/-! ### The clauses of O56 -/

/-- A fault of the walk: the TLB stays. -/
def Unmapped (side : Side) (mva : Word) (write priv : Bool) (s : State) (status : BitVec 4) (domain : Option (BitVec 4)) : Prop :=
  let r := translate side mva write priv s
  r.1 = .fault status domain ∧ r.2.tlb side = s.tlb side

/-- A mapping by the descriptor `w` of `n` low address bits, with domain `dom` and permission `ap`: the answer, the entry
loaded and the hit after it. -/
def Mapped (side : Side) (mva : Word) (write priv : Bool) (s : State) (dom : BitVec 4) (sect : Bool) (n : Nat)
    (ap : BitVec 2) (w : Word) : Prop :=
  let access := (s.cp15.dacr >>> (2 * dom.toNat)).toNat % 4
  let r := translate side mva write priv s
  (access = 0 ∨ access = 2 → r.1 = .fault (if sect then 9#4 else 11#4) (some dom)) ∧
  (access = 1 → apPermits ap s.sysProt s.romProt priv write = false →
    r.1 = .fault (if sect then 13#4 else 15#4) (some dom)) ∧
  (access = 3 ∨ (access = 1 ∧ apPermits ap s.sysProt s.romProt priv write = true) →
    r.1 = .ok (pageAddress n w mva) (w.getLsbD 3) (w.getLsbD 2)) ∧
  (∃ e : TlbEntry, (r.2.tlb side).entries =
      (s.tlb side).entries.set (s.tlb side).victim.toNat (some e) (s.tlb side).victim.isLt ∧
    e.hits mva = true ∧ e.tag = mva.extractLsb' 10 22 ∧ (e.size = .mb1 ↔ sect = true) ∧ e.domain = dom ∧
    e.c = w.getLsbD 3 ∧ e.b = w.getLsbD 2 ∧ e.preserved = (s.tlb side).preserve ∧ e.physical mva = pageAddress n w mva) ∧
  (r.2.tlb side).victim = (if (s.tlb side).victim = 63#6 then (s.tlb side).base else (s.tlb side).victim + 1#6) ∧
  (r.2.tlb side).base = (s.tlb side).base ∧
  translate side mva write priv r.2 = r

section

variable {write priv : Bool} (miss : (s.tlb side).matching mva = []) (walks : s.cp15.cr2.getLsbD 4 = false)
  (went : Walking side s t)
include miss walks went

theorem unmapped_of_walk {status : BitVec 4} {domain : Option (BitVec 4)}
    (walk : tableWalk side mva s = (.fault status domain, t)) : Unmapped side mva write priv s status domain := by
  rw [Unmapped, translate_of_unmapped miss walks walk]
  exact ⟨rfl, went.tlb side⟩

/-- The entry that a miss loads answers the next access to the address as the walk did (spec/21 R253, R255). -/
theorem translate_again {e : TlbEntry} (hit : e.hits mva = true) (ha : apSelectOk e.apSelect = true)
    (walk : tableWalk side mva s = (.entry e, t)) :
    translate side mva write priv (translate side mva write priv s).2 = translate side mva write priv s := by
  rw [translate_of_entry miss walks walk]
  have only : ((t.setTlb side ((t.tlb side).fill e)).tlb side).matching mva =
      [{ e with preserved := (t.tlb side).preserve }] := by
    rw [State.setTlb_tlb]
    exact Tlb.fill_matching (by rw [went.tlb, miss]) hit
  rw [translate_of_hit only ha]
  exact congrArg (·, _) (checkEntry_congr (State.setTlb_cp15 t side _) ha mva write priv)

theorem mapped_of_walk {n : Nat} {w : Word} {size : PageSize} {sect : Bool} {dom : BitVec 4} {ap : BitVec 2}
    (fits : size.Fits sect n)
    (walk : tableWalk side mva s =
      (.entry (walkedEntry s.cp15.dacr mva (pageAddress n w mva) size dom ap (w.getLsbD 3) (w.getLsbD 2)), t)) :
    Mapped side mva write priv s dom sect n ap w := by
  generalize he : walkedEntry s.cp15.dacr mva (pageAddress n w mva) size dom ap (w.getLsbD 3) (w.getLsbD 2) = e at walk
  have hit : e.hits mva = true := he ▸ walkedEntry_hits
  have listed : apSelectOk e.apSelect = true := he ▸ walkedEntry_apSelectOk
  have address : e.physical mva = pageAddress n w mva := he ▸ walkedEntry_physical fits
  have answer := translate_of_entry (write := write) (priv := priv) miss walks walk
  rw [checkEntry_congr went.cp15 listed, went.tlb] at answer
  have filled : (translate side mva write priv s).2.tlb side = (s.tlb side).fill e :=
    (congrArg (·.2.tlb side) answer).trans (State.setTlb_tlb ..)
  have again := translate_again (write := write) (priv := priv) miss walks went hit listed walk
  subst he
  refine ⟨fun h => ?noAccess, fun h denied => ?denied, fun h => ?allowed, ⟨_, congrArg Tlb.entries filled, hit, rfl,
    fits.section_iff, rfl, rfl, rfl, rfl, address⟩, (congrArg Tlb.victim filled :),
    (congrArg Tlb.base filled :), again⟩
  case noAccess =>
    rw [answer]
    exact checkEntry_walked_noAccess fits rfl h s write priv
  case denied =>
    rw [answer, checkEntry_walked_client fits h, denied]
    rfl
  case allowed =>
    rw [answer]
    obtain h | ⟨h, permitted⟩ := h
    · exact checkEntry_walked_manager fits h s write priv
    · rw [checkEntry_walked_client fits h, permitted]
      rfl

/-- The level 2 descriptor `w`, by its type (spec/21 R265-R268). -/
theorem page_of_walk {w : Word} {dom : BitVec 4} {fine : Bool}
    (walk : tableWalk side mva s = (pageEntry s.cp15.dacr mva w dom fine, t)) :
    (w.toNat % 4 = 0 → Unmapped side mva write priv s 7#4 (some dom)) ∧
    (w.toNat % 4 = 1 → Mapped side mva write priv s dom false 16
      ((w >>> (4 + 2 * (mva.toNat / 16384 % 4))).extractLsb' 0 2) w) ∧
    (w.toNat % 4 = 2 → Mapped side mva write priv s dom false 12
      ((w >>> (4 + 2 * (mva.toNat / 1024 % 4))).extractLsb' 0 2) w) ∧
    (w.toNat % 4 = 3 → if fine then Mapped side mva write priv s dom false 10 (w.extractLsb' 4 2) w
      else Unmapped side mva write priv s 7#4 (some dom)) := by
  have large : PageSize.Fits .kb64 false 16 := ⟨nofun, by decide, by decide, by decide⟩
  have largePart : PageSize.Fits .kb16 false 16 := ⟨nofun, by decide, by decide, by decide⟩
  have small : PageSize.Fits .kb4 false 12 := ⟨nofun, by decide, by decide, by decide⟩
  have smallPart : PageSize.Fits .kb1 false 12 := ⟨nofun, by decide, by decide, by decide⟩
  have tiny : PageSize.Fits .kb1 false 10 := ⟨nofun, by decide, by decide, by decide⟩
  refine ⟨fun h => ?invalid, fun h => ?large, fun h => ?small, fun h => ?tiny⟩
  case invalid =>
    rw [pageEntry_of_invalid _ _ _ _ h] at walk
    exact unmapped_of_walk miss walks went walk
  case large =>
    rw [pageEntry_of_large _ _ _ _ h] at walk
    exact mapped_of_walk miss walks went (large.ite largePart _) walk
  case small =>
    rw [pageEntry_of_small _ _ _ _ h] at walk
    exact mapped_of_walk miss walks went (small.ite smallPart _) walk
  case tiny =>
    rw [pageEntry_of_tiny _ _ _ _ h] at walk
    cases fine
    · exact unmapped_of_walk miss walks went walk
    · exact mapped_of_walk miss walks went tiny walk

end

/-- Settles O56: `tableWalk_memory` gives what the walk finds, `unmapped_of_walk`, `mapped_of_walk` and `page_of_walk` what the
translation makes of it. -/
theorem tableTranslation : Obligations.TableTranslation := by
  intro side mva write priv s miss walks hm hi
  have start : (if side = .data then (drainAll s).mem else s.mem) = (walkStart side s).mem := by cases side <;> rfl
  rw [start]
  obtain ⟨t, walk, went⟩ := tableWalk_memory side mva hm hi
  obtain ⟨u, moved⟩ := translate_state (write := write) (priv := priv) miss walks walk
  intro m at1 d dom access r unmapped mapped page
  change tableWalk side mva s = (walked at1 s.cp15.ttbr s.cp15.dacr mva, t) at walk
  refine ⟨fun h => ?invalid, fun h => ?sect, fun h => ?coarse, fun h => ?fine, ?memory, fun h => ?loads, fun h => ?fetches⟩
  case invalid =>
    rw [walked_of_invalid _ rfl h] at walk
    exact unmapped_of_walk miss walks went walk
  case sect =>
    rw [walked_of_section _ rfl h] at walk
    have whole : PageSize.Fits .mb1 true 20 := ⟨nofun, by decide, by decide, by decide⟩
    exact mapped_of_walk miss walks went whole walk
  case coarse =>
    rw [walked_of_coarse _ rfl h] at walk
    exact page_of_walk miss walks went walk
  case fine =>
    rw [walked_of_fine _ rfl h] at walk
    exact page_of_walk miss walks went walk
  case memory =>
    rw [show r.2 = _ from moved, State.setTlb_mem, went.mem]
  case loads =>
    subst h
    rw [show r.2 = _ from moved, State.setTlb_wbuf, State.setTlb_castout, went.wbuf, went.castout]
    exact ⟨went.tlb .instr, drainAll_wbuf s, drainAll_castout s⟩
  case fetches =>
    subst h
    rw [show r.2 = _ from moved, State.setTlb_wbuf, State.setTlb_castout, went.wbuf, went.castout]
    exact ⟨went.tlb .data, rfl, rfl⟩

end Sys2Proof.Machine
end

section
/-!
SUPPORT. The lines of the DCache: a line put where another hit, the words of a line after a store, and what a linefill makes of the
cache and of the castout buffer (spec/22 R321, R340, R341, R343, R353).
-/
namespace Sys2Proof.Machine

variable {s : State} {c : Cache} {mva : Word} {k : BitVec 6} {l x : CacheLine}

/-! ### A line put where another hit -/

/-- A line with the same tag, put where the line was found, is found there. -/
theorem findTag_set {tag : BitVec 23} {o : List (Option CacheLine)} {i j : Nat} (h : findTag tag o i = some (j, l))
    (hx : x.tag = l.tag) : findTag tag (o.set (j - i) (some x)) i = some (j, x) := by
  induction o generalizing i with
  | nil => cases h
  | cons p r ih =>
    have later (h' : findTag tag r (i + 1) = some (j, l)) :
        (p :: r).set (j - i) (some x) = p :: r.set (j - (i + 1)) (some x) := by
      obtain ⟨le, -⟩ := findTag_some h'
      rw [show j - i = (j - (i + 1)) + 1 by omega, List.set_cons_succ]
    cases p with
    | none =>
      rw [later h]
      exact ih h
    | some y =>
      rw [findTag] at h
      split at h
      next hy =>
        cases h
        simp [findTag, hx, hy]
      next hy =>
        rw [later h, findTag, if_neg hy]
        exact ih h

theorem Cache.lookup_setLine (h : c.lookup mva = some (k, l)) (hx : x.tag = l.tag) :
    (c.setLine (segOf mva) k (some x)).lookup mva = some (k, x) := by
  have seg : (c.setLine (segOf mva) k (some x)).seg (segOf mva) = (c.seg (segOf mva)).set k.toNat (some x) k.isLt :=
    (c.seg_set (segOf mva) (segOf mva) _).trans (if_pos rfl)
  rw [Cache.lookup] at h ⊢
  split at h
  next i y found =>
    cases h
    have lt : i < 64 := by
      obtain ⟨-, at_⟩ := findTag_some found
      simpa using (List.getElem?_eq_some_iff.mp at_).1
    have index : (BitVec.ofNat 6 i).toNat = i := Nat.mod_eq_of_lt lt
    have put := findTag_set found hx
    rw [Nat.sub_zero] at put
    simp only [seg, Vector.toList_set, index, put]
  next => cases h

/-! ### The words of a line -/

theorem CacheLine.read_word (l : CacheLine) (big : Bool) (a : Word) : (l.read big .word a).extractLsb' 0 32 = l.word a :=
  low_of_zeroExtend (l.word a)

theorem CacheLine.word_store_same (l : CacheLine) (big : Bool) (a v : Word) (d : Bool) :
    (l.store big .word a (v.zeroExtend 64) d).word a = v :=
  (Vector.getElem_set_self _).trans (low_of_zeroExtend v)

theorem CacheLine.word_store_other (l : CacheLine) (big : Bool) {a b : Word} (v : BitVec 64) (d : Bool)
    (h : wordOf b ≠ wordOf a) : (l.store big .word a v d).word b = l.word b :=
  Vector.getElem_set_ne (wordOf a).isLt (wordOf b).isLt fun e => h (BitVec.eq_of_toNat_eq e.symm)

theorem CacheLine.dirty_store (l : CacheLine) (big : Bool) (a : Word) (v : BitVec 64) :
    (l.store big .word a v true).dirty = true := Bool.or_true l.dirty

/-! ### The castout buffer -/

/-- What the castout buffer holds of a line: it, behind `ahead` older entries, if it must be written back (spec/22 R343, R353). -/
def castoutOf (o : Option CacheLine) (start : BitVec 2) (ahead : Nat) : Option Castout :=
  (o.filter CacheLine.writtenBack).map fun l => ⟨l.paTag, l.data, start, ahead⟩

theorem castoutOf_written (hd : l.dirty = true) (hw : l.wb = true) (start : BitVec 2) (n : Nat) :
    castoutOf (some l) start n = some ⟨l.paTag, l.data, start, n⟩ := by
  simp [castoutOf, CacheLine.writtenBack, hd, hw]

theorem castoutOf_unwritten {o : Option CacheLine} (h : ∀ l, o = some l → l.dirty = false ∨ l.wb = false) (start : BitVec 2)
    (n : Nat) : castoutOf o start n = none := by
  cases o with
  | none => rfl
  | some l =>
    have kept : l.writtenBack = false := Bool.and_eq_false_iff.mpr (h l rfl)
    simp [castoutOf, kept]

/-- With the castout buffer empty nothing drains for a line that enters it. -/
theorem castIfDirty_of_noCastout (h : s.castout = none) (o : Option CacheLine) (start : BitVec 2) :
    castIfDirty o start s = { s with castout := castoutOf o start s.wbuf.length } := by
  have idle : s = { s with castout := none } := by rw [← h]
  cases o with
  | none => exact idle
  | some l =>
    rw [castIfDirty]
    cases hw : l.writtenBack
    · rw [castoutOf, Option.filter_some_neg (by simp [hw])]
      exact idle
    · simp [castoutOf, hw, castLine, drainThroughCastout_none h]

/-- Cleaning a dirty write-back line by address puts it in the castout buffer, the doubleword of the address first, and leaves it
clean (spec/22 R344; spec/11 R111). -/
theorem cleanByVa_written {va : Word} (h : s.dcache.lookup (relocate s.cp15.pid va) = some (k, l)) (hd : l.dirty = true)
    (hw : l.wb = true) : ∃ n,
      (cleanByVa va false s).castout = some ⟨l.paTag, l.data, (relocate s.cp15.pid va).extractLsb' 3 2, n⟩ ∧
      (cleanByVa va false s).dcache.lookup (relocate s.cp15.pid va) = some (k, { l with dirty := false }) := by
  obtain ⟨n, drained, -⟩ := drainThroughCastout_drains s
  have same : (drainThroughCastout s).dcache = s.dcache := by
    rw [drained]
    exact (drains_drainSide n s).dcache
  have cast : cleanByVa va false s = { drainThroughCastout s with
      castout := some ⟨l.paTag, l.data, (relocate s.cp15.pid va).extractLsb' 3 2, (drainThroughCastout s).wbuf.length⟩
      dcache := s.dcache.setLine (segOf (relocate s.cp15.pid va)) k (some { l with dirty := false }) } := by
    rw [cleanByVa_hit h, cleanLine, Cache.line_of_lookup h, ← same]
    simp [castIfDirty, CacheLine.writtenBack, hd, hw, castLine]
  rw [cast]
  exact ⟨_, rfl, Cache.lookup_setLine h rfl⟩

/-! ### A linefill (spec/22 R340, R343) -/

/-- The words of a line that a linefill reads from memory, after the drain. -/
theorem dataFill_word {mva pa a : Word} {wb priv : Bool} (hm : s.memMap = []) (hi : s.intruders = [])
    (ha : a.toNat / 32 = pa.toNat / 32) :
    (dataFill mva pa wb priv s).1.word a = physRead (drainAll s).mem false .word a := by
  rw [← physRead_alignDown, ← alignWord_of_line ha]
  exact readLine_words ((drainAll_memSide s).memMap.trans hm) (drainAll_intruders hi) _ (wordOf a).isLt

/-- What a linefill from plain memory changes, after the drain: the line is allocated, and the line it replaces cast out. -/
theorem dataFill_state {mva pa : Word} {wb priv : Bool} (hm : s.memMap = []) (hi : s.intruders = []) :
    ∃ free bus hum, (dataFill mva pa wb priv s).2 = { drainAll s with
      dcache := s.dcache.allocate s.roundRobin free mva (dataFill mva pa wb priv s).1
      castout := castoutOf (s.dcache.occupant mva) 0#2 0
      bus := bus
      freeCount := (drainAll s).freeCount + 1
      hum := hum } := by
  obtain ⟨data, bus, read⟩ := readLine_alone (m := .dbiu) (pa := pa) (prot := hprot true priv wb true)
    ((drainAll_memSide s).memMap.trans hm) (drainAll_intruders hi)
  obtain ⟨u, hu⟩ : ∃ u : State, u = { drainAll s with bus := bus } := ⟨_, rfl⟩
  have cache : u.dcache = s.dcache := by rw [hu, (drainAll_drainSide s).dcache]
  have policy : u.roundRobin = s.roundRobin := by
    rw [hu]
    exact (drainAll_memSide s).ctlBit 14
  have empty : u.wbuf.length = 0 := by simp [hu]
  have cast := castIfDirty_of_noCastout (s := u) (by simp [hu]) (u.dcache.occupant mva) 0#2
  rw [empty] at cast
  rw [← hu] at read
  unfold dataFill
  simp only [read]
  rw [cast, ← cache, ← policy, hu]
  exact ⟨_, bus, _, rfl⟩

end Sys2Proof.Machine
end

section
/-!
Loads, stores and cleans in the DCache with the MMU off (O57; spec/22 R321-R353; spec/11 R111; spec/20 R210, R211, R222).
-/
namespace Sys2Proof.Machine

variable {s t : State} {va v : Word} {priv : Bool} {k : BitVec 6} {l : CacheLine}

/-! ### An aligned word in the DCache -/

/-- The word at `va` is aligned and cachable, with the MMU off, and no watchpoint is compared. -/
structure CachedWord (s : State) (va : Word) : Prop where
  dcacheOn : s.dcacheOn = true
  mmuOff : s.mmuOn = false
  cachable : s.cp15.cr2.getLsbD 1 = true
  noWatch : s.debugEnabled = false
  aligned : va.toNat % 4 = 0

/-- Where such an access goes; DB says whether it is write-back (spec/22 R325, R326; spec/11 R147). -/
def cachedPlace (s : State) (va : Word) : Located :=
  ⟨relocate s.cp15.pid va, relocate s.cp15.pid va, if s.cp15.cr2.getLsbD 0 then .wb else .wt, true, s.cp15.cr2.getLsbD 0⟩

theorem alignDown_of_aligned {a : Word} (h : a.toNat % 4 = 0) : alignDown .word a = a := by
  apply BitVec.eq_of_toNat_eq
  rw [toNat_alignWord]
  omega

theorem relocate_aligned (pid : BitVec 7) (h : va.toNat % 4 = 0) : (relocate pid va).toNat % 4 = 0 := by
  unfold relocate
  split
  · rw [BitVec.toNat_append, BitVec.extractLsb'_toNat, ← Nat.shiftLeft_add_eq_or_of_lt (by omega), Nat.shiftLeft_eq]
    simp only [Nat.shiftRight_zero]
    omega
  · exact h

theorem CachedWord.alignment (h : CachedWord s va) : (s.alignOn && faultsAlignment .word va) = false := by
  simp [faultsAlignment, misaligned, alignDown_of_aligned h.aligned]

theorem CachedWord.locate (h : CachedWord s va) (write priv : Bool) :
    locate va write priv s = .ok (cachedPlace s va) s := by
  simp only [Machine.locate, dataRegion, h.mmuOff, h.dcacheOn, h.cachable, Bool.not_false, Bool.or_true, if_true, cachedPlace]
  cases s.cp15.cr2.getLsbD 0 <;> rfl

theorem cachedPlace_cachable (s : State) (va : Word) : (cachedPlace s va).region.cachable = true := by
  unfold cachedPlace
  cases s.cp15.cr2.getLsbD 0 <;> rfl

theorem cachedPlace_wb (s : State) (va : Word) : ((cachedPlace s va).region == .wb) = s.cp15.cr2.getLsbD 0 := by
  unfold cachedPlace
  cases s.cp15.cr2.getLsbD 0 <;> rfl

/-- Such a load is its access, without a watchpoint. -/
theorem CachedWord.memRead_of (h : CachedWord s va) {w : BitVec 64} (noWatch : t.debugEnabled = false)
    (read : readAt (cachedPlace s va) va .word priv true false s = .ok w t) :
    memRead va .word priv s = .ok (w.extractLsb' 0 32) t := by
  have wide : memReadWide va .word (.ordinary priv) s = .ok w t := by
    rw [memReadWide, if_neg (by rw [h.alignment]; exact Bool.false_ne_true), h.locate]
    simp only [Access.ordinary, Res.bind, read, noteAccess_of_disabled noWatch]
  rw [memRead, memReadX, wide]
  rfl

theorem CachedWord.memWrite_of (h : CachedWord s va) (noWatch : t.debugEnabled = false)
    (written : writeAt (cachedPlace s va) va .word (v.zeroExtend 64) priv true false .single s = .ok () t) :
    memWrite va .word v priv s = .ok () t := by
  rw [memWrite, memWriteX, memWriteWide, if_neg (by rw [h.alignment]; exact Bool.false_ne_true), h.locate]
  simp only [Access.ordinary, Res.bind, carried, written, noteAccess_of_disabled noWatch]

/-! ### Hits (spec/22 R321, R341) -/

theorem CachedWord.memRead_hit (h : CachedWord s va) (hit : s.dcache.lookup (relocate s.cp15.pid va) = some (k, l)) :
    memRead va .word priv s = .ok (l.word (relocate s.cp15.pid va)) s := by
  have read : readAt (cachedPlace s va) va .word priv true false s =
      .ok (l.read s.big .word (relocate s.cp15.pid va)) s := by
    rw [readAt, cachedPlace_cachable]
    simp only [cachedPlace, hit]
  rw [h.memRead_of h.noWatch read, l.read_word]

/-- With the write buffer on, a write-back store that hits goes to the line (spec/20 R211). -/
theorem writeAt_cachedPlace_hit (hb : s.cp15.cr2.getLsbD 0 = true) (hw : s.wbufOn = true)
    (hit : s.dcache.lookup (relocate s.cp15.pid va) = some (k, l)) :
    writeAt (cachedPlace s va) va .word (v.zeroExtend 64) priv true false .single s =
      .ok () (storeInCache (cachedPlace s va) .word (v.zeroExtend 64) true s) := by
  simp only [writeAt, cachedPlace, hb, hw, hit, Bool.false_and, if_true, Bool.false_eq_true, if_false]

theorem writeAt_cachedPlace_miss (hb : s.cp15.cr2.getLsbD 0 = true) (hw : s.wbufOn = true)
    (miss : s.dcache.lookup (relocate s.cp15.pid va) = none) :
    writeAt (cachedPlace s va) va .word (v.zeroExtend 64) priv true false .single s =
      .ok () (bufferWrite (entryOf (cachedPlace s va) .word (v.zeroExtend 64) priv s.big .single) s) := by
  simp only [writeAt, cachedPlace, hb, hw, miss, Bool.false_and, if_true, Bool.false_eq_true, if_false]

theorem CachedWord.memWrite_hit (h : CachedWord s va) (hb : s.cp15.cr2.getLsbD 0 = true) (hw : s.wbufOn = true)
    (hit : s.dcache.lookup (relocate s.cp15.pid va) = some (k, l)) :
    memWrite va .word v priv s = .ok () { s with
      dcache := s.dcache.setLine (segOf (relocate s.cp15.pid va)) k
        (some (l.store s.big .word (relocate s.cp15.pid va) (v.zeroExtend 64) true)) } := by
  refine h.memWrite_of h.noWatch ?_
  rw [writeAt_cachedPlace_hit hb hw hit]
  simp only [storeInCache, h.dcacheOn, cachedPlace, hit]

/-! ### Misses (spec/22 R330, R340, R341, R350) -/

theorem CachedWord.memRead_miss (h : CachedWord s va) (miss : s.dcache.lookup (relocate s.cp15.pid va) = none)
    (hm : s.memMap = []) (hi : s.intruders = []) :
    memRead va .word priv s = .ok (physRead (drainAll s).mem false .word (relocate s.cp15.pid va))
      (dataFill (relocate s.cp15.pid va) (relocate s.cp15.pid va) (s.cp15.cr2.getLsbD 0) priv s).2 := by
  have read : readAt (cachedPlace s va) va .word priv true false s =
      let r := dataFill (relocate s.cp15.pid va) (relocate s.cp15.pid va) (s.cp15.cr2.getLsbD 0) priv s
      .ok (r.1.read s.big .word (relocate s.cp15.pid va)) r.2 := by
    rw [readAt, cachedPlace_cachable, cachedPlace_wb]
    simp only [cachedPlace, miss]
  rw [h.memRead_of ((dataFill_memSide _ _ _ _ s).debugEnabled.trans h.noWatch) read, CacheLine.read_word,
    dataFill_word hm hi rfl]

/-- A write-back store that misses goes to the write buffer and allocates no line. -/
theorem CachedWord.memWrite_miss (h : CachedWord s va) (hb : s.cp15.cr2.getLsbD 0 = true) (hw : s.wbufOn = true)
    (miss : s.dcache.lookup (relocate s.cp15.pid va) = none) :
    ∃ t, memWrite va .word v priv s = .ok () t ∧ t.dcache = s.dcache ∧
      ∃ e, t.wbuf.getLast? = some e ∧ e.pa = relocate s.cp15.pid va ∧ e.size = .word ∧ e.data = v.zeroExtend 64 ∧
        e.big = s.big := by
  refine ⟨_, h.memWrite_of ((bufferWrite_memSide _ s).debugEnabled.trans h.noWatch) (writeAt_cachedPlace_miss hb hw miss),
    ?_, _, List.getLast?_concat, alignDown_of_aligned (relocate_aligned _ h.aligned), rfl, rfl, rfl⟩
  obtain ⟨n, entered, -⟩ :=
    bufferWrite_drains s (entryOf (cachedPlace s va) .word (v.zeroExtend 64) priv s.big .single)
  rw [entered]
  exact (drains_drainSide n s).dcache

/-- Settles O57: a hit by the line that stands where it is found, a load's miss by the state its linefill leaves, and a store's
miss by its entry of the write buffer. -/
theorem dataCacheHits : Obligations.DataCacheHits := by
  intro s va v priv mva hd hm hc hn ha
  have h : CachedWord s va := ⟨hd, hm, hc, (Bool.not_eq_true' _).mp (Bool.and_eq_true_iff.mp hn).1, ha⟩
  refine ⟨fun k l hit => ⟨h.memRead_hit hit, fun hb hw => ?storeHit, fun dirty wb => ?clean⟩, fun miss ram =>
    ⟨fun alone => ?loadMiss, fun hb hw => h.memWrite_miss hb hw miss⟩⟩
  case storeHit =>
    exact ⟨_, _, h.memWrite_hit hb hw hit, rfl, Cache.lookup_setLine hit rfl, l.word_store_same s.big mva v true,
      l.dirty_store s.big mva _, fun b other => l.word_store_other s.big _ true other⟩
  case clean =>
    obtain ⟨n, queued, found⟩ := cleanByVa_written hit dirty wb
    exact ⟨_, n, queued, found, rfl, rfl⟩
  case loadMiss =>
    have drained := drainAll_memSide s
    obtain ⟨free, bus, hum, filled⟩ :=
      dataFill_state (mva := mva) (pa := mva) (wb := s.cp15.cr2.getLsbD 0) (priv := priv) ram alone
    have allocated := allocate_filledWith (rr := s.roundRobin) (f := free)
      (l := (dataFill mva mva (s.cp15.cr2.getLsbD 0) priv s).1) miss rfl
    have parts := allocated
    obtain ⟨found, -, others, -⟩ := parts
    refine ⟨_, (dataFill mva mva (s.cp15.cr2.getLsbD 0) priv s).1, h.memRead_miss miss ram alone, ?_⟩
    rw [filled]
    exact ⟨rfl, drainAll_wbuf s, drained.regs, drained.cpsr, drained.cp15, rfl, allocated, found, rfl, rfl, rfl,
      fun a same => dataFill_word ram alone same, others,
      fun o was dirty wb => ⟨0#2, 0, by rw [was]; exact castoutOf_written dirty wb 0#2 0⟩,
      fun unwritten => castoutOf_unwritten unwritten 0#2 0⟩

end Sys2Proof.Machine
end

section
/-!
The instructions of an external coprocessor (O48, O49; spec/23 R404, R405, R408, R418; spec/46 R700-R711): what `external` answers
in each case, then the transfers of an instruction that is accepted.
-/
namespace Sys2Proof.Machine

variable {s : State} {n : BitVec 4} {i : Instr} {u : Bool} {k : State → Outcome State}

/-! ### Which coprocessor an instruction names (spec/46 R700) -/

theorem not_internalCp (h14 : n ≠ 14#4) (h15 : n ≠ 15#4) : ¬internalCp n = true :=
  fun internal => ((internalCp_iff n).mp internal).elim h14 h15

/-- Of the meanings for CP15, for CP14 and for any other coprocessor, the last. -/
theorem ite_cp_external {a b o : Outcome State} (h14 : n ≠ 14#4) (h15 : n ≠ 15#4) :
    (if n = 15#4 then a else if n = 14#4 then b else o) = o :=
  (if_neg h15).trans (if_neg h14)

section

variable {c : Cond} (hc : s.passes c = true) (h14 : n ≠ 14#4) (h15 : n ≠ 15#4)
include h14 h15

theorem exec_cdp2_external {f : CpOp} (hf : f.cp = n) : exec (.cdp2 f) s = external n (.cdp2 f) true s advance := by
  subst hf
  exact if_neg (not_internalCp h14 h15)

theorem exec_mcr2_external {f : CpReg} (hf : f.cp = n) : exec (.mcr2 f) s = external n (.mcr2 f) true s (mcrExternal f) := by
  subst hf
  exact if_neg (not_internalCp h14 h15)

theorem exec_mrc2_external {f : CpReg} (hf : f.cp = n) :
    exec (.mrc2 f) s = external n (.mrc2 f) true s (mrcExternal f (codeBits (.mrc2 f))) := by
  subst hf
  exact if_neg (not_internalCp h14 h15)

theorem exec_ldc2_external {f : CpMem} (hf : f.cp = n) :
    exec (.ldc2 f) s = external n (.ldc2 f) true s (ldcExternal f (codeBits (.ldc2 f))) := by
  subst hf
  exact if_neg (not_internalCp h14 h15)

theorem exec_stc2_external {f : CpMem} (hf : f.cp = n) :
    exec (.stc2 f) s = external n (.stc2 f) true s (stcExternal f (codeBits (.stc2 f))) := by
  subst hf
  exact if_neg (not_internalCp h14 h15)

include hc

theorem exec_cdp_external {f : CpOp} (hf : f.cp = n) : exec (.cdp c f) s = external n (.cdp c f) false s advance := by
  subst hf
  exact (whenCond_pass hc).trans (if_neg (not_internalCp h14 h15))

theorem exec_mcr_external {f : CpReg} (hf : f.cp = n) :
    exec (.mcr c f) s = external n (.mcr c f) false s (mcrExternal f) := by
  subst hf
  exact (whenCond_pass hc).trans (ite_cp_external h14 h15)

theorem exec_mrc_external {f : CpReg} (hf : f.cp = n) :
    exec (.mrc c f) s = external n (.mrc c f) false s (mrcExternal f (codeBits (.mrc c f))) := by
  subst hf
  exact (whenCond_pass hc).trans (ite_cp_external h14 h15)

theorem exec_ldc_external {f : CpMem} (hf : f.cp = n) :
    exec (.ldc c f) s = external n (.ldc c f) false s (ldcExternal f (codeBits (.ldc c f))) := by
  subst hf
  exact (whenCond_pass hc).trans (ite_cp_external h14 h15)

theorem exec_stc_external {f : CpMem} (hf : f.cp = n) :
    exec (.stc c f) s = external n (.stc c f) false s (stcExternal f (codeBits (.stc c f))) := by
  subst hf
  exact (whenCond_pass hc).trans (ite_cp_external h14 h15)

/-- MCRR sends its registers, where neither is r15 (spec/46 R709). -/
theorem exec_mcrr_external (rn rd : Reg) (opc crm : BitVec 4) :
    exec (.mcrr c rn rd n opc crm) s = external n (.mcrr c rn rd n opc crm) false s fun t =>
      require (rn != regPc && rd != regPc) .operandRestriction (advance (cpTell [t.reg rd, t.reg rn] t)) :=
  (whenCond_pass hc).trans (if_neg (not_internalCp h14 h15))

/-- MRRC receives its registers, two of them and neither r15 (spec/46 R710). -/
theorem exec_mrrc_external (rn rd : Reg) (opc crm : BitVec 4) :
    let i : Instr := .mrrc c rn rd n opc crm
    exec i s = external n i false s fun t =>
      require (rn != regPc && rd != regPc && rn != rd) .operandRestriction (advance
        ((t.setReg rd (Config.cpSupplies n (codeBits i) t.cpHistory 0)).setReg rn
          (Config.cpSupplies n (codeBits i) t.cpHistory 1))) :=
  (whenCond_pass hc).trans (if_neg (not_internalCp h14 h15))

end

/-! ### Absent, busy, unwilling, or willing (spec/23 R404, R410; spec/46 R702) -/

/-- Coprocessor `n` has been offered `i`, in its cond = 1111 form if `u`, and has accepted it or not (spec/23 R405). -/
def State.offered (s : State) (n : BitVec 4) (i : Instr) (u accepted : Bool) : State :=
  cpTell (cpOffer n (codeBits i) u s.priv s.big accepted) s

/-- Does coprocessor `n` accept `i` (spec/23 R404)? -/
def State.accepted (s : State) (n : BitVec 4) (i : Instr) (u : Bool) : Bool :=
  Config.cpAccepts n (codeBits i) u s.priv s.big s.cpHistory

theorem external_absent (hh : s.halted = false) (h : cpPresent n s = false) :
    external n i u s k = .next (takeException .undefined (s.pc + s.instrSize) s) :=
  (if_neg (Bool.not_eq_true _ ▸ h)).trans (undefinedInstr_of_running hh)

theorem external_busy (h : cpPresent n s = true) (hb : s.pins.cpbusye = true) : external n i u s k = .next s :=
  (if_pos h).trans (if_pos hb)

theorem external_offered (h : cpPresent n s = true) (hb : s.pins.cpbusye = false) : external n i u s k =
    let accepted := s.accepted n i u
    if accepted then k (s.offered n i u accepted) else undefinedInstr (s.offered n i u accepted) :=
  (if_pos h).trans (if_neg (Bool.not_eq_true _ ▸ hb))

theorem external_accepted (h : cpPresent n s = true) (hb : s.pins.cpbusye = false) (ha : s.accepted n i u = true) :
    external n i u s k = k (s.offered n i u true) := by
  rw [external_offered h hb, ha]
  rfl

theorem external_declined (hh : s.halted = false) (h : cpPresent n s = true) (hb : s.pins.cpbusye = false)
    (ha : s.accepted n i u = false) :
    external n i u s k = .next (takeException .undefined (s.pc + s.instrSize) (s.offered n i u false)) := by
  rw [external_offered h hb, ha]
  exact undefinedInstr_of_running (s := s.offered n i u false) hh

/-- What a coprocessor that is there and not busy makes of an instruction. -/
theorem external_ready (hh : s.halted = false) (h : cpPresent n s = true) (hb : s.pins.cpbusye = false) :
    external n i u s k = if s.accepted n i u then k (s.offered n i u true)
      else .next (takeException .undefined (s.pc + s.instrSize) (s.offered n i u false)) := by
  split
  next ha => exact external_accepted h hb ha
  next ha => exact external_declined hh h hb (Bool.not_eq_true _ ▸ ha)

/-- The cases of an instruction that, accepted, does `g` and is complete. -/
theorem external_cases {g : State → State} (hh : s.halted = false) (run : exec i s = external n i u s k)
    (hk : k (s.offered n i u true) = .next (g (s.offered n i u true)).moveOn) :
    (cpPresent n s = false → exec i s = .next (takeException .undefined (s.pc + s.instrSize) s)) ∧
    (cpPresent n s = true → s.pins.cpbusye = true → exec i s = .next s) ∧
    (cpPresent n s = true → s.pins.cpbusye = false → exec i s = .next
      (if s.accepted n i u then (g (s.offered n i u true)).moveOn
        else takeException .undefined (s.pc + s.instrSize) (s.offered n i u false))) := by
  rw [run]
  refine ⟨external_absent hh, external_busy, fun h hb => ?_⟩
  rw [external_ready hh h hb, hk]
  exact (apply_ite ..).symm

/-- The cases of an instruction of which, accepted, a relation to the state it leaves is known. -/
theorem external_cases_rel {R : State → State → Prop} (hh : s.halted = false) (run : exec i s = external n i u s k)
    (hk : ∃ t, k (s.offered n i u true) = .next t ∧ R (s.offered n i u true) t) :
    (cpPresent n s = false → exec i s = .next (takeException .undefined (s.pc + s.instrSize) s)) ∧
    (cpPresent n s = true → s.pins.cpbusye = true → exec i s = .next s) ∧
    (cpPresent n s = true ∧ s.pins.cpbusye = false → ∃ t, exec i s = .next t ∧
      (s.accepted n i u = false → t = takeException .undefined (s.pc + s.instrSize) (s.offered n i u false)) ∧
      (s.accepted n i u = true → R (s.offered n i u true) t)) := by
  rw [run]
  refine ⟨external_absent hh, external_busy, fun ⟨h, hb⟩ => ?_⟩
  rw [external_ready hh h hb]
  cases s.accepted n i u with
  | true =>
    obtain ⟨t, next, left⟩ := hk
    exact ⟨t, next, fun no => Bool.noConfusion no, fun _ => left⟩
  | false => exact ⟨_, rfl, fun _ => rfl, fun no => Bool.noConfusion no⟩

/-! ### Registers to and from a coprocessor (spec/46 R705-R707) -/

theorem mcrExternal_reg {f : CpReg} (h : f.rd ≠ regPc) (hn : s.canAdvance = true) :
    mcrExternal f s = .next (cpTell [s.reg f.rd] s).moveOn := by
  rw [mcrExternal, mcrValue, if_neg h]
  exact advance_of_canAdvance hn

theorem mcrExternal_pc {f : CpReg} (h : f.rd = regPc) (hn : s.canAdvance = true) :
    mcrExternal f s = .next (cpTell [s.freeVal] s.useFree).moveOn := by
  rw [mcrExternal, mcrValue, if_pos h]
  exact advance_of_canAdvance hn

theorem mrcExternal_reg {f : CpReg} {bits : BitVec 28} (hf : f.cp = n) (h : f.rd ≠ regPc) (hn : s.canAdvance = true) :
    mrcExternal f bits s = .next (s.setReg f.rd (Config.cpSupplies n bits s.cpHistory 0)).moveOn := by
  subst hf
  exact (if_neg h).trans (advance_setReg hn _ _)

theorem mrcExternal_pc {f : CpReg} {bits : BitVec 28} (hf : f.cp = n) (h : f.rd = regPc) (hn : s.canAdvance = true) :
    let v := Config.cpSupplies n bits s.cpHistory 0
    mrcExternal f bits s = .next (s.setNZCV (v.getLsbD 31) (v.getLsbD 30) (v.getLsbD 29) (v.getLsbD 28)).moveOn := by
  subst hf
  exact (if_pos h).trans (advance_of_canAdvance ((s.canAdvance_setNZCV ..).trans hn))

/-- Settles O48: each instruction is `external` with its transfer, and each transfer completes in the state that the offer
leaves. -/
theorem externalCoprocessors : Obligations.ExternalCoprocessors := by
  intro c s n h14 h15 hc hn hh und offered accepts does
  have next (i : Instr) (u : Bool) : (offered i u true).canAdvance = true := hn
  have op {i : Instr} {u : Bool} {k : State → Outcome State} {g : State → State} (run : exec i s = external n i u s k)
      (hk : k (offered i u true) = .next (g (offered i u true)).moveOn) : does i u g := external_cases hh run hk
  -- `op` is all that is used of `does`; opaque, it lets the effect `g` be read off the goal.
  clear_value does
  have mcrr := exec_mcrr_external hc h14 h15
  have mrrc := exec_mrrc_external hc h14 h15
  refine ⟨fun f hf => ?cdp, fun f hf hr => ?registers, fun f hf hr => ?pc, fun rn rd opc crm hrn hrd => ?pairs,
    fun rn rd opc crm present ready => ?barred⟩
  case cdp =>
    exact ⟨op (exec_cdp_external hc h14 h15 hf) (advance_of_canAdvance (next _ _)),
      op (exec_cdp2_external h14 h15 hf) (advance_of_canAdvance (next _ _))⟩
  case registers =>
    exact ⟨op (exec_mcr_external hc h14 h15 hf) (mcrExternal_reg hr (next _ _)),
      op (exec_mcr2_external h14 h15 hf) (mcrExternal_reg hr (next _ _)),
      op (exec_mrc_external hc h14 h15 hf) (mrcExternal_reg hf hr (next _ _)),
      op (exec_mrc2_external h14 h15 hf) (mrcExternal_reg hf hr (next _ _))⟩
  case pc =>
    exact ⟨op (exec_mcr_external hc h14 h15 hf) (mcrExternal_pc hr (next _ _)),
      op (exec_mcr2_external h14 h15 hf) (mcrExternal_pc hr (next _ _)),
      op (exec_mrc_external hc h14 h15 hf) (mrcExternal_pc hf hr (next _ _)),
      op (exec_mrc2_external h14 h15 hf) (mrcExternal_pc hf hr (next _ _))⟩
  case pairs =>
    refine ⟨op (mcrr rn rd opc crm) ?_, fun differ => op (mrrc rn rd opc crm) ?_⟩
    · rw [bne_iff_ne.mpr hrn, bne_iff_ne.mpr hrd]
      exact advance_of_canAdvance (next (.mcrr c rn rd n opc crm) false)
    · rw [bne_iff_ne.mpr hrn, bne_iff_ne.mpr hrd, bne_iff_ne.mpr differ]
      exact advance_setReg ((State.canAdvance_setReg ..).trans (next (.mrrc c rn rd n opc crm) false)) _ _
  case barred =>
    refine ⟨fun bad => (mcrr rn rd opc crm).trans ((external_ready hh present ready).trans ?_),
      fun bad => (mrrc rn rd opc crm).trans ((external_ready hh present ready).trans ?_)⟩
    · have refused : (rn != regPc && rd != regPc) = false := by
        rcases bad with rfl | rfl <;> simp
      rw [refused]
      rfl
    · have refused : (rn != regPc && rd != regPc && rn != rd) = false := by
        rcases bad with rfl | rfl | rfl <;> simp
      rw [refused]
      rfl

/-! ### Words from memory to a coprocessor, and back (spec/46 R701, R704, R708) -/

/-- What a coprocessor is told does not matter to memory. -/
theorem wordsFrom_cpTell (l : List Word) (s : State) (n : Nat) (va : Word) : wordsFrom (cpTell l s) n va = wordsFrom s n va := by
  induction n generalizing va with
  | zero => rfl
  | succ n ih => exact congrArg (s.wordAt va :: ·) (ih (va + 4#32))

/-- In plain memory an LDC gives the coprocessor the words from the start address on. -/
theorem ldcExternal_plain {f : CpMem} (bits : BitVec 28) (ha : cpMemAllowed f = true) (hn : s.canAdvance = true)
    (hp : s.plain = true) : ∃ b, ldcExternal f bits s = .next (cpWriteBase f (cpBase f s)
      (cpTell (cpOrder f.cp bits s.cpHistory (cpStart f s) (wordsFrom s (cpWords f bits s) (cpStart f s)))
        { s with bus := b })).moveOn := by
  obtain ⟨b, run⟩ := readRun_plain (externalMultiple f bits s) (cpWords f bits s) true (cpStart f s) hp
  refine ⟨b, ?_⟩
  rw [ldcExternal, ha, require_true, run]
  exact advance_cpWriteBase hn

/-- In plain memory an STC stores the words that the coprocessor supplies. -/
theorem stcExternal_plain {f : CpMem} (bits : BitVec 28) (ha : cpMemAllowed f = true) (hn : s.canAdvance = true)
    (hp : s.plain = true) :
    let words := cpOrder f.cp bits s.cpHistory (cpStart f s) (supplied f.cp bits s (cpWords f bits s))
    ∃ b, stcExternal f bits s = .next (cpWriteBase f (cpBase f s) { s with
      bus := b, mem := storeWords s.big s.cp15.pid words (cpStart f s) s.mem }).moveOn := by
  intro words
  obtain ⟨b, run⟩ := memWriteMany_plain (externalMultiple f bits s) words (cpStart f s) hp
  refine ⟨b, ?_⟩
  rw [stcExternal, ha, require_true]
  exact (Res.finish_ok run).trans (advance_cpWriteBase hn)

/-! ### Aborts (spec/23 R418) -/

theorem length_readRun_le (m : Multiple) (n : Nat) (first : Bool) (va : Word) (s : State) :
    (readRun m n first va s).1.length ≤ n := by
  fun_induction readRun m n first va s
  case case5 pair => exact Nat.succ_le_succ (Nat.succ_le_succ pair)
  case case8 word => exact Nat.succ_le_succ word
  all_goals simp

theorem takeException_cpHistory (e : Exc) (link : Word) (s : State) : (takeException e link s).cpHistory = s.cpHistory := by
  simp [takeException]

theorem dataAbort_cpHistory {e : AbortInfo} {t : State} (h : dataAbort e s = .next t) : t.cpHistory = s.cpHistory := by
  obtain ⟨d, n, rec, -⟩ := recordDataFault_eq e.status e.domain e.va (s.pc + s.pcOffset) s
  rw [dataAbort, rec] at h
  split at h
  · cases h
    rfl
  · cases h
    exact takeException_cpHistory _ _ _

theorem length_freeWords (n : Nat) (s : State) : (freeWords n s).length = n := by
  rw [freeWords, List.length_map, List.length_range]

/-- Telling a coprocessor and using up free values keep what an operation on memory leaves alone. -/
theorem MemSide.told {s1 : State} (h : MemSide s s1) (l : List Word) (lost : Nat) :
    MemSide (cpTell l s) (cpTell l (useMany lost s1)) :=
  { h with cpHistory := congrArg (l.reverse ++ ·) h.cpHistory }

/-- An LDC that aborts gives the coprocessor the words read and free words for the rest. -/
theorem ldcExternal_aborted {f : CpMem} {bits : BitVec 28} {ws : List Word} {e : AbortInfo} {s1 : State}
    (ha : cpMemAllowed f = true)
    (h : readRun (externalMultiple f bits s) (cpWords f bits s) true (cpStart f s) s = (ws, .abort e s1)) :
    ∃ t lost, ldcExternal f bits s = .next t ∧ dataAborted s s1 e t ∧ lost.length + ws.length = cpWords f bits s ∧
      t.cpHistory = (cpOrder f.cp bits s.cpHistory (cpStart f s) ws ++ lost).reverse ++ s.cpHistory := by
  have read := length_readRun_le (externalMultiple f bits s) (cpWords f bits s) true (cpStart f s) s
  have side := readRun_readSide (externalMultiple f bits s) (cpWords f bits s) true (cpStart f s) s
  rw [h] at read side
  have told := side.toMemSide.told (cpOrder f.cp bits s.cpHistory (cpStart f s) ws ++ freeWords (cpWords f bits s - ws.length) s1)
    (cpWords f bits s - ws.length)
  obtain ⟨t, next, aborted⟩ := dataAbort_aborted told e
  refine ⟨t, _, ?_, aborted, ?_, (dataAbort_cpHistory next).trans told.cpHistory⟩
  · rw [ldcExternal, ha, require_true, h]
    exact next
  · rw [length_freeWords, Nat.sub_add_cancel read]

/-- An STC that aborts. -/
theorem stcExternal_aborted {f : CpMem} {bits : BitVec 28} {e : AbortInfo} {s1 : State} (ha : cpMemAllowed f = true)
    (h : memWriteMany (externalMultiple f bits s)
      (cpOrder f.cp bits s.cpHistory (cpStart f s) (supplied f.cp bits s (cpWords f bits s))) (cpStart f s) s = .abort e s1) :
    ∃ t, stcExternal f bits s = .next t ∧ dataAborted s s1 e t := by
  rw [stcExternal, ha, require_true]
  exact finish_aborted (memWriteMany_memSide _ _ _ _) h

/-- Settles O49: each instruction is `external` with its transfer, which in plain memory completes, and which may abort. -/
theorem externalTransfers : Obligations.ExternalTransfers := by
  intro c s f h14 h15 hc ha accepts offered order length sent ready
  have ldc := exec_ldc_external hc h14 h15 (f := f) rfl
  have ldc2 := exec_ldc2_external (s := s) h14 h15 (f := f) rfl
  have stc := exec_stc_external hc h14 h15 (f := f) rfl
  have stc2 := exec_stc2_external (s := s) h14 h15 (f := f) rfl
  refine ⟨fun hn hp => ?plain, fun i u s2 ws e hready willing => ?aborted⟩
  case plain =>
    intro und does based loads stores
    obtain ⟨-, -, -, -, -, -, -, hh, -⟩ := plain_iff.mp hp
    have load {i : Instr} {u : Bool} (run : exec i s = external f.cp i u s (ldcExternal f (codeBits i))) :
        does i u (loads i) := by
      obtain ⟨b, done⟩ := ldcExternal_plain (s := offered i u true) (codeBits i) ha hn hp
      rw [wordsFrom_cpTell] at done
      exact external_cases_rel hh run ⟨_, done, b, rfl⟩
    have store {i : Instr} {u : Bool} (run : exec i s = external f.cp i u s (stcExternal f (codeBits i))) :
        does i u (stores i) := by
      obtain ⟨b, done⟩ := stcExternal_plain (s := offered i u true) (codeBits i) ha hn hp
      exact external_cases_rel hh run ⟨_, done, b, rfl⟩
    exact ⟨load ldc, load ldc2, store stc, store stc2⟩
  case aborted =>
    intro s1 m
    obtain ⟨present, idle⟩ := hready
    refine ⟨fun which aborts => ?load, fun which aborts => ?store⟩
    case load =>
      have run : exec i s = external f.cp i u s (ldcExternal f (codeBits i)) := by
        rcases which with ⟨rfl, rfl⟩ | ⟨rfl, rfl⟩
        · exact ldc
        · exact ldc2
      rw [run, external_accepted present idle willing]
      exact ldcExternal_aborted (s := s1) ha aborts
    case store =>
      have run : exec i s = external f.cp i u s (stcExternal f (codeBits i)) := by
        rcases which with ⟨rfl, rfl⟩ | ⟨rfl, rfl⟩
        · exact stc
        · exact stc2
      rw [run, external_accepted present idle willing]
      exact stcExternal_aborted (s := s1) ha aborts

end Sys2Proof.Machine
end

section
/-!
Decoding inverts encoding (O1): the laws of the single instructions, put together (spec/30 R421-R440; spec/31).
-/
namespace Sys2Proof.Laws

/-- Every instruction that has a word is decoded from it (spec/30 R421-R440, spec/31): the laws of the constructors, in the order of
the opcode table. -/
theorem roundTrip (i : Instr) : RoundTrip.Statement i :=
  Instr.rec (motive := RoundTrip.Statement)
    RoundTrip.undPld RoundTrip.pld RoundTrip.blxImm RoundTrip.undExt2 RoundTrip.ldc2 RoundTrip.stc2 RoundTrip.cdp2 RoundTrip.mcr2
    RoundTrip.mrc2 RoundTrip.undUncond RoundTrip.mrs RoundTrip.msrReg RoundTrip.bx RoundTrip.clz RoundTrip.blxReg RoundTrip.qadd
    RoundTrip.qsub RoundTrip.qdadd RoundTrip.qdsub RoundTrip.bkpt RoundTrip.smlaxy RoundTrip.smlawy RoundTrip.smulwy
    RoundTrip.smlalxy RoundTrip.smulxy RoundTrip.undMiscA RoundTrip.undMiscB RoundTrip.mul RoundTrip.mla RoundTrip.umull
    RoundTrip.umlal RoundTrip.smull RoundTrip.smlal RoundTrip.swp RoundTrip.swpb RoundTrip.undMul RoundTrip.strh RoundTrip.ldrh
    RoundTrip.ldrd RoundTrip.ldrsb RoundTrip.strd RoundTrip.ldrsh RoundTrip.undMsr RoundTrip.msrImm RoundTrip.and RoundTrip.eor
    RoundTrip.sub RoundTrip.rsb RoundTrip.add RoundTrip.adc RoundTrip.sbc RoundTrip.rsc RoundTrip.tst RoundTrip.teq RoundTrip.cmp
    RoundTrip.cmn RoundTrip.orr RoundTrip.mov RoundTrip.bic RoundTrip.mvn RoundTrip.undMedia RoundTrip.ldrt RoundTrip.ldrbt
    RoundTrip.strt RoundTrip.strbt RoundTrip.ldr RoundTrip.ldrb RoundTrip.str RoundTrip.strb RoundTrip.ldm1 RoundTrip.ldm2
    RoundTrip.ldm3 RoundTrip.stm1 RoundTrip.stm2 RoundTrip.b RoundTrip.bl RoundTrip.undCpExt RoundTrip.mcrr RoundTrip.mrrc
    RoundTrip.ldc RoundTrip.stc RoundTrip.cdp RoundTrip.mcr RoundTrip.mrc RoundTrip.swi RoundTrip.tAddReg RoundTrip.tSubReg
    RoundTrip.tAddImm3 RoundTrip.tSubImm3 RoundTrip.tLslImm RoundTrip.tLsrImm RoundTrip.tAsrImm RoundTrip.tMovImm
    RoundTrip.tCmpImm RoundTrip.tAddImm8 RoundTrip.tSubImm8 RoundTrip.tAnd RoundTrip.tEor RoundTrip.tLslReg RoundTrip.tLsrReg
    RoundTrip.tAsrReg RoundTrip.tAdc RoundTrip.tSbc RoundTrip.tRor RoundTrip.tTst RoundTrip.tNeg RoundTrip.tCmpReg RoundTrip.tCmn
    RoundTrip.tOrr RoundTrip.tMul RoundTrip.tBic RoundTrip.tMvn RoundTrip.tAddHi RoundTrip.tCmpHi RoundTrip.tMovHi RoundTrip.tBx
    RoundTrip.tBlxReg RoundTrip.tLdrPc RoundTrip.tStrReg RoundTrip.tStrhReg RoundTrip.tStrbReg RoundTrip.tLdrsbReg
    RoundTrip.tLdrReg RoundTrip.tLdrhReg RoundTrip.tLdrbReg RoundTrip.tLdrshReg RoundTrip.tStrImm RoundTrip.tLdrImm
    RoundTrip.tStrbImm RoundTrip.tLdrbImm RoundTrip.tStrhImm RoundTrip.tLdrhImm RoundTrip.tStrSp RoundTrip.tLdrSp
    RoundTrip.tAddPc RoundTrip.tAddSpRd RoundTrip.tAddSp RoundTrip.tSubSp RoundTrip.tPush RoundTrip.tPop RoundTrip.tBkpt
    RoundTrip.tUnd1011 RoundTrip.tStmia RoundTrip.tLdmia RoundTrip.tSwi RoundTrip.tUndCond RoundTrip.tBcond RoundTrip.tB
    RoundTrip.tUndBlx RoundTrip.tBlxSuffix RoundTrip.tBlPrefix RoundTrip.tBlSuffix i

/-- Settles O1: the law of each constructor. -/
theorem decodeInvertsEncode : Obligations.DecodeInvertsEncode := roundTrip

end Sys2Proof.Laws
end

section
/-!
Encoding inverts decoding (O2): putting the fields that the decoder reads gives back the pieces of the word they were read from,
for each part of the decoder in turn (spec/30 R423-R439; spec/31 R471-R490).
-/
namespace Sys2Proof

/-! ### The bits of joined values -/

theorem ofBool_getLsbD (a : Bool) : (BitVec.ofBool a).getLsbD 0 = a := by cases a <;> rfl

theorem getLsbD_append_low {m n : Nat} (x : BitVec m) (y : BitVec n) {k : Nat} (h : k < n) :
    (x ++ y).getLsbD k = y.getLsbD k := by
  rw [BitVec.getLsbD_append, if_pos h]

theorem getLsbD_append_high {m n : Nat} (x : BitVec m) (y : BitVec n) (k : Nat) :
    (x ++ y).getLsbD (k + n) = x.getLsbD k := by
  rw [BitVec.getLsbD_append, if_neg (by omega), Nat.add_sub_cancel]

/-- The bits of a value that ends in four given bits. -/
theorem append_nib_bits {m : Nat} (x : BitVec m) (a b c d : Bool) :
    (x ++ nib a b c d).getLsbD 3 = a ∧ (x ++ nib a b c d).getLsbD 2 = b ∧ (x ++ nib a b c d).getLsbD 1 = c ∧
      (x ++ nib a b c d).getLsbD 0 = d ∧ ∀ k, (x ++ nib a b c d).getLsbD (k + 4) = x.getLsbD k := by
  obtain ⟨ha, hb, hc, hd⟩ := nib_bits a b c d
  have low {k : Nat} (h : k < 4) := getLsbD_append_low x (nib a b c d) h
  exact ⟨(low (by decide)).trans ha, (low (by decide)).trans hb, (low (by decide)).trans hc, (low (by decide)).trans hd,
    getLsbD_append_high x (nib a b c d)⟩

/-- The bits of a value that ends in three given bits. -/
theorem append_tri_bits {m : Nat} (x : BitVec m) (a b c : Bool) :
    (x ++ tri a b c).getLsbD 2 = a ∧ (x ++ tri a b c).getLsbD 1 = b ∧ (x ++ tri a b c).getLsbD 0 = c ∧
      ∀ k, (x ++ tri a b c).getLsbD (k + 3) = x.getLsbD k := by
  obtain ⟨ha, hb, hc⟩ := tri_bits a b c
  have low {k : Nat} (h : k < 3) := getLsbD_append_low x (tri a b c) h
  exact ⟨(low (by decide)).trans ha, (low (by decide)).trans hb, (low (by decide)).trans hc, getLsbD_append_high x (tri a b c)⟩

/-! ### Putting what was read from an ARM word -/

namespace Fields

variable (g f : Fields)

@[simp] theorem setLow8_low8 :
    g.setLow8 f.low8 = { g with b7 := f.b7, b6 := f.b6, b5 := f.b5, b4 := f.b4, rm := f.rm } := by
  obtain ⟨h7, h6, h5, h4⟩ := nib_bits f.b7 f.b6 f.b5 f.b4
  have high := getLsbD_append_high (nib f.b7 f.b6 f.b5 f.b4) f.rm
  have low : f.low8.extractLsb' 0 4 = f.rm := BitVec.extractLsb'_append_eq_right
  rw [setLow8, low, low8, high 3, high 2, high 1, high 0, h7, h6, h5, h4]

@[simp] theorem setLow12_low12 : g.setLow12 f.low12 = { g.setLow8 f.low8 with rs := f.rs } := by
  have high : f.low12.extractLsb' 8 4 = f.rs := BitVec.extractLsb'_append_eq_left
  have low : f.low12.extractLsb' 0 8 = f.low8 := BitVec.extractLsb'_append_eq_right
  rw [setLow12, high, low]

@[simp] theorem setLow16_low16 : g.setLow16 f.low16 = { g.setLow12 f.low12 with rd := f.rd } := by
  have high : f.low16.extractLsb' 12 4 = f.rd := BitVec.extractLsb'_append_eq_left
  have low : f.low16.extractLsb' 0 12 = f.low12 := BitVec.extractLsb'_append_eq_right
  rw [setLow16, high, low]

@[simp] theorem setLow20_low20 : g.setLow20 f.low20 = { g.setLow16 f.low16 with rn := f.rn } := by
  have high : f.low20.extractLsb' 16 4 = f.rn := BitVec.extractLsb'_append_eq_left
  have low : f.low20.extractLsb' 0 16 = f.low16 := BitVec.extractLsb'_append_eq_right
  rw [setLow20, high, low]

@[simp] theorem setLow24_low24 :
    g.setLow24 f.low24 = { g.setLow20 f.low20 with b23 := f.b23, b22 := f.b22, b21 := f.b21, b20 := f.b20 } := by
  obtain ⟨h23, h22, h21, h20⟩ := nib_bits f.b23 f.b22 f.b21 f.b20
  have high := getLsbD_append_high (nib f.b23 f.b22 f.b21 f.b20) f.low20
  have low : f.low24.extractLsb' 0 20 = f.low20 := BitVec.extractLsb'_append_eq_right
  rw [setLow24, low, low24, high 3, high 2, high 1, high 0, h23, h22, h21, h20]

theorem setLow15_low15 : g.setLow15 (f.rd.getLsbD 3) f.low15 = { g.setLow12 f.low12 with rd := f.rd } := by
  have high : f.low15.extractLsb' 12 3 = f.rd.extractLsb' 0 3 := BitVec.extractLsb'_append_eq_left
  have low : f.low15.extractLsb' 0 12 = f.low12 := BitVec.extractLsb'_append_eq_right
  have joined : ∀ x : BitVec 4, BitVec.ofBool (x.getLsbD 3) ++ x.extractLsb' 0 3 = x := by decide
  rw [setLow15, high, low, joined]

/-- The two parts of an immediate shift amount, bits [11:8] and bit 7 (spec/30 R427). -/
theorem amount_parts (rs : BitVec 4) (b : Bool) :
    (rs ++ BitVec.ofBool b).extractLsb' 1 4 = rs ∧ (rs ++ BitVec.ofBool b).getLsbD 0 = b := by
  revert rs b
  decide

/-- A shifter operand is bits [11:0] and bit 25; a word with bits 7 and 4 set and bit 25 clear has none (spec/30 R426-R428). -/
theorem setOp2_op2 (h : f.b25 = false → f.b4 = true → f.b7 = false) :
    g.setOp2 f.op2 = { g.setLow12 f.low12 with b25 := f.b25 } := by
  obtain ⟨amount, bit⟩ := amount_parts f.rs f.b7
  cases h25 : f.b25
  · cases h4 : f.b4
    · simp only [op2, h25, h4, setOp2, amount, bit, Shift.hiBit_ofBits, Shift.loBit_ofBits, setLow12_low12, setLow8_low8]
    · simp only [op2, h25, h4, h h25 h4, setOp2, Shift.hiBit_ofBits, Shift.loBit_ofBits, setLow12_low12, setLow8_low8]
  · simp only [op2, h25, setOp2, setLow12_low12]

/-- An offset of addressing mode 2 is bits [11:0] and bit 25; a word with bits 25 and 4 set has none (spec/30 R432, R434). -/
theorem setOff2_off2 (h : f.b25 = true → f.b4 = false) : g.setOff2 f.off2 = { g.setLow12 f.low12 with b25 := f.b25 } := by
  obtain ⟨amount, bit⟩ := amount_parts f.rs f.b7
  cases h25 : f.b25
  · simp only [off2, h25, setOff2]
  · simp only [off2, h25, h h25, setOff2, amount, bit, Shift.hiBit_ofBits, Shift.loBit_ofBits, setLow12_low12, setLow8_low8]

@[simp] theorem setOff3_off3 : g.setOff3 f.off3 = { g with b22 := f.b22, rs := f.rs, rm := f.rm } := by
  have high : (f.rs ++ f.rm).extractLsb' 4 4 = f.rs := BitVec.extractLsb'_append_eq_left
  have low : (f.rs ++ f.rm).extractLsb' 0 4 = f.rm := BitVec.extractLsb'_append_eq_right
  cases h22 : f.b22 <;> simp only [off3, h22, setOff3, high, low]

@[simp] theorem setIndex_index : g.setIndex f.index = { g with b24 := f.b24, b23 := f.b23, b21 := f.b21, rn := f.rn } := rfl

@[simp] theorem setCpMem_cpMem : g.setCpMem f.cpMem = { g.setLow24 f.low24 with b24 := f.b24, b20 := g.b20 } := by
  simp [cpMem, setCpMem]

@[simp] theorem setCpOp_cpOp : g.setCpOp f.cpOp = { g.setLow24 f.low24 with b4 := false } := by
  obtain ⟨h23, h22, h21, h20⟩ := nib_bits f.b23 f.b22 f.b21 f.b20
  obtain ⟨h7, h6, h5⟩ := tri_bits f.b7 f.b6 f.b5
  simp only [cpOp, setCpOp, setLow24_low24, setLow20_low20, setLow16_low16, setLow12_low12, setLow8_low8, h23, h22, h21, h20,
    h7, h6, h5]

@[simp] theorem setCpReg_cpReg (l : Bool) : g.setCpReg l f.cpReg = { g.setLow24 f.low24 with b20 := l, b4 := true } := by
  obtain ⟨h23, h22, h21⟩ := tri_bits f.b23 f.b22 f.b21
  obtain ⟨h7, h6, h5⟩ := tri_bits f.b7 f.b6 f.b5
  simp only [cpReg, setCpReg, setLow24_low24, setLow20_low20, setLow16_low16, setLow12_low12, setLow8_low8, h23, h22, h21, h7,
    h6, h5]

end Fields

/-! ### Instructions whose fields are joined of several pieces -/

section Joined

variable {c : Cond} {rn rd rs rm : BitVec 4}

/-- The unallocated words of the miscellaneous space (spec/30 R429). -/
theorem encodeFields_undMiscA (b22 b21 b6 b5 b4 : Bool) :
    encodeFields (.undMiscA c (BitVec.ofBool b22 ++ BitVec.ofBool b21) rn rd rs (tri b6 b5 b4) rm) =
      some (miscFields c b22 b21 false b6 b5 b4 rn rd rs rm) := by
  obtain ⟨h6, h5, h4⟩ := tri_bits b6 b5 b4
  have h22 := getLsbD_append_high (BitVec.ofBool b22) (BitVec.ofBool b21) 0
  have h21 := getLsbD_append_low (BitVec.ofBool b22) (BitVec.ofBool b21) (k := 0) (by decide)
  rw [encodeFields, h22, h21, ofBool_getLsbD, ofBool_getLsbD, h6, h5, h4]

/-- The immediate of BKPT is bits [19:8] and [3:0] (spec/30 R429). -/
theorem encodeFields_bkpt :
    encodeFields (.bkpt c (rn ++ rd ++ rs) rm) = some (miscFields c false true false true true true rn rd rs rm) := by
  have first : (rn ++ rd ++ rs).extractLsb' 8 4 = rn :=
    (BitVec.extractLsb'_append_eq_of_le (by decide)).trans BitVec.extractLsb'_append_eq_left
  have second : (rn ++ rd ++ rs).extractLsb' 4 4 = rd :=
    (BitVec.extractLsb'_append_eq_of_le (by decide)).trans BitVec.extractLsb'_append_eq_right
  have third : (rn ++ rd ++ rs).extractLsb' 0 4 = rs := BitVec.extractLsb'_append_eq_right
  rw [encodeFields, first, second, third]

/-- The unallocated words of the multiply and swap space (spec/30 R430). -/
theorem encodeFields_undMul (b24 b23 b22 b21 b20 : Bool) :
    encodeFields (.undMul c (BitVec.ofBool b24 ++ nib b23 b22 b21 b20) rn rd rs rm) =
      some (mulFields c b24 b23 b22 b21 b20 rn rd rs rm) := by
  obtain ⟨h23, h22, h21, h20, high⟩ := append_nib_bits (BitVec.ofBool b24) b23 b22 b21 b20
  rw [encodeFields, high 0, ofBool_getLsbD, h23, h22, h21, h20]

end Joined

variable {c : Cond} {f : Fields}

/-- The words with bits [27:25] = 011 and bit 4 set (spec/30 R434). -/
theorem encodeFields_undMedia (hc : f.cond = c.bits) (h27 : f.b27 = false) (h26 : f.b26 = true) (h25 : f.b25 = true)
    (h4 : f.b4 = true) :
    encodeFields (.undMedia c (BitVec.ofBool f.b24 ++ nib f.b23 f.b22 f.b21 f.b20) f.rn f.rd f.rs (tri f.b7 f.b6 f.b5) f.rm)
      = some f := by
  obtain ⟨h23, h22, h21, h20, high⟩ := append_nib_bits (BitVec.ofBool f.b24) f.b23 f.b22 f.b21 f.b20
  obtain ⟨h7, h6, h5⟩ := tri_bits f.b7 f.b6 f.b5
  rw [encodeFields, high 0, ofBool_getLsbD, h23, h22, h21, h20, h7, h6, h5]
  obtain ⟨cond, b27, b26, b25, b24, b23, b22, b21, b20, rn, rd, rs, b7, b6, b5, b4, rm⟩ := f
  subst hc h27 h26 h25 h4
  rfl

/-- The words with cond = 1111 of no other row (spec/30 R439). -/
theorem encodeFields_undUncond (hc : f.cond = 15#4) :
    encodeFields (.undUncond (nib f.b27 f.b26 f.b25 f.b24 ++ nib f.b23 f.b22 f.b21 f.b20) f.rn f.rd f.rs
      (nib f.b7 f.b6 f.b5 f.b4) f.rm) = some f := by
  obtain ⟨h23, h22, h21, h20, high⟩ := append_nib_bits (nib f.b27 f.b26 f.b25 f.b24) f.b23 f.b22 f.b21 f.b20
  obtain ⟨h27, h26, h25, h24⟩ := nib_bits f.b27 f.b26 f.b25 f.b24
  obtain ⟨h7, h6, h5, h4⟩ := nib_bits f.b7 f.b6 f.b5 f.b4
  rw [encodeFields, high 3, high 2, high 1, high 0, h27, h26, h25, h24, h23, h22, h21, h20, h7, h6, h5, h4, ← hc]

/-! ### The parts of the ARM decoder -/

open Fields

theorem encodeFields_decodeDp (hc : f.cond = c.bits) (h27 : f.b27 = false) (h26 : f.b26 = false)
    (form : f.b25 = false → f.b4 = true → f.b7 = false) (flags : f.b24 = true → f.b23 = false → f.b20 = true) :
    encodeFields (decodeDp c f) = some f := by
  have op (g : Fields) := setOp2_op2 g f form
  obtain ⟨cond, b27, b26, b25, b24, b23, b22, b21, b20, rn, rd, rs, b7, b6, b5, b4, rm⟩ := f
  subst hc h27 h26
  cases b24 <;> cases b23
  case true.false =>
    obtain rfl := flags rfl rfl
    cases b22 <;> cases b21 <;> simp [decodeDp, encodeFields, dpFields, fieldsOf, op]
  all_goals cases b22 <;> cases b21 <;> simp [decodeDp, encodeFields, dpFields, fieldsOf, op]

theorem encodeFields_decodeMisc (hc : f.cond = c.bits) (h27 : f.b27 = false) (h26 : f.b26 = false) (h25 : f.b25 = false)
    (h24 : f.b24 = true) (h23 : f.b23 = false) (h20 : f.b20 = false) (low : f.b7 = true → f.b4 = false) :
    encodeFields (decodeMisc c f) = some f := by
  obtain ⟨cond, b27, b26, b25, b24, b23, b22, b21, b20, rn, rd, rs, b7, b6, b5, b4, rm⟩ := f
  subst hc h27 h26 h25 h24 h23 h20
  cases b7
  · cases b6 <;> cases b5 <;> cases b4 <;> cases b22 <;> cases b21 <;>
      simp only [decodeMisc, encodeFields_undMiscA, encodeFields_bkpt] <;> rfl
  · obtain rfl := low rfl
    cases b22 <;> cases b21 <;> cases b5 <;> rfl

theorem encodeFields_decodeMul (hc : f.cond = c.bits) (h27 : f.b27 = false) (h26 : f.b26 = false) (h25 : f.b25 = false)
    (h7 : f.b7 = true) (h6 : f.b6 = false) (h5 : f.b5 = false) (h4 : f.b4 = true) :
    encodeFields (decodeMul c f) = some f := by
  obtain ⟨cond, b27, b26, b25, b24, b23, b22, b21, b20, rn, rd, rs, b7, b6, b5, b4, rm⟩ := f
  subst hc h27 h26 h25 h7 h6 h5 h4
  cases b24 <;> cases b23 <;> cases b22 <;> cases b21 <;> cases b20 <;>
    simp only [decodeMul, encodeFields_undMul] <;> rfl

theorem encodeFields_decodeExtra (hc : f.cond = c.bits) (h27 : f.b27 = false) (h26 : f.b26 = false) (h25 : f.b25 = false)
    (h7 : f.b7 = true) (h4 : f.b4 = true) : encodeFields (decodeExtra c f) = some f := by
  obtain ⟨cond, b27, b26, b25, b24, b23, b22, b21, b20, rn, rd, rs, b7, b6, b5, b4, rm⟩ := f
  subst hc h27 h26 h25 h7 h4
  cases b6 <;> cases b5
  case false.false => exact encodeFields_decodeMul rfl rfl rfl rfl rfl rfl rfl rfl
  all_goals cases b20 <;> simp [decodeExtra, encodeFields, extraFields, fieldsOf]

theorem encodeFields_decode000 (hc : f.cond = c.bits) (h27 : f.b27 = false) (h26 : f.b26 = false) (h25 : f.b25 = false) :
    encodeFields (decode000 c f) = some f := by
  unfold decode000
  split
  · split
    · exact encodeFields_decodeMisc hc h27 h26 h25 ‹_› ‹_› ‹_› fun _ => ‹_›
    · split
      · exact encodeFields_decodeMisc hc h27 h26 h25 ‹_› ‹_› ‹_› (by simp [*])
      · exact encodeFields_decodeExtra hc h27 h26 h25 ‹_› ‹_›
  · have flags : f.b24 = true → f.b23 = false → f.b20 = true := by simp_all
    split
    · exact encodeFields_decodeDp hc h27 h26 (by simp [*]) flags
    · split
      · exact encodeFields_decodeDp hc h27 h26 (fun _ _ => ‹_›) flags
      · exact encodeFields_decodeExtra hc h27 h26 h25 ‹_› ‹_›

theorem encodeFields_decode001 (hc : f.cond = c.bits) (h27 : f.b27 = false) (h26 : f.b26 = false) (h25 : f.b25 = true) :
    encodeFields (decode001 c f) = some f := by
  unfold decode001
  split
  case h_3 => exact encodeFields_decodeDp hc h27 h26 (by simp [*]) (by simp_all)
  all_goals
    obtain ⟨cond, b27, b26, b25, b24, b23, b22, b21, b20, rn, rd, rs, b7, b6, b5, b4, rm⟩ := f
    simp_all [encodeFields, fieldsOf]

theorem encodeFields_decodeSingle (hc : f.cond = c.bits) (h27 : f.b27 = false) (h26 : f.b26 = true)
    (form : f.b25 = true → f.b4 = false) : encodeFields (decodeSingle c f) = some f := by
  have off (g : Fields) := setOff2_off2 g f form
  obtain ⟨cond, b27, b26, b25, b24, b23, b22, b21, b20, rn, rd, rs, b7, b6, b5, b4, rm⟩ := f
  subst hc h27 h26
  cases b24 <;> cases b21 <;> cases b22 <;> cases b20 <;>
    simp [decodeSingle, encodeFields, singleFields, fieldsOf, index, setIndex, off]

theorem encodeFields_decodeMultiple (hc : f.cond = c.bits) (h27 : f.b27 = true) (h26 : f.b26 = false) (h25 : f.b25 = false) :
    encodeFields (decodeMultiple c f) = some f := by
  have list (g : Fields) := setLow15_low15 g f
  obtain ⟨cond, b27, b26, b25, b24, b23, b22, b21, b20, rn, rd, rs, b7, b6, b5, b4, rm⟩ := f
  subst hc h27 h26 h25
  cases b20 <;> cases b22
  case true.true =>
    cases h : rd.getLsbD 3 <;> rw [h] at list <;>
      simp only [decodeMultiple, h, encodeFields, multipleFields, fieldsOf, setIndex_index, list, setLow12_low12, setLow8_low8]
  all_goals simp [decodeMultiple, encodeFields, multipleFields, fieldsOf]

theorem encodeFields_decodeBranch (hc : f.cond = c.bits) (h27 : f.b27 = true) (h26 : f.b26 = false) (h25 : f.b25 = true) :
    encodeFields (match f.b24 with | false => .b c f.low24 | true => .bl c f.low24) = some f := by
  obtain ⟨cond, b27, b26, b25, b24, b23, b22, b21, b20, rn, rd, rs, b7, b6, b5, b4, rm⟩ := f
  subst hc h27 h26 h25
  cases b24 <;> simp [encodeFields, fieldsOf]

/-- MCRR and MRRC: opcode is bits [7:4] (spec/30 R437). -/
theorem encodeFields_twoRegisters (b7 b6 b5 b4 : Bool) (rn rd rs rm : BitVec 4) :
    (encodeFields (.mcrr c rn rd rs (nib b7 b6 b5 b4) rm) = some { cpFields c.bits false with
      b22 := true, rn := rn, rd := rd, rs := rs, b7 := b7, b6 := b6, b5 := b5, b4 := b4, rm := rm }) ∧
    encodeFields (.mrrc c rn rd rs (nib b7 b6 b5 b4) rm) = some { cpFields c.bits false with
      b22 := true, b20 := true, rn := rn, rd := rd, rs := rs, b7 := b7, b6 := b6, b5 := b5, b4 := b4, rm := rm } := by
  obtain ⟨h7, h6, h5, h4⟩ := nib_bits b7 b6 b5 b4
  constructor <;> rw [encodeFields, h7, h6, h5, h4]

theorem encodeFields_decode110 (hc : f.cond = c.bits) (h27 : f.b27 = true) (h26 : f.b26 = true) (h25 : f.b25 = false) :
    encodeFields (decode110 c f) = some f := by
  obtain ⟨toCp, fromCp⟩ := encodeFields_twoRegisters (c := c) f.b7 f.b6 f.b5 f.b4 f.rn f.rd f.rs f.rm
  obtain ⟨cond, b27, b26, b25, b24, b23, b22, b21, b20, rn, rd, rs, b7, b6, b5, b4, rm⟩ := f
  subst hc h27 h26 h25
  cases b24 <;> cases b23 <;> cases b21
  case false.false.false =>
    cases b22 <;> cases b20
    case true.false => exact toCp
    case true.true => exact fromCp
    all_goals simp [decode110, encodeFields, cpFields, fieldsOf]
  all_goals cases b20 <;> simp [decode110, encodeFields, cpFields, fieldsOf]

theorem encodeFields_decode111 (hc : f.cond = c.bits) (h27 : f.b27 = true) (h26 : f.b26 = true) (h25 : f.b25 = true) :
    encodeFields (decode111 c f) = some f := by
  obtain ⟨cond, b27, b26, b25, b24, b23, b22, b21, b20, rn, rd, rs, b7, b6, b5, b4, rm⟩ := f
  subst hc h27 h26 h25
  cases b24 <;> cases b4 <;> cases b20 <;> simp [decode111, encodeFields, cpFields, fieldsOf]

theorem encodeFields_decodeCond (hc : f.cond = c.bits) : encodeFields (decodeCond c f) = some f := by
  unfold decodeCond
  split
  · exact encodeFields_decode000 hc ‹_› ‹_› ‹_›
  · exact encodeFields_decode001 hc ‹_› ‹_› ‹_›
  · exact encodeFields_decodeSingle hc ‹_› ‹_› (by simp [*])
  · split
    · exact encodeFields_decodeSingle hc ‹_› ‹_› fun _ => ‹_›
    · exact encodeFields_undMedia hc ‹_› ‹_› ‹_› ‹_›
  · exact encodeFields_decodeMultiple hc ‹_› ‹_› ‹_›
  · exact encodeFields_decodeBranch hc ‹_› ‹_› ‹_›
  · exact encodeFields_decode110 hc ‹_› ‹_› ‹_›
  · exact encodeFields_decode111 hc ‹_› ‹_› ‹_›

/-- PLD, and the UNDEFINED words beside it, where bits 25 and 4 are set (spec/30 R439). -/
theorem encodeFields_preload (hc : f.cond = 15#4) (h27 : f.b27 = false) (h26 : f.b26 = true)
    (row : (f.b24 && f.b22 && !f.b21 && f.b20 && f.rd == 15#4) = true) :
    encodeFields (match f.b25 && f.b4 with
      | true => .undPld f.b23 f.rn f.rs (tri f.b7 f.b6 f.b5) f.rm
      | false => .pld f.b23 f.rn f.off2) = some f := by
  obtain ⟨h7, h6, h5⟩ := tri_bits f.b7 f.b6 f.b5
  have off (g : Fields) := setOff2_off2 g f
  simp only [Bool.and_eq_true, Bool.not_eq_true', beq_iff_eq] at row
  obtain ⟨⟨⟨⟨h24, h22⟩, h21⟩, h20⟩, hrd⟩ := row
  obtain ⟨cond, b27, b26, b25, b24, b23, b22, b21, b20, rn, rd, rs, b7, b6, b5, b4, rm⟩ := f
  subst hc h27 h26 h24 h22 h21 h20 hrd
  split
  case h_1 both =>
    obtain ⟨rfl, rfl⟩ : b25 = true ∧ b4 = true := by simpa using both
    simp only [encodeFields, fieldsOf, h7, h6, h5]
  case h_2 notBoth =>
    have form : b25 = true → b4 = false := by simpa using notBoth
    simp [encodeFields, fieldsOf, off _ form]

theorem encodeFields_decodeUncond (hc : f.cond = 15#4) : encodeFields (decodeUncond f) = some f := by
  have hole := encodeFields_undUncond hc
  unfold decodeUncond
  split
  case h_1 | h_3 => exact hole
  case h_2 =>
    split
    · exact hole
    · exact encodeFields_preload hc ‹_› ‹_› ‹_›
  case h_4 h27 h26 h25 =>
    obtain ⟨cond, b27, b26, b25, b24, b23, b22, b21, b20, rn, rd, rs, b7, b6, b5, b4, rm⟩ := f
    subst hc h27 h26 h25
    simp [encodeFields, fieldsOf]
  case h_5 h27 h26 h25 =>
    obtain ⟨cond, b27, b26, b25, b24, b23, b22, b21, b20, rn, rd, rs, b7, b6, b5, b4, rm⟩ := f
    subst hc h27 h26 h25
    cases b24 <;> cases b23 <;> cases b21 <;> cases b20 <;> simp [encodeFields, cpFields, fieldsOf]
  case h_6 h27 h26 h25 =>
    split
    case h_1 => exact hole
    all_goals
      obtain ⟨cond, b27, b26, b25, b24, b23, b22, b21, b20, rn, rd, rs, b7, b6, b5, b4, rm⟩ := f
      simp_all [encodeFields, cpFields, fieldsOf]

theorem encodeFields_decodeFields (f : Fields) : encodeFields (decodeFields f) = some f := by
  unfold decodeFields
  split
  · exact encodeFields_decodeUncond (Cond.ofBits_none ‹_›)
  · exact encodeFields_decodeCond (Cond.bits_of_ofBits ‹_›).symm

theorem encode_decodeArm (w : Word) : encode (decodeArm w) = .arm w := by
  simp only [encode, decodeArm, encodeFields_decodeFields, pack_unpack]

/-! ### Putting what was read from a Thumb halfword -/

namespace Bits16

variable (g t : Bits16)

@[simp] theorem setR0_r0 : g.setR0 t.r0 = { g with b2 := t.b2, b1 := t.b1, b0 := t.b0 } := by
  obtain ⟨h2, h1, h0⟩ := tri_bits t.b2 t.b1 t.b0
  simp only [setR0, r0, h2, h1, h0]

@[simp] theorem setR3_r3 : g.setR3 t.r3 = { g with b5 := t.b5, b4 := t.b4, b3 := t.b3 } := by
  obtain ⟨h2, h1, h0⟩ := tri_bits t.b5 t.b4 t.b3
  simp only [setR3, r3, h2, h1, h0]

@[simp] theorem setR6_r6 : g.setR6 t.r6 = { g with b8 := t.b8, b7 := t.b7, b6 := t.b6 } := by
  obtain ⟨h2, h1, h0⟩ := tri_bits t.b8 t.b7 t.b6
  simp only [setR6, r6, h2, h1, h0]

@[simp] theorem setR8_r8 : g.setR8 t.r8 = { g with b10 := t.b10, b9 := t.b9, b8 := t.b8 } := by
  obtain ⟨h2, h1, h0⟩ := tri_bits t.b10 t.b9 t.b8
  simp only [setR8, r8, h2, h1, h0]

@[simp] theorem setHi0_hi0 : g.setHi0 t.hi0 = { g with b7 := t.b7, b2 := t.b2, b1 := t.b1, b0 := t.b0 } := by
  obtain ⟨h3, h2, h1, h0⟩ := nib_bits t.b7 t.b2 t.b1 t.b0
  simp only [setHi0, hi0, h3, h2, h1, h0]

@[simp] theorem setHi3_hi3 : g.setHi3 t.hi3 = { g with b6 := t.b6, b5 := t.b5, b4 := t.b4, b3 := t.b3 } := by
  obtain ⟨h3, h2, h1, h0⟩ := nib_bits t.b6 t.b5 t.b4 t.b3
  simp only [setHi3, hi3, h3, h2, h1, h0]

@[simp] theorem setImm8_imm8 : g.setImm8 t.imm8 =
    { g with b7 := t.b7, b6 := t.b6, b5 := t.b5, b4 := t.b4, b3 := t.b3, b2 := t.b2, b1 := t.b1, b0 := t.b0 } := by
  obtain ⟨h3, h2, h1, h0, high⟩ := append_nib_bits (nib t.b7 t.b6 t.b5 t.b4) t.b3 t.b2 t.b1 t.b0
  obtain ⟨h7, h6, h5, h4⟩ := nib_bits t.b7 t.b6 t.b5 t.b4
  rw [setImm8, imm8, high 3, high 2, high 1, high 0, h7, h6, h5, h4, h3, h2, h1, h0]

@[simp] theorem setImm7_imm7 : g.setImm7 t.imm7 =
    { g with b6 := t.b6, b5 := t.b5, b4 := t.b4, b3 := t.b3, b2 := t.b2, b1 := t.b1, b0 := t.b0 } := by
  obtain ⟨h3, h2, h1, h0, high⟩ := append_nib_bits (tri t.b6 t.b5 t.b4) t.b3 t.b2 t.b1 t.b0
  obtain ⟨h6, h5, h4⟩ := tri_bits t.b6 t.b5 t.b4
  rw [setImm7, imm7, high 2, high 1, high 0, h6, h5, h4, h3, h2, h1, h0]

@[simp] theorem setImm5_imm5 : g.setImm5 t.imm5 = { g with b10 := t.b10, b9 := t.b9, b8 := t.b8, b7 := t.b7, b6 := t.b6 } := by
  obtain ⟨h9, h8, h7, h6, high⟩ := append_nib_bits (BitVec.ofBool t.b10) t.b9 t.b8 t.b7 t.b6
  have h10 : (BitVec.ofBool t.b10).getLsbD 0 = t.b10 := by cases t.b10 <;> rfl
  rw [setImm5, imm5, high 0, h10, h9, h8, h7, h6]

@[simp] theorem setImm11_imm11 : g.setImm11 t.imm11 = { g.setImm8 t.imm8 with b10 := t.b10, b9 := t.b9, b8 := t.b8 } := by
  obtain ⟨h10, h9, h8⟩ := tri_bits t.b10 t.b9 t.b8
  have high := getLsbD_append_high (tri t.b10 t.b9 t.b8) t.imm8
  have low (k : Nat) (h : k < 8) : t.imm11.getLsbD k = t.imm8.getLsbD k := getLsbD_append_low _ _ h
  rw [setImm11, setImm8, low 7 (by decide), low 6 (by decide), low 5 (by decide), low 4 (by decide), low 3 (by decide),
    low 2 (by decide), low 1 (by decide), low 0 (by decide), imm11, high 2, high 1, high 0, h10, h9, h8]

@[simp] theorem setImm10_imm10 : g.setImm10 t.imm10 =
    { t with b15 := g.b15, b14 := g.b14, b13 := g.b13, b12 := g.b12, b11 := g.b11, b0 := g.b0 } := by
  obtain ⟨h4, h3, h2, h1, high⟩ := append_nib_bits (tri t.b10 t.b9 t.b8 ++ tri t.b7 t.b6 t.b5) t.b4 t.b3 t.b2 t.b1
  obtain ⟨h7, h6, h5, high'⟩ := append_tri_bits (tri t.b10 t.b9 t.b8) t.b7 t.b6 t.b5
  obtain ⟨h10, h9, h8⟩ := tri_bits t.b10 t.b9 t.b8
  rw [setImm10, imm10, high 5, high 4, high 3, high 2, high 1, high 0, high' 2, high' 1, high' 0, h10, h9, h8, h7, h6, h5, h4,
    h3, h2, h1]

end Bits16

/-! ### The parts of the Thumb decoder -/

/-- Joining the bits of a halfword gives the halfword. -/
@[simp] theorem pack16_unpack16 (h : Half) : pack16 (unpack16 h) = h := by
  have part (k : Nat) : nib (h.getLsbD (k + 3)) (h.getLsbD (k + 2)) (h.getLsbD (k + 1)) (h.getLsbD k) = h.extractLsb' k 4 := by
    rw [← nib_getLsbD (h.extractLsb' k 4)]
    simp
  calc pack16 (unpack16 h)
      = h.extractLsb' 12 4 ++ h.extractLsb' 8 4 ++ h.extractLsb' 4 4 ++ h.extractLsb' 0 4 := by
        rw [← part 12, ← part 8, ← part 4, ← part 0]
        rfl
    _ = h := by
        rw [BitVec.extractLsb'_append_extractLsb'_eq_extractLsb' (by decide),
          BitVec.extractLsb'_append_extractLsb'_eq_extractLsb' (by decide),
          BitVec.extractLsb'_append_extractLsb'_eq_extractLsb' (by decide)]
        exact BitVec.extractLsb'_eq_self

/-- The encoder gives an instruction this halfword. -/
def ThumbWord (i : Instr) (t : Bits16) : Prop := encodeFields i = none ∧ encodeBits16 i = some t

theorem ThumbWord.encode_eq {i t} (h : ThumbWord i t) : encode i = .thumb (pack16 t) := by
  obtain ⟨hf, hb⟩ := h
  simp only [encode, hf, hb]

variable {t : Bits16}

theorem thumbWord_T4 (h15 : t.b15 = false) (h14 : t.b14 = true) (h13 : t.b13 = false) (h12 : t.b12 = false) (h11 : t.b11 = false)
    (h10 : t.b10 = false) : ThumbWord (decodeT4 t) t := by
  obtain ⟨b15, b14, b13, b12, b11, b10, b9, b8, b7, b6, b5, b4, b3, b2, b1, b0⟩ := t
  subst h15 h14 h13 h12 h11 h10
  cases b9 <;> cases b8 <;> cases b7 <;> cases b6 <;>
    simp [decodeT4, ThumbWord, encodeFields, encodeBits16, t4Bits, top8]

theorem thumbWord_T5 (h15 : t.b15 = false) (h14 : t.b14 = true) (h13 : t.b13 = false) (h12 : t.b12 = false) (h11 : t.b11 = false)
    (h10 : t.b10 = true) : ThumbWord (decodeT5 t) t := by
  obtain ⟨b15, b14, b13, b12, b11, b10, b9, b8, b7, b6, b5, b4, b3, b2, b1, b0⟩ := t
  subst h15 h14 h13 h12 h11 h10
  cases b9 <;> cases b8
  case true.true => cases b7 <;> simp [decodeT5, ThumbWord, encodeFields, encodeBits16, top8]
  all_goals simp [decodeT5, ThumbWord, encodeFields, encodeBits16, top8]

theorem thumbWord_T7 (h15 : t.b15 = false) (h14 : t.b14 = true) (h13 : t.b13 = false) (h12 : t.b12 = true) :
    ThumbWord (decodeT7 t) t := by
  obtain ⟨b15, b14, b13, b12, b11, b10, b9, b8, b7, b6, b5, b4, b3, b2, b1, b0⟩ := t
  subst h15 h14 h13 h12
  cases b11 <;> cases b10 <;> cases b9 <;>
    simp [decodeT7, ThumbWord, encodeFields, encodeBits16, t7Bits, top8]

/-- The 1011 halfwords that are no other instruction (spec/31 R490). -/
theorem encodeBits16_und1011 (t : Bits16) : encodeBits16 (.tUnd1011 (nib t.b11 t.b10 t.b9 t.b8 ++ t.imm8)) =
    some { t with b15 := true, b14 := false, b13 := true, b12 := true } := by
  obtain ⟨h3, h2, h1, h0⟩ := nib_bits t.b11 t.b10 t.b9 t.b8
  have high := getLsbD_append_high (nib t.b11 t.b10 t.b9 t.b8) t.imm8
  have low : (nib t.b11 t.b10 t.b9 t.b8 ++ t.imm8).extractLsb' 0 8 = t.imm8 := BitVec.extractLsb'_append_eq_right
  rw [encodeBits16, high 3, high 2, high 1, high 0, h3, h2, h1, h0, low, Bits16.setImm8_imm8, top8]

theorem thumbWord_1011 (h15 : t.b15 = true) (h14 : t.b14 = false) (h13 : t.b13 = true) (h12 : t.b12 = true) :
    ThumbWord (decode1011 t) t := by
  have hole := encodeBits16_und1011 t
  obtain ⟨b15, b14, b13, b12, b11, b10, b9, b8, b7, b6, b5, b4, b3, b2, b1, b0⟩ := t
  subst h15 h14 h13 h12
  unfold decode1011
  split
  case h_6 => exact ⟨rfl, hole⟩
  all_goals simp_all [ThumbWord, encodeFields, encodeBits16, top8]

/-- The 1101 halfwords have the bits of a condition, or 1111, in [11:8] (spec/31 R486, R488, R490). -/
theorem thumbWord_condBits (t : Bits16) :
    ThumbWord (decode1101 t) ((top8 true true false true t.b11 t.b10 t.b9 t.b8).setImm8 t.imm8) := by
  obtain ⟨h11, h10, h9, h8⟩ := nib_bits t.b11 t.b10 t.b9 t.b8
  generalize hn : nib t.b11 t.b10 t.b9 t.b8 = n at h11 h10 h9 h8
  rw [← h11, ← h10, ← h9, ← h8]
  cases h : Cond.ofBits n with
  | none =>
    rw [decode1101_of (hn ▸ h), Cond.ofBits_none h]
    exact ⟨rfl, rfl⟩
  | some c =>
    rw [decode1101_of (hn ▸ h), ← Cond.bits_of_ofBits h]
    cases c <;> exact ⟨rfl, rfl⟩

theorem thumbWord_1101 (h15 : t.b15 = true) (h14 : t.b14 = true) (h13 : t.b13 = false) (h12 : t.b12 = true) :
    ThumbWord (decode1101 t) t := by
  have word := thumbWord_condBits t
  rw [Bits16.setImm8_imm8] at word
  obtain ⟨b15, b14, b13, b12, b11, b10, b9, b8, b7, b6, b5, b4, b3, b2, b1, b0⟩ := t
  subst h15 h14 h13 h12
  exact word

theorem thumbWord_decodeBits16 (t : Bits16) : ThumbWord (decodeBits16 t) t := by
  obtain ⟨b15, b14, b13, b12, b11, b10, b9, b8, b7, b6, b5, b4, b3, b2, b1, b0⟩ := t
  cases b15 <;> cases b14 <;> cases b13 <;> cases b12 <;> cases b11
  case false.true.false.false.false =>
    cases b10
    · exact thumbWord_T4 rfl rfl rfl rfl rfl rfl
    · exact thumbWord_T5 rfl rfl rfl rfl rfl rfl
  case false.true.false.true.false | false.true.false.true.true => exact thumbWord_T7 rfl rfl rfl rfl
  case true.false.true.true.false | true.false.true.true.true => exact thumbWord_1011 rfl rfl rfl rfl
  case true.true.false.true.false | true.true.false.true.true => exact thumbWord_1101 rfl rfl rfl rfl
  case false.false.false.true.true =>
    cases b10 <;> cases b9 <;> simp [decodeBits16, ThumbWord, encodeFields, encodeBits16, top8]
  case true.true.true.false.true =>
    cases b0 <;> simp [decodeBits16, ThumbWord, encodeFields, encodeBits16, top8]
  all_goals simp [decodeBits16, ThumbWord, encodeFields, encodeBits16, imm5Bits, imm8Bits, top8]

theorem encode_decodeThumb (h : Half) : encode (decodeThumb h) = .thumb h := by
  rw [decodeThumb, (thumbWord_decodeBits16 (unpack16 h)).encode_eq, pack16_unpack16]

/-- Settles O2: the pieces of a word are those that the encoder gives to what they decode to, in both states. -/
theorem encodeInvertsDecode : Obligations.EncodeInvertsDecode := ⟨encode_decodeArm, encode_decodeThumb⟩

end Sys2Proof
end

section
/-!
Conditions (O9), what is refused (O10), and software traps (O38): an instruction is run under its condition, and behind the checks
of its should-be fields and of its register restrictions (spec/30 R422, R424, R440).
-/
namespace Sys2Proof.Machine

variable {s : State} {i : Instr} {c : Cond}

/-! ### Conditions (spec/30 R422, R424) -/

/-- A meaning under the condition of its instruction, if that has one. -/
def underCond (i : Instr) (s : State) (k : Outcome State) : Outcome State :=
  match condOf i with
  | some c => whenCond c s k
  | none => k

/-- Every instruction is run under its condition (spec/30 R424). -/
theorem exec_underCond (i : Instr) (s : State) : ∃ k, exec i s = underCond i s k := by
  cases i <;> exact ⟨_, rfl⟩

theorem underCond_some (h : condOf i = some c) (k : Outcome State) : underCond i s k = whenCond c s k := by
  rw [underCond, h]

theorem underCond_holds (hc : s.condHolds i = true) (k : Outcome State) : underCond i s k = k := by
  unfold underCond
  unfold State.condHolds at hc
  cases h : condOf i with
  | none => rfl
  | some c =>
    rw [h] at hc
    exact whenCond_pass hc

theorem whenCond_fail {k : Outcome State} (h : s.passes c = false) : whenCond c s k = advance s := by
  rw [whenCond, h]
  rfl

theorem advance_of_not_canAdvance (h : s.canAdvance = false) : advance s = .refused .pcWrap := by
  obtain ⟨running, last⟩ : s.halted = false ∧ s.pc = (if s.thumb then 0xFFFFFFFE#32 else 0xFFFFFFFC#32) := by
    simpa [State.canAdvance] using h
  rw [advance, running, if_neg Bool.false_ne_true, if_pos last]

/-- Settles O9: the table is a finite check, and an instruction whose condition fails is `advance`. -/
theorem conditions : Obligations.Conditions := by
  refine ⟨by decide, fun i c s hc fails => ?_⟩
  obtain ⟨k, run⟩ := exec_underCond i s
  rw [run, underCond_some hc, whenCond_fail fails]
  exact ⟨advance_of_canAdvance, advance_of_not_canAdvance⟩

/-! ### Should-be fields and register restrictions (spec/30 R440) -/

/-- A check that one case is free of is a check that the case passes. -/
theorem ite_require (b ok : Bool) (r : Refusal) (k k' : Outcome State) :
    (if b then k else require ok r k') = require (b || ok) r (if b then k else k') := by
  cases b <;> rfl

theorem noPc_three (a b c : Reg) : noPc [a, b, c] = (a != regPc && b != regPc && c != regPc) := by
  simp [noPc, Bool.and_assoc]

/-- Behind its condition an instruction checks its should-be fields, then its register restrictions (spec/30 R440); an LDRD or
STRD with an odd Rd is Undefined before the second check (log 16). -/
theorem exec_checks (hc : s.condHolds i = true) :
    ∃ k, exec i s = require i.regular .shouldBeField (require (operandsAllowed i) .operandRestriction k) := by
  cases i
  case ldrd | strd => exact ⟨_, (underCond_holds hc _).trans (congrArg (require _ _) (ite_require ..))⟩
  case qadd | qsub | qdadd | qdsub | swp | swpb =>
    rw [operandsAllowed, noPc_three]
    exact ⟨_, underCond_holds hc _⟩
  all_goals exact ⟨_, underCond_holds hc _⟩

theorem require_fail {ok : Bool} {r : Refusal} {k : Outcome State} (h : ok = false) : require ok r k = .refused r := by
  rw [require, h]
  rfl

/-- Settles O10: the first check that fails refuses. -/
theorem unpredictableFormsRefused : Obligations.UnpredictableFormsRefused := by
  intro i s hc
  obtain ⟨k, run⟩ := exec_checks hc
  rw [run]
  exact ⟨require_fail, fun regular restricted => (require_pass regular).trans (require_fail restricted)⟩

/-! ### Software traps (spec/45 R675; spec/48 R830, R832; spec/60 R862, R864) -/

theorem undefinedInstr_running (h : s.halted = false) :
    undefinedInstr s = .next (takeException .undefined (s.pc + s.instrSize) s) := by
  rw [undefinedInstr, h]
  rfl

theorem softwareInterrupt_running (h : s.halted = false) :
    softwareInterrupt s = .next (takeException .swi (s.pc + s.instrSize) s) := by
  rw [softwareInterrupt, h]
  rfl

/-- Every UNDEFINED row is `undefinedInstr`, where its condition holds (spec/30 R434, R439; spec/31 R490). -/
theorem exec_undefined (hu : isUndefined i = true) (hc : s.condHolds i = true) : exec i s = undefinedInstr s := by
  cases i <;> cases hu <;> exact underCond_holds hc _

/-- Settles O38: SWI is `softwareInterrupt`, an UNDEFINED row `undefinedInstr`, and neither is refused outside debug state. -/
theorem softwareTraps : Obligations.SoftwareTraps :=
  ⟨fun _ _ _ passes running => (whenCond_pass passes).trans (softwareInterrupt_running running),
    fun _ _ running => softwareInterrupt_running running,
    fun _ _ undefined holds running => (exec_undefined undefined holds).trans (undefinedInstr_running running)⟩

end Sys2Proof.Machine
end

section
/-!
The shifter operand (O11): what each shift by an amount other than 0 gives, and that its forms are these shifts (spec/30 R426-R428).
-/
namespace Sys2Proof.Machine

/-! ### Shifts by an amount other than 0 (spec/30 R428) -/

variable (m : Word) {n : Nat}

theorem lslBy_value (n : Nat) : (lslBy m n).value.toNat = m.toNat * 2 ^ n % 4294967296 := by
  unfold lslBy
  split
  · rw [BitVec.toNat_shiftLeft, Nat.shiftLeft_eq]
  · have multiple : 4294967296 ∣ m.toNat * 2 ^ n := Dvd.dvd.mul_left (pow_dvd_pow 2 (show 32 ≤ n by omega)) m.toNat
    rw [Nat.mod_eq_zero_of_dvd multiple]
    split <;> rfl

theorem lslBy_carry (h : n ≤ 32) : (lslBy m n).carry = m.getLsbD (32 - n) := by
  unfold lslBy
  split
  · rfl
  · obtain rfl : n = 32 := by omega
    rfl

theorem lslBy_carry_beyond (h : 32 < n) : (lslBy m n).carry = false := by
  rw [lslBy, if_neg (by omega), if_neg (by omega)]

theorem toNat_div_eq_zero (h : 32 ≤ n) : m.toNat / 2 ^ n = 0 :=
  Nat.div_eq_of_lt (m.isLt.trans_le (Nat.pow_le_pow_right (by decide) h))

theorem lsrBy_value (n : Nat) : (lsrBy m n).value.toNat = m.toNat / 2 ^ n := by
  unfold lsrBy
  split
  · rw [BitVec.toNat_ushiftRight, Nat.shiftRight_eq_div_pow]
  · rw [toNat_div_eq_zero m (by omega)]
    split <;> rfl

theorem lsrBy_carry (h : n ≤ 32) : (lsrBy m n).carry = m.getLsbD (n - 1) := by
  unfold lsrBy
  split
  · rfl
  · obtain rfl : n = 32 := by omega
    rfl

theorem lsrBy_carry_beyond (h : 32 < n) : (lsrBy m n).carry = false := by
  rw [lsrBy, if_neg (by omega), if_neg (by omega)]

/-- Beyond the width an arithmetic shift leaves copies of the sign. -/
theorem toInt_div_beyond (h : 32 ≤ n) : m.toInt / 2 ^ n = if m.getLsbD 31 then -1 else 0 := by
  have wide : (2 : Int) ^ 32 ≤ 2 ^ n := pow_le_pow_right₀ (by decide) h
  have low := BitVec.le_toInt m
  have high := BitVec.toInt_lt (x := m)
  have sign : m.getLsbD 31 = true ↔ m.toInt < 0 := by
    rw [← BitVec.msb_eq_getLsbD_last, BitVec.msb_eq_toInt, decide_eq_true_iff]
  by_cases negative : m.toInt < 0
  · rw [if_pos (sign.mpr negative)]
    exact Int.ediv_eq_neg_one_of_neg_of_le negative (by omega)
  · rw [if_neg fun h => negative (sign.mp h)]
    exact Int.ediv_eq_zero_of_lt (by omega) (by omega)

theorem asrBy_value (n : Nat) : (asrBy m n).value.toInt = m.toInt / 2 ^ n := by
  unfold asrBy
  split
  · rw [BitVec.toInt_sshiftRight, Int.shiftRight_eq_div_pow]
    norm_cast
  · rw [toInt_div_beyond m (by omega)]
    split <;> rfl

theorem asrBy_carry (h : n < 32) : (asrBy m n).carry = m.getLsbD (n - 1) := by
  rw [asrBy, if_pos h]

theorem asrBy_carry_beyond (h : 32 ≤ n) : (asrBy m n).carry = m.getLsbD 31 := by
  rw [asrBy, if_neg (by omega)]

/-- A rotation takes bits in a circle. -/
theorem rotateRight_getLsbD (n : Nat) {k : Nat} (h : k < 32) : (m.rotateRight n).getLsbD k = m.getLsbD ((k + n) % 32) := by
  rw [BitVec.getLsbD_rotateRight]
  by_cases inside : k < 32 - n % 32
  · rw [decide_eq_true inside, cond_true, show n % 32 + k = (k + n) % 32 by omega]
  · rw [decide_eq_false inside, cond_false, decide_eq_true h, Bool.true_and, show k - (32 - n % 32) = (k + n) % 32 by omega]

theorem rorBy_value (n : Nat) {k : Nat} (h : k < 32) : (rorBy m n).value.getLsbD k = m.getLsbD ((k + n) % 32) := by
  unfold rorBy
  split
  · rw [show (k + n) % 32 = k by omega]
  · rw [rotateRight_getLsbD m _ h, Nat.add_mod_mod]

theorem rorBy_carry (n : Nat) : (rorBy m n).carry = m.getLsbD ((n + 31) % 32) := by
  unfold rorBy
  split
  · rw [show (n + 31) % 32 = 31 by omega]
  · rw [show (n + 31) % 32 = n % 32 - 1 by omega]

/-- RRX as a shift and the carry above it (spec/30 R427). -/
theorem rrx_eq (c : Bool) : BitVec.ofBool c ++ m.extractLsb' 1 31 = (m >>> 1) ||| (if c then 0x80000000#32 else 0#32) := by
  apply BitVec.eq_of_getLsbD_eq
  intro k hk
  refine (BitVec.getLsbD_append (x := BitVec.ofBool c) (y := m.extractLsb' 1 31)).trans ?_
  have top : (if c then 0x80000000#32 else 0#32).getLsbD k = (c && decide (k = 31)) := by
    cases c <;> interval_cases k <;> rfl
  rw [BitVec.getLsbD_or, top, BitVec.getLsbD_ushiftRight]
  by_cases low : k < 31
  · simp [low, show k ≠ 31 by omega]
  · obtain rfl : k = 31 := by omega
    cases c <;> simp

/-! ### The forms of the operand -/

variable (s : State)

theorem immediate_bits (rot : BitVec 4) (imm8 : BitVec 8) {k : Nat} (h : k < 32) :
    (shifterOperand (.imm rot imm8) s).value.getLsbD k = imm8.getLsbD ((k + 2 * rot.toNat) % 32) := by
  refine (rotateRight_getLsbD _ _ h).trans ?_
  simp [Nat.mod_lt]

theorem shifterOperand_imm_ne_zero {a : BitVec 5} (h : a ≠ 0#5) (sh : Shift) (rm : Reg) :
    shifterOperand (.shiftImm a sh rm) s = shiftBy sh (s.reg rm) a.toNat := if_neg h

theorem lowByte_toNat (w : Word) : (w.extractLsb' 0 8).toNat = w.toNat % 256 := by
  simp

theorem shifterOperand_reg_zero {rs : Reg} (h : (s.reg rs).toNat % 256 = 0) (sh : Shift) (rm : Reg) :
    shifterOperand (.shiftReg rs sh rm) s = ⟨s.reg rm, s.flagC⟩ :=
  if_pos (BitVec.eq_of_toNat_eq ((lowByte_toNat _).trans h))

theorem shifterOperand_reg_ne_zero {rs : Reg} (h : (s.reg rs).toNat % 256 ≠ 0) (sh : Shift) (rm : Reg) :
    shifterOperand (.shiftReg rs sh rm) s = shiftBy sh (s.reg rm) ((s.reg rs).toNat % 256) := by
  rw [← lowByte_toNat] at h ⊢
  exact if_neg fun e => h (by rw [e]; rfl)

/-- The immediate form: the 8 bits rotated, and bit 31 of the result or, without a rotation, C (spec/30 R426). -/
theorem shifterOperand_immediate (rot : BitVec 4) (imm8 : BitVec 8) :
    let r := shifterOperand (.imm rot imm8) s
    (∀ k, k < 32 → r.value.getLsbD k = imm8.getLsbD ((k + 2 * rot.toNat) % 32)) ∧
      r.carry = if rot = 0#4 then s.flagC else r.value.getLsbD 31 :=
  ⟨fun _ h => immediate_bits s rot imm8 h, rfl⟩

/-- The special cases of an immediate amount of 0: LSL #0, LSR #32, ASR #32 and RRX (spec/30 R427). -/
theorem shifterOperand_amount_zero (rm : Reg) :
    shifterOperand (.shiftImm 0#5 .lsl rm) s = ⟨s.reg rm, s.flagC⟩ ∧
    shifterOperand (.shiftImm 0#5 .lsr rm) s = ⟨0#32, (s.reg rm).getLsbD 31⟩ ∧
    shifterOperand (.shiftImm 0#5 .asr rm) s =
      ⟨if (s.reg rm).getLsbD 31 then 0xFFFFFFFF#32 else 0#32, (s.reg rm).getLsbD 31⟩ ∧
    shifterOperand (.shiftImm 0#5 .ror rm) s =
      ⟨(s.reg rm >>> 1) ||| (if s.flagC then 0x80000000#32 else 0#32), (s.reg rm).getLsbD 0⟩ :=
  ⟨rfl, rfl, rfl, congrArg (Shifted.mk · _) (rrx_eq (s.reg rm) s.flagC)⟩

/-- Settles O11: every form is a shift by an amount other than 0, or a special case of 0. -/
theorem shifterOperands : Obligations.ShifterOperands := by
  intro s
  refine ⟨shifterOperand_immediate s, fun a rm => ⟨?_, fun ha => ?_⟩,
    fun rs rm => ⟨fun hn => ?_, fun hn => ?_, ?_, ?_, ?_, ?_, ?_⟩⟩
  · rintro rfl
    exact shifterOperand_amount_zero s rm
  · have small : a.toNat < 32 := a.isLt
    have positive : a.toNat ≠ 0 := fun h => ha (BitVec.eq_of_toNat_eq h)
    simp only [shifterOperand_imm_ne_zero s ha]
    refine ⟨lslBy_value _ _, lslBy_carry _ small.le, lsrBy_value _ _, lsrBy_carry _ small.le, asrBy_value _ _,
      asrBy_carry _ small, fun k hk => rorBy_value _ _ hk, ?_⟩
    rw [show a.toNat - 1 = (a.toNat + 31) % 32 by omega]
    exact rorBy_carry _ _
  · simp only [shifterOperand_reg_zero s hn, and_self]
  · simp only [shifterOperand_reg_ne_zero s hn]
    exact ⟨lslBy_value _ _, lsrBy_value _ _, asrBy_value _ _, fun k hk => rorBy_value _ _ hk⟩
  · intro hn h
    simp only [shifterOperand_reg_ne_zero s hn]
    exact ⟨lslBy_carry _ h, lsrBy_carry _ h⟩
  · intro h
    have hn : (s.reg rs).toNat % 256 ≠ 0 := by omega
    simp only [shifterOperand_reg_ne_zero s hn]
    exact ⟨lslBy_carry_beyond _ h, lsrBy_carry_beyond _ h⟩
  · intro hn h
    simp only [shifterOperand_reg_ne_zero s hn]
    exact asrBy_carry _ h
  · intro h
    have hn : (s.reg rs).toNat % 256 ≠ 0 := by omega
    simp only [shifterOperand_reg_ne_zero s hn]
    exact asrBy_carry_beyond _ h
  · intro hn
    simp only [shifterOperand_reg_ne_zero s hn]
    exact rorBy_carry _ _

end Sys2Proof.Machine
end

section
/-!
MSR to the CPSR (O36): what it may write, bit by bit, and what it refuses (spec/45 R671-R673).
-/
namespace Sys2Proof.Machine

variable {s : State} {mask : BitVec 4} {v : Word}

/-- The bits of the CPSR that an MSR may write: the flags and Q, and with `allowed` I, F and the mode (spec/45 R673). -/
def msrMask (allowed : Bool) : Word := if allowed then 0xF80000DF#32 else 0xF8000000#32

/-- What an MSR leaves in the CPSR (spec/45 R673). -/
def msrResult (allowed : Bool) (mask : BitVec 4) (v old : Word) : Word := maskedWrite old v (fieldMask mask &&& msrMask allowed)

/-- The bits that the bytes of a field mask select of these (spec/45 R673). -/
def msrSelects (allowed : Bool) (mask : BitVec 4) (k : Nat) : Bool :=
  mask.getLsbD (k / 8) && (decide (27 ≤ k) || (allowed && decide (k < 8) && k != 5))

theorem msrMask_getLsbD (allowed : Bool) {k : Nat} (h : k < 32) :
    (msrMask allowed).getLsbD k = (decide (27 ≤ k) || (allowed && decide (k < 8) && k != 5)) := by
  cases allowed <;> interval_cases k <;> rfl

theorem msrResult_getLsbD (allowed : Bool) (old : Word) {k : Nat} (h : k < 32) :
    (msrResult allowed mask v old).getLsbD k = if msrSelects allowed mask k then v.getLsbD k else old.getLsbD k := by
  rw [msrResult, maskedWrite_getLsbD, BitVec.getLsbD_and, fieldMask_getLsbD mask h, msrMask_getLsbD allowed h]
  rfl

/-- The mode field takes the operand's bits where byte 0 is selected (spec/45 R673). -/
theorem msrResult_mode (allowed : Bool) (s : State) :
    (msrResult allowed mask v s.cpsr).extractLsb' 0 5 = if allowed && mask.getLsbD 0 then v.extractLsb' 0 5 else s.mode := by
  apply BitVec.eq_of_getLsbD_eq
  intro k hk
  have selects : msrSelects allowed mask k = (allowed && mask.getLsbD 0) := by
    simp [msrSelects, show k / 8 = 0 by omega, show ¬27 ≤ k by omega, show k < 8 by omega, show (k != 5) = true by simp; omega,
      Bool.and_comm]
  have bit := msrResult_getLsbD (mask := mask) (v := v) allowed s.cpsr (show k < 32 by omega)
  rw [selects] at bit
  cases h : allowed && mask.getLsbD 0 <;> simp_all [State.mode]

/-- T is kept (spec/45 R673; log 24). -/
theorem msrResult_thumb (allowed : Bool) (old : Word) : (msrResult allowed mask v old).getLsbD 5 = old.getLsbD 5 := by
  rw [msrResult_getLsbD allowed old (by decide)]
  simp [msrSelects]

/-- An MSR that is ready is `msrWrite` of its operand, in both forms. -/
theorem exec_msrWrite {c : Cond} {r : Bool} {o z rot : BitVec 4} {rm : Reg} {imm8 : BitVec 8} {i : Instr}
    (hi : (i = .msrReg c r mask o z rm ∧ v = s.reg rm) ∨
      (i = .msrImm c r mask o rot imm8 ∧ v = (shifterOperand (.imm rot imm8) s).value)) (hr : s.ready i = true) :
    exec i s = msrWrite r mask v s := by
  obtain ⟨hc, hz, ho, -⟩ := ready_iff.mp hr
  obtain ⟨rfl, rfl⟩ | ⟨rfl, rfl⟩ := hi
  · exact (whenCond_pass hc).trans ((require_pass hz).trans (require_pass ho))
  · exact (whenCond_pass hc).trans (require_pass hz)

/-- The operand's bit for T is selected with byte 0. -/
theorem selected_thumb (mask : BitVec 4) (v : Word) :
    (v &&& fieldMask mask).getLsbD 5 = true ↔ mask.getLsbD 0 = true ∧ v.getLsbD 5 = true := by
  rw [BitVec.getLsbD_and, fieldMask_getLsbD mask (by decide), Bool.and_eq_true, and_comm]

/-- A write of the CPSR that keeps T completes the instruction. -/
theorem advance_writeCpsr {w : Word} (keepsT : w.getLsbD 5 = s.cpsr.getLsbD 5) (h : s.canAdvance = true) :
    advance { s with cpsr := w } = .next ({ s with cpsr := w } : State).moveOn :=
  advance_of_canAdvance ((State.canAdvance_congr (s := s) (t := { s with cpsr := w }) rfl keepsT rfl).trans h)

/-- In a privileged mode and in debug state the control bits are written, unless T or an illegal mode is (spec/45 R673). -/
theorem msrCpsr_allowed (ha : (s.priv || s.halted) = true) :
    msrCpsr mask v s =
      if mask.getLsbD 0 = true ∧ v.getLsbD 5 = true then .refused .msrSetsT
      else if legalMode (if mask.getLsbD 0 then v.extractLsb' 0 5 else s.mode) = true then
        advance { s with cpsr := msrResult true mask v s.cpsr }
      else .refused .illegalMode := by
  have mode := msrResult_mode (mask := mask) (v := v) true s
  rw [Bool.true_and] at mode
  rw [msrCpsr, if_pos ha, ← mode]
  simp only [selected_thumb]
  rfl

/-- In User mode the flags alone are written (spec/45 R673). -/
theorem msrCpsr_user (hu : (s.priv || s.halted) = false) :
    msrCpsr mask v s = advance { s with cpsr := msrResult false mask v s.cpsr } := by
  rw [msrCpsr, if_neg (by simp [hu])]
  rfl

/-- An MSR that writes leaves everything but the selected bits of the CPSR (spec/45 R673). -/
theorem msrCpsr_written (allowed : Bool) (h : msrCpsr mask v s = advance { s with cpsr := msrResult allowed mask v s.cpsr })
    (hn : s.canAdvance = true) :
    ∃ t : State, msrCpsr mask v s = .next t.moveOn ∧ t = { s with cpsr := t.cpsr } ∧
      ∀ k, k < 32 → t.cpsr.getLsbD k = if msrSelects allowed mask k then v.getLsbD k else s.cpsr.getLsbD k :=
  ⟨_, h.trans (advance_writeCpsr (msrResult_thumb allowed s.cpsr) hn), rfl, fun _ hk => msrResult_getLsbD allowed s.cpsr hk⟩

/-- Settles O36: both forms are `msrCpsr`, which refuses, or writes `msrResult`. -/
theorem statusWrites : Obligations.StatusWrites := by
  intro c mask o z rot rm imm8 s i v hi hr
  obtain ⟨-, -, -, hn⟩ := ready_iff.mp hr
  rw [exec_msrWrite hi hr, msrWrite, if_neg Bool.false_ne_true]
  cases ha : s.priv || s.halted
  · exact ⟨nofun, fun _ _ => msrCpsr_written false (msrCpsr_user ha) hn, nofun⟩
  · have run := msrCpsr_allowed (mask := mask) (v := v) ha
    refine ⟨fun _ selected sets => run.trans (if_pos ⟨selected, sets⟩), fun keepsT legal => ?_,
      fun _ keepsT illegal => ?_⟩
    · exact msrCpsr_written true (run.trans ((if_neg fun h => keepsT ⟨rfl, h⟩).trans (if_pos legal))) hn
    · exact run.trans ((if_neg keepsT).trans (if_neg (by simpa using illegal)))

end Sys2Proof.Machine
end

section
/-!
ARM data processing: logical and arithmetic results, comparisons (O12, O13, O14), CLZ and the saturating operations (O17).
-/
namespace Sys2Proof.Machine

variable {s : State} {c : Cond} {sf : Bool} {rn rd rm : Reg} {z : BitVec 4} {op : Op2}

/-! ### The templates of an instruction that is ready (spec/40 R500) -/

/-- A two-operand instruction with a destination other than r15 writes the ALU's result and flags. -/
theorem dataOp_write {f : AluFn} {a : Alu} (hc : s.passes c = true) (ho : op2Allowed op rn rd = true)
    (hd : rd ≠ regPc) (hn : s.canAdvance = true) (ha : aluResult f (s.reg rn) op s = a) :
    dataOp c sf rn rd op f s = .next (s.write sf rd a.result a.c a.v).moveOn := by
  rw [dataOp_eq hc ho, ha, writeResult_write sf rd a hd hn]

/-- A comparison writes the ALU's flags. -/
theorem compareOp_write {f : AluFn} {a : Alu} (hc : s.passes c = true) (hz : (z == 0#4) = true)
    (ho : op2Allowed op rn 0#4 = true) (hn : s.canAdvance = true) (ha : aluResult f (s.reg rn) op s = a) :
    compareOp c rn z op f s = .next (s.setNZCV a.result.msb (a.result == 0#32) a.c a.v).moveOn := by
  rw [compareOp, whenCond_pass hc, require_pass hz, require_pass ho, ha, State.setAlu, BitVec.msb_eq_getLsbD_last]
  exact advance_of_canAdvance ((s.canAdvance_setNZCV ..).trans hn)

/-! ### Logical operations: C is the shifter's carry-out, V is kept -/

theorem dataOp_logical {g : Word → Word → Word} (hc : s.passes c = true) (ho : op2Allowed op rn rd = true)
    (hd : rd ≠ regPc) (hn : s.canAdvance = true) :
    dataOp c sf rn rd op (logicalAlu g) s = .next (s.write sf rd (g (s.reg rn) (shifterOperand op s).value)
      (shifterOperand op s).carry s.flagV).moveOn :=
  dataOp_write (a := ⟨_, _, _⟩) hc ho hd hn rfl

theorem moveOp_write {g : Word → Word} (hc : s.passes c = true) (hz : (z == 0#4) = true)
    (ho : op2Allowed op 0#4 rd = true) (hd : rd ≠ regPc) (hn : s.canAdvance = true) :
    moveOp c sf z rd op g s =
      .next (s.write sf rd (g (shifterOperand op s).value) (shifterOperand op s).carry s.flagV).moveOn :=
  (moveOp_eq hc hz ho).trans (writeResult_write sf rd _ hd hn)

theorem compareOp_logical {g : Word → Word → Word} (hc : s.passes c = true) (hz : (z == 0#4) = true)
    (ho : op2Allowed op rn 0#4 = true) (hn : s.canAdvance = true) :
    compareOp c rn z op (logicalAlu g) s =
      .next (s.setNZCV (g (s.reg rn) (shifterOperand op s).value).msb (g (s.reg rn) (shifterOperand op s).value == 0#32)
        (shifterOperand op s).carry s.flagV).moveOn :=
  compareOp_write (a := ⟨_, _, _⟩) hc hz ho hn rfl

/-- Settles O12: each instruction is `dataOp` or `moveOp` of a logical operation. -/
theorem logicalResults : Obligations.LogicalResults := by
  intro c f rn rd z op s hd
  refine ⟨fun hr => ?_, fun hr => ?_, fun hr => ?_, fun hr => ?_, fun hr => ?_, fun hr => ?_⟩ <;>
    obtain ⟨hc, hz, ho, hn⟩ := ready_iff.mp hr
  case refine_5 | refine_6 => exact moveOp_write hc hz ho hd hn
  all_goals exact dataOp_logical hc ho hd hn

/-! ### Exact arithmetic (spec/40 R501) -/

/-- What the ALU gives for an exact result: it is narrowed, and V says that narrowing changed it. -/
def Alu.ofExact (exact : Int) (c : Bool) : Alu where
  result := BitVec.ofInt 32 exact
  c := c
  v := (BitVec.ofInt 32 exact).toInt != exact

theorem addAlu_ofExact (a b : Word) :
    addAlu a b false = .ofExact (a.toInt + b.toInt) (decide (4294967296 ≤ a.toNat + b.toNat)) := by
  simpa [Alu.ofExact] using addAlu_exact a b false

theorem addAlu_carry_ofExact (a b : Word) (k : Bool) :
    addAlu a b k = .ofExact (a.toInt + b.toInt + (if k then 1 else 0 : Nat))
      (decide (4294967296 ≤ a.toNat + b.toNat + if k then 1 else 0)) := by
  cases k <;> exact addAlu_exact a b _

theorem subAlu_ofExact (a b : Word) :
    subAlu a b false = .ofExact (a.toInt - b.toInt) (decide (b.toNat ≤ a.toNat)) := by
  simpa [Alu.ofExact] using subAlu_exact a b false

/-- The borrow of SBC and RSC is NOT the C flag. -/
theorem subAlu_borrow_ofExact (a b : Word) (k : Bool) :
    subAlu a b (!k) = .ofExact (a.toInt - b.toInt - (1 - (if k then 1 else 0 : Nat)))
      (decide (b.toNat + 1 ≤ a.toNat + if k then 1 else 0)) := by
  cases k
  · exact subAlu_exact a b true
  · simpa [Alu.ofExact] using subAlu_exact a b false

theorem dataOp_exact {f : AluFn} {x : Int} {k : Bool} (hc : s.passes c = true) (ho : op2Allowed op rn rd = true)
    (hd : rd ≠ regPc) (hn : s.canAdvance = true) (ha : aluResult f (s.reg rn) op s = .ofExact x k) :
    dataOp c sf rn rd op f s = .next (s.writeExact sf rd x k).moveOn :=
  dataOp_write (a := .ofExact x k) hc ho hd hn ha

theorem compareOp_exact {f : AluFn} {x : Int} {k : Bool} (hc : s.passes c = true) (hz : (z == 0#4) = true)
    (ho : op2Allowed op rn 0#4 = true) (hn : s.canAdvance = true) (ha : aluResult f (s.reg rn) op s = .ofExact x k) :
    compareOp c rn z op f s = .next (s.compareExact x k).moveOn :=
  compareOp_write (a := .ofExact x k) hc hz ho hn ha

/-- Settles O13: each instruction is `dataOp` of an addition or a subtraction, which is exact arithmetic narrowed. -/
theorem arithmeticResults : Obligations.ArithmeticResults := by
  intro c f rn rd op s hd
  refine ⟨fun hr => ?_, fun hr => ?_, fun hr => ?_, fun hr => ?_, fun hr => ?_, fun hr => ?_⟩ <;>
    obtain ⟨hc, -, ho, hn⟩ := ready_iff.mp hr
  · exact dataOp_exact hc ho hd hn (addAlu_ofExact _ _)
  · exact dataOp_exact hc ho hd hn (addAlu_carry_ofExact _ _ _)
  · exact dataOp_exact hc ho hd hn (subAlu_ofExact _ _)
  · exact dataOp_exact hc ho hd hn (subAlu_borrow_ofExact _ _ _)
  · exact dataOp_exact hc ho hd hn (subAlu_ofExact _ _)
  · exact dataOp_exact hc ho hd hn (subAlu_borrow_ofExact _ _ _)

/-! ### Comparisons -/

/-- An exclusive or is zero exactly on equal words. -/
theorem xor_beq_zero (a b : Word) : (a ^^^ b == 0#32) = (a == b) := by
  rw [Bool.eq_iff_iff, beq_iff_eq, beq_iff_eq, BitVec.xor_eq_zero_iff]

/-- Settles O14: each instruction is `compareOp` of the operation that AND, EOR, SUB or ADD has. -/
theorem comparisons : Obligations.Comparisons := by
  intro c rn z op s
  refine ⟨fun hr => ?_, fun hr => ?_, fun hr => ?_, fun hr => ?_⟩ <;> obtain ⟨hc, hz, ho, hn⟩ := ready_iff.mp hr
  · exact compareOp_logical hc hz ho hn
  · rw [← xor_beq_zero]
    exact compareOp_logical hc hz ho hn
  · exact compareOp_exact hc hz ho hn (subAlu_ofExact _ _)
  · exact compareOp_exact hc hz ho hn (addAlu_ofExact _ _)

/-! ### Leading zeros (spec/40 R520) -/

/-- The leading zeros of a value that `n` bits hold: those above its highest bit. -/
theorem leadingZeros_of_lt (v : Word) (n : Nat) (h : v.toNat < 2 ^ n) :
    leadingZeros v n = if v.toNat = 0 then n else n - 1 - v.toNat.log2 := by
  induction n with
  | zero => simp [leadingZeros]
  | succ n ih =>
    by_cases low : v.toNat < 2 ^ n
    · have bitClear : v.getLsbD n = false := Nat.testBit_lt_two_pow low
      rw [leadingZeros, bitClear, if_neg Bool.false_ne_true, ih low]
      split
      · rfl
      · next nonzero =>
        have := (Nat.log2_lt nonzero).mpr low
        omega
    · have high : 2 ^ n ≤ v.toNat := Nat.le_of_not_lt low
      have bitSet : v.getLsbD n = true := Nat.testBit_of_two_pow_le_and_two_pow_add_one_gt high h
      have nonzero : v.toNat ≠ 0 := ((Nat.two_pow_pos n).trans_le high).ne'
      have := (Nat.le_log2 nonzero).mpr high
      rw [leadingZeros, if_pos bitSet, if_neg nonzero]
      omega

theorem leadingZeros_word (v : Word) :
    BitVec.ofNat 32 (leadingZeros v 32) = if v = 0#32 then 32#32 else BitVec.ofNat 32 (31 - v.toNat.log2) := by
  rw [leadingZeros_of_lt v 32 v.isLt, apply_ite (BitVec.ofNat 32)]
  exact if_congr (BitVec.toNat_eq (y := 0#32)).symm rfl rfl

/-! ### Saturation (spec/40 R530-R533) -/

/-- An integer clamped to the signed range. -/
def clamp32 (x : Int) : Int := max (-2147483648) (min x 2147483647)

theorem sat32_eq_clamp32 (x : Int) : sat32 x = clamp32 x := by
  unfold sat32 clamp32
  split_ifs <;> omega

/-- Clamping changes what lies outside the signed range. -/
theorem outside32_eq_clamp32 (x : Int) : outside32 x = decide (clamp32 x ≠ x) := by
  rw [outside32, clamp32, ← Bool.decide_or, decide_eq_decide]
  omega

/-- A clamped result, with `q` saying that an operand was clamped before. -/
def clamped (x : Int) (q : Bool) : Saturated := ⟨BitVec.ofInt 32 (clamp32 x), q || decide (clamp32 x ≠ x)⟩

theorem saturate_eq_clamped (x : Int) : saturate x = clamped x false := by
  rw [saturate, sat32_eq_clamp32, outside32_eq_clamp32, clamped, Bool.false_or]

theorem doubledThen_eq_clamped (f : Int → Int → Int) (m n : Int) :
    doubledThen f m n = clamped (f m (clamp32 (2 * n))) (decide (clamp32 (2 * n) ≠ 2 * n)) := by
  rw [doubledThen, saturate_eq_clamped, sat32_eq_clamp32, outside32_eq_clamp32, clamped, clamped, Bool.false_or, Bool.or_comm]

/-- A saturating operation writes its destination and Q. -/
theorem saturatingOp_clamped {f : Int → Int → Saturated} {x : Int} {q : Bool} (hc : s.passes c = true)
    (hz : (z == 0#4) = true) (ho : noPc [rn, rd, rm] = true) (hn : s.canAdvance = true)
    (hf : f (s.reg rm).toInt (s.reg rn).toInt = clamped x q) :
    saturatingOp c rn rd z rm f s =
      .next ((s.setQ (q || decide (clamp32 x ≠ x))).setReg rd (BitVec.ofInt 32 (clamp32 x))).moveOn := by
  rw [saturatingOp, whenCond_pass hc, require_pass hz, require_pass ((noPc_three rn rd rm).symm.trans ho), hf]
  exact advance_setReg ((s.canAdvance_setQ _).trans hn) rd _

/-- Settles O17: `leadingZeros` counts down from the top bit, and saturation is clamping, which QDADD and QDSUB do twice. -/
theorem clzAndSaturation : Obligations.ClzAndSaturation := by
  refine ⟨fun c o1 o2 rd rm s hr => ?_, fun c rn rd z rm s => ⟨fun hr => ?_, fun hr => ?_, fun hr => ?_, fun hr => ?_⟩⟩ <;>
    obtain ⟨hc, hz, ho, hn⟩ := ready_iff.mp hr
  · rw [← leadingZeros_word]
    exact (whenCond_pass hc).trans ((require_pass hz).trans ((require_pass ho).trans (advance_setReg hn ..)))
  · exact saturatingOp_clamped (f := fun m n => saturate (m + n)) hc hz ho hn (saturate_eq_clamped _)
  · exact saturatingOp_clamped (f := fun m n => saturate (m - n)) hc hz ho hn (saturate_eq_clamped _)
  · exact saturatingOp_clamped (f := doubledThen fun m d => m + d) hc hz ho hn (doubledThen_eq_clamped _ _ _)
  · exact saturatingOp_clamped (f := doubledThen fun m d => m - d) hc hz ho hn (doubledThen_eq_clamped _ _ _)

end Sys2Proof.Machine
end

section
/-!
The words that the rules write out (O3): each is the encoding of its instruction, which decodes back by O1's law.
-/
namespace Sys2Proof

/-- A word that an instruction is encoded as decodes to it. -/
theorem decode_of_encode {i : Instr} {w : Code} (hi : i.encodable = true) (he : encode i = w) : decode w = i :=
  he ▸ Laws.roundTrip i hi

/-- Settles O3: each word is the encoding of its instruction. -/
theorem decodesSpecWords : Obligations.DecodesSpecWords := by
  refine ⟨?_, ?_, ?_, ?_, ?_, ?_, ?_, ?_, ?_, ?_, ?_⟩ <;> exact decode_of_encode rfl rfl

end Sys2Proof
end

section
/-!
ARM multiplies: a product or a sum of exact arithmetic, narrowed to 32 or to 64 bits (O18, O19; spec/41 R550-R565).
-/
namespace Sys2Proof.Machine

variable {s : State} {c : Cond} {sf : Bool} {rd rn hi lo rs rm : Reg}

/-! ### Products of 32 bits (spec/41 R551-R553) -/

theorem setNZ_eq_setNZCV (s : State) (p : Word) : s.setNZ p = s.setNZCV p.msb (p == 0#32) s.flagC s.flagV := by
  rw [State.setNZ, BitVec.msb_eq_getLsbD_last]

/-- A product goes to its register and, with S, N and Z are the product's; C and V are kept. -/
theorem writeProduct_write (hn : s.canAdvance = true) (p : Word) :
    writeProduct sf rd p s = .next (s.write sf rd p s.flagC s.flagV).moveOn := by
  rw [writeProduct, setNZ_eq_setNZCV]
  exact advance_of_canAdvance ((s.canAdvance_write sf rd p s.flagC s.flagV).trans hn)

theorem ofNat_product (a b : Word) : BitVec.ofNat 32 (a.toNat * b.toNat) = a * b := by
  rw [BitVec.ofNat_mul, BitVec.ofNat_toNat, BitVec.ofNat_toNat, BitVec.setWidth_eq, BitVec.setWidth_eq]

theorem ofNat_productSum (a b d : Word) : BitVec.ofNat 32 (a.toNat * b.toNat + d.toNat) = a * b + d := by
  rw [BitVec.ofNat_add, ofNat_product, BitVec.ofNat_toNat, BitVec.setWidth_eq]

/-! ### Results of 64 bits (spec/41 R551, R554-R557, R562) -/

/-- The low and the high word of an integer narrowed to 64 bits are its own low word and what lies above it. -/
theorem extractLsb'_ofInt64_low (x : Int) : (BitVec.ofInt 64 x).extractLsb' 0 32 = BitVec.ofInt 32 x := by
  apply BitVec.eq_of_toNat_eq
  rw [BitVec.extractLsb'_toNat, BitVec.toNat_ofInt, BitVec.toNat_ofInt, Nat.shiftRight_zero]
  omega

theorem extractLsb'_ofInt64_high (x : Int) :
    (BitVec.ofInt 64 x).extractLsb' 32 32 = BitVec.ofInt 32 (x / 4294967296) := by
  apply BitVec.eq_of_toNat_eq
  rw [BitVec.extractLsb'_toNat, BitVec.toNat_ofInt, BitVec.toNat_ofInt, Nat.shiftRight_eq_div_pow]
  omega

/-- RdHi:RdLo as an unsigned integer. -/
def accumulated (hi lo : Reg) (s : State) : Int := (s.reg hi).toNat * 4294967296 + (s.reg lo).toNat

theorem accumulator_eq_ofInt (hi lo : Reg) (s : State) : accumulator hi lo s = BitVec.ofInt 64 (accumulated hi lo s) := by
  apply BitVec.eq_of_toNat_eq
  rw [accumulator, accumulated, BitVec.toNat_append, ← Nat.shiftLeft_add_eq_or_of_lt (s.reg lo).isLt, Nat.shiftLeft_eq,
    BitVec.toNat_ofInt]
  omega

theorem unsignedProduct_eq_ofInt (a b : Word) : unsignedProduct a b = BitVec.ofInt 64 (a.toNat * b.toNat) :=
  (BitVec.ofInt_natCast 64 (a.toNat * b.toNat)).symm

/-- Adding the accumulator adds RdHi:RdLo to the integer that is narrowed. -/
theorem add_accumulator {p : BitVec 64} {x : Int} (hp : p = BitVec.ofInt 64 x) (hi lo : Reg) (s : State) :
    p + accumulator hi lo s = BitVec.ofInt 64 (x + accumulated hi lo s) := by
  rw [hp, accumulator_eq_ofInt, BitVec.ofInt_add]

/-- An integer narrowed to 64 bits goes to RdHi:RdLo and, if `flags`, N and Z of it; C and V are kept. -/
def State.writeExact64 (s : State) (flags : Bool) (hi lo : Reg) (x : Int) : State :=
  ((if flags then s.setNZCV (BitVec.ofInt 64 x).msb (BitVec.ofInt 64 x == 0#64) s.flagC s.flagV else s).setReg lo
    (BitVec.ofInt 32 x)).setReg hi (BitVec.ofInt 32 (x / 4294967296))

theorem State.canAdvance_writeExact64 (s : State) (flags : Bool) (hi lo : Reg) (x : Int) :
    (s.writeExact64 flags hi lo x).canAdvance = s.canAdvance := by
  cases flags <;> simp [State.writeExact64]

theorem writeLong_exact {p : BitVec 64} {x : Int} (hn : s.canAdvance = true) (hp : p = BitVec.ofInt 64 x) :
    writeLong sf hi lo p s = .next (s.writeExact64 sf hi lo x).moveOn := by
  rw [hp, writeLong, State.setNZ64, ← BitVec.msb_eq_getLsbD_last, extractLsb'_ofInt64_low, extractLsb'_ofInt64_high]
  exact advance_of_canAdvance ((s.canAdvance_writeExact64 sf hi lo x).trans hn)

/-- A long multiply writes the integer that its operation narrows. -/
theorem longOp_exact {f : Word → Word → BitVec 64} {x : Int} (hc : s.passes c = true)
    (ho : (noPc [hi, lo, rs, rm] && hi != lo && hi != rm && lo != rm) = true) (hn : s.canAdvance = true)
    (hf : f (s.reg rm) (s.reg rs) = BitVec.ofInt 64 x) :
    longOp c sf hi lo rs rm f s = .next (s.writeExact64 sf hi lo x).moveOn := by
  rw [longOp, whenCond_pass hc, require_pass ho]
  exact writeLong_exact hn hf

/-- With RdHi:RdLo added, it writes the exact sum. -/
theorem longOp_accumulate {f : Word → Word → BitVec 64} {x : Int} (hc : s.passes c = true)
    (ho : (noPc [hi, lo, rs, rm] && hi != lo && hi != rm && lo != rm) = true) (hn : s.canAdvance = true)
    (hf : f (s.reg rm) (s.reg rs) = BitVec.ofInt 64 x) :
    longOp c sf hi lo rs rm (fun a b => f a b + accumulator hi lo s) s =
      .next (s.writeExact64 sf hi lo (x + accumulated hi lo s)).moveOn :=
  longOp_exact hc ho hn (add_accumulator hf hi lo s)

/-- Settles O18: MUL and MLA are `writeProduct`, the long multiplies `longOp` of an exact product, with or without RdHi:RdLo. -/
theorem multiplies : Obligations.Multiplies := by
  refine ⟨fun c f rd rn z rs rm s => ⟨fun hr => ?mul, fun hr => ?mla⟩, fun c f hi lo rs rm s =>
    ⟨fun hr => ?umull, fun hr => ?umlal, fun hr => ?smull, fun hr => ?smlal⟩⟩ <;>
    obtain ⟨hc, hz, ho, hn⟩ := ready_iff.mp hr
  case mul =>
    rw [ofNat_product]
    exact (whenCond_pass hc).trans ((require_pass hz).trans ((require_pass ho).trans (writeProduct_write hn _)))
  case mla =>
    rw [ofNat_productSum]
    exact (whenCond_pass hc).trans ((require_pass ho).trans (writeProduct_write hn _))
  case umull => exact longOp_exact hc ho hn (unsignedProduct_eq_ofInt _ _)
  case umlal => exact longOp_accumulate hc ho hn (unsignedProduct_eq_ofInt _ _)
  case smull => exact longOp_exact (f := signedProduct) hc ho hn rfl
  case smlal => exact longOp_accumulate (f := signedProduct) hc ho hn rfl

/-! ### Halfword products (spec/41 R550, R560-R565) -/

/-- The top half of a word is the bottom half of the word moved down. -/
theorem halfOf_eq (v : Word) (top : Bool) :
    halfOf v top = ((if top then v >>> 16 else v).extractLsb' 0 16).toInt := by
  cases top <;> rfl

/-- A sum goes to its register, and Q is set when narrowing changed it. -/
theorem accumulateQ_exact (hn : s.canAdvance = true) (product : Int) :
    accumulateQ rd product rn s =
      .next ((s.setQ (decide ((BitVec.ofInt 32 (product + (s.reg rn).toInt)).toInt ≠ product + (s.reg rn).toInt))).setReg rd
        (BitVec.ofInt 32 (product + (s.reg rn).toInt))).moveOn := by
  rw [accumulateQ, ← narrowed_iff, decide_not, ← beq_eq_decide]
  exact advance_setReg ((s.canAdvance_setQ _).trans hn) rd _

/-- Settles O19: SMUL and SMULW write their product, SMLA and SMLAW are `accumulateQ` of it, SMLAL adds it to RdHi:RdLo. -/
theorem halfwordMultiplies : Obligations.HalfwordMultiplies := by
  intro c rd rn hi lo rs rm y x z s
  simp only [← halfOf_eq]
  refine ⟨fun hr => ?smulxy, fun hr => ?smlaxy, fun hr => ?smulwy, fun hr => ?smlawy, fun hr => ?smlalxy⟩ <;>
    obtain ⟨hc, hz, ho, hn⟩ := ready_iff.mp hr
  case smulxy | smulwy =>
    exact (whenCond_pass hc).trans ((require_pass hz).trans ((require_pass ho).trans (advance_setReg hn ..)))
  case smlaxy | smlawy => exact (whenCond_pass hc).trans ((require_pass ho).trans (accumulateQ_exact hn _))
  case smlalxy =>
    rw [Int.add_comm]
    exact (whenCond_pass hc).trans ((require_pass ho).trans (writeLong_exact (sf := false) hn (add_accumulator rfl hi lo s)))

end Sys2Proof.Machine
end

section
/-!
Relative branches and calls, and the two halves of a Thumb BL or BLX (O21; spec/42 R580, R581, R583; spec/48 R820, R821, R824).
-/
namespace Sys2Proof.Machine

/-! ### Relative targets (spec/42 R580, U1) -/

/-- A relative target is the exact sum where that is an address. -/
theorem relative_eq (base : Word) (o : Int) :
    relative base o = if 0 ≤ (base.toNat : Int) + o ∧ (base.toNat : Int) + o ≤ 4294967295 then
      some (BitVec.ofInt 32 (base.toNat + o)) else none := by
  split_ifs with inside
  · exact (if_neg (by omega)).trans (if_neg (by omega))
  · by_cases low : (base.toNat : Int) + o < 0
    · exact if_pos low
    · exact (if_neg low).trans (if_pos (by omega))

theorem branchRelative_eq (base : Word) (o : Int) (t : State) :
    branchRelative base o t = if 0 ≤ (base.toNat : Int) + o ∧ (base.toNat : Int) + o ≤ 4294967295 then
      .next (t.branchTo (BitVec.ofInt 32 (base.toNat + o))) else .refused .pcWrap := by
  rw [branchRelative, relative_eq]
  split_ifs <;> rfl

theorem branchThumb_eq (o : Int) (s : State) :
    branchThumb o s = if 0 ≤ (s.pc.toNat : Int) + o ∧ (s.pc.toNat : Int) + o ≤ 4294967295 then
      .next (s.branchTo (s.alignPc (BitVec.ofInt 32 (s.pc.toNat + o)))) else .refused .pcWrap := by
  rw [branchThumb, relative_eq]
  split_ifs <;> rfl

/-- The halfword bit H of BLX(1) as a number of bytes (spec/42 R583). -/
theorem halfwordBit_eq (h : Bool) : (2 * h.toNat : Int) = if h then 2 else 0 := by cases h <;> rfl

/-! ### The two halves of a Thumb BL or BLX (spec/48 R824) -/

/-- What the first half adds to the pc: a signed number of pages of 4096 bytes. -/
theorem prefixOffset_eq (imm : BitVec 11) :
    (imm.signExtend 32 <<< 12 : Word) = BitVec.ofInt 32 (4096 * imm.toInt) := by
  rw [BitVec.signExtend, ← BitVec.mul_twoPow_eq_shiftLeft, Int.mul_comm, BitVec.ofInt_mul]
  rfl

/-- What the second half of a BL adds: a number of halfwords. -/
theorem scaledHalfword_eq {n : Nat} (imm : BitVec n) :
    (imm.zeroExtend 32 <<< 1 : Word) = BitVec.ofNat 32 (2 * imm.toNat) := by
  rw [← BitVec.mul_twoPow_eq_shiftLeft, Nat.mul_comm, BitVec.ofNat_mul, BitVec.ofNat_toNat]
  rfl

/-- Settles O21: the relative branches are `branchRelative` and `branchThumb`, the first half of a call is a
register write, and the second goes to r14 plus its offset. -/
theorem branchesAndCalls : Obligations.BranchesAndCalls := by
  refine ⟨fun c imm imm8 imm11 h s => ⟨fun hc => ?b, fun hc => ?bl, ?blx, fun hc => ?tBcond, ?tB⟩,
    fun imm imm10 s => ⟨fun hn => ?blPrefix, ?blSuffix, ?blxSuffix⟩⟩
  case b | bl => exact (whenCond_pass hc).trans (branchRelative_eq ..)
  case blx =>
    rw [← halfwordBit_eq]
    exact branchRelative_eq ..
  case tBcond => exact (whenCond_pass hc).trans (branchThumb_eq ..)
  case tB => exact branchThumb_eq ..
  case blPrefix =>
    rw [← prefixOffset_eq]
    exact advance_setReg hn ..
  case blSuffix =>
    rw [← scaledHalfword_eq imm]
    rfl
  case blxSuffix =>
    rw [← scaledWord_eq imm10 (by decide)]
    rfl

end Sys2Proof.Machine
end

section
/-!
Thumb data processing: additions, subtractions and comparisons (O50), logic, multiplication and shifts (O51; spec/47 R740-R774).
-/
namespace Sys2Proof.Machine

variable {s : State} {rd rm : LoReg}

/-! ### The templates of an instruction that is completed (spec/47 R774) -/

theorem lo_ne_pc : ∀ r : LoReg, lo r ≠ regPc := by decide

/-- An ALU result goes to Rd and to all four flags. -/
theorem thumbAlu_write (hn : s.canAdvance = true) (a : Alu) :
    thumbAlu rd a s = .next (s.write true (lo rd) a.result a.c a.v).moveOn :=
  (if_neg (lo_ne_pc rd)).symm.trans (writeResult_write true (lo rd) a (lo_ne_pc rd) hn)

/-- A logical result is an ALU result that keeps C and V. -/
theorem thumbLogic_write (hn : s.canAdvance = true) (v : Word) :
    thumbLogic rd v s = .next (s.write true (lo rd) v s.flagC s.flagV).moveOn :=
  thumbAlu_write hn ⟨v, s.flagC, s.flagV⟩

/-- A comparison writes the four flags. -/
theorem advance_setAlu (hn : s.canAdvance = true) (a : Alu) :
    advance (s.setAlu a) = .next (s.setNZCV a.result.msb (a.result == 0#32) a.c a.v).moveOn := by
  rw [State.setAlu, BitVec.msb_eq_getLsbD_last]
  exact advance_of_canAdvance ((s.canAdvance_setNZCV ..).trans hn)

/-! ### Exact arithmetic (spec/40 R501) -/

section

variable {a y : Word} {b : Nat}

/-- A sum, its second operand given by its value. -/
theorem thumbAdd_exact (hn : s.canAdvance = true) {k : Bool} {c : Nat} (hb : y.toNat = b) (hk : k.toNat = c) :
    thumbAlu rd (addAlu a y k) s = .next (s.writeExact true (lo rd) (a.toInt + (BitVec.ofNat 32 b).toInt + c)
      (decide (4294967296 ≤ a.toNat + b + c))).moveOn := by
  subst hb hk
  rw [BitVec.ofNat_toNat, BitVec.setWidth_eq, addAlu_exact]
  exact thumbAlu_write hn _

theorem thumbSub_exact (hn : s.canAdvance = true) {k : Bool} {c : Nat} (hb : y.toNat = b) (hk : k.toNat = c) :
    thumbAlu rd (subAlu a y k) s = .next (s.writeExact true (lo rd) (a.toInt - (BitVec.ofNat 32 b).toInt - c)
      (decide (b + c ≤ a.toNat))).moveOn := by
  subst hb hk
  rw [BitVec.ofNat_toNat, BitVec.setWidth_eq, subAlu_exact]
  exact thumbAlu_write hn _

theorem thumbCompare_exact (hn : s.canAdvance = true) (hb : y.toNat = b) :
    advance (s.setAlu (subAlu a y false)) =
      .next (s.compareExact (a.toInt - (BitVec.ofNat 32 b).toInt) (decide (b ≤ a.toNat))).moveOn := by
  subst hb
  rw [BitVec.ofNat_toNat, BitVec.setWidth_eq, subAlu_ofExact]
  exact advance_setAlu hn _

end

/-- An immediate that a Thumb instruction extends keeps its value. -/
theorem toNat_extended {n : Nat} (h : n ≤ 32) (i : BitVec n) : (i.zeroExtend 32 : Word).toNat = i.toNat :=
  BitVec.toNat_setWidth_of_le h

theorem toNat_carry (k : Bool) : k.toNat = if k then 1 else 0 := by cases k <;> rfl

theorem toNat_borrow (k : Bool) : (!k).toNat = 1 - if k then 1 else 0 := by cases k <;> rfl

/-- Settles O50: each instruction is an addition or a subtraction of the ALU, which is exact arithmetic narrowed. -/
theorem thumbArithmetic : Obligations.ThumbArithmetic := by
  intro rd rn rm hm hn i3 i8 s next n m d cy plus minus compare
  refine ⟨?addReg, ?addImm3, ?addImm8, ?adc, ?subReg, ?subImm3, ?subImm8, ?sbc, ?neg, ?cmpImm, ?cmpReg, fun hr => ?cmpHi, ?cmn⟩
  case addReg => exact thumbAdd_exact next rfl rfl
  case addImm3 | addImm8 => exact thumbAdd_exact next (toNat_extended (by decide) _) rfl
  case adc => exact thumbAdd_exact next rfl (toNat_carry _)
  case subReg | neg => exact thumbSub_exact next rfl rfl
  case subImm3 | subImm8 => exact thumbSub_exact next (toNat_extended (by decide) _) rfl
  case sbc => exact thumbSub_exact next rfl (toNat_borrow _)
  case cmpImm => exact thumbCompare_exact next (toNat_extended (by decide) _)
  case cmpReg => exact thumbCompare_exact next rfl
  case cmpHi => exact (require_pass (allowed_of_runs hr)).trans (thumbCompare_exact next rfl)
  case cmn => exact (congrArg (fun a => advance (s.setAlu a)) (addAlu_ofExact n m)).trans (advance_setAlu next _)

/-- Settles O51: a logical result keeps C and V, a shift takes C from the shifter operand of the same form (spec/30 R427, R428). -/
theorem thumbLogicAndShifts : Obligations.ThumbLogicAndShifts := by
  intro rd rm i5 i8 s next m d put shifted
  have product : m * d = BitVec.ofNat 32 (d.toNat * m.toNat) := by rw [ofNat_product, BitVec.mul_comm]
  refine ⟨?mov, ?and, ?eor, ?orr, ?bic, ?mvn, ?mul, ?tst, ?lslImm, ?lsrImm, ?asrImm, ?lslReg, ?lsrReg, ?asrReg, ?ror⟩
  case mov =>
    rw [BitVec.ofNat_toNat]
    exact thumbLogic_write next _
  case and | eor | orr | bic | mvn => exact thumbLogic_write next _
  case mul => exact (thumbLogic_write next _).trans (congrArg put product)
  case tst => exact advance_setAlu next ⟨_, s.flagC, s.flagV⟩
  all_goals exact thumbAlu_write next ⟨_, _, s.flagV⟩

end Sys2Proof.Machine
end

section
/-!
Where loads and stores go, and the Thumb forms of one transfer (O22, O53; spec/43 R600, R601; spec/44 R650; spec/46 R701;
spec/48 R790-R806).
-/
namespace Sys2Proof.Machine

variable {s s1 : State}

/-! ### Addressing modes (spec/43 R600, R601; spec/44 R650; spec/46 R701) -/

/-- The base is written unless the mode is an offset or pre-indexing without W. -/
theorem writeBase_eq (p u w : Bool) (rn : Reg) (t : Word) (s : State) :
    writeBase ⟨p, u, w, rn⟩ t s = if p = true ∧ w = false then s else s.setReg rn t := by
  cases p <;> cases w <;> rfl

/-- The registers of a list are counted by its bits. -/
theorem length_listRegs (list : BitVec 16) : (listRegs list).length = (List.range 16).countP list.getLsbD := by
  have names : List.range 16 =
      ([0, 1, 2, 3, 4, 5, 6, 7, 8, 9, 10, 11, 12, 13, 14, 15] : List (BitVec 4)).map BitVec.toNat := rfl
  rw [names, List.countP_map, listRegs, ← List.countP_eq_length_filter]
  rfl

/-- Settles O22: the definitions, case by case; the bytes of a list are its bits counted, and an offset of words is scaled. -/
theorem transferAddresses : Obligations.TransferAddresses := by
  refine ⟨fun u w rn o s => ⟨rfl, rfl, fun p => rfl, fun p t => writeBase_eq p u w rn t s⟩,
    fun o o8 a sh rm z s => ⟨toNat_extended (by decide) o, rfl, toNat_extended (by decide) o8, rfl⟩, ?block, ?coprocessor⟩
  case block =>
    intro w rn list base n
    have bytes : listBytes list = n := by rw [listBytes, length_listRegs]
    rw [← bytes]
    exact ⟨rfl, rfl, rfl, rfl, fun p => ⟨rfl, rfl⟩⟩
  case coprocessor =>
    intro f s o
    have bytes : offset5 f = o := scaledWord_eq f.offset (by decide)
    rw [← bytes]
    exact ⟨rfl, rfl⟩

/-! ### Thumb loads and stores of one transfer (spec/48 R790-R806) -/

/-- A Thumb load whose access is answered: Rd gets the value, or a free one if the address is misaligned (U6). -/
theorem thumbLoad_of_read {e : Extend} {va v x : Word} {rd : LoReg} (hn : s.canAdvance = true)
    (hx : misaligned e.size va = false → extendLoaded e va v = x) (h : memRead va e.size s.priv s = .ok v s1) :
    thumbLoad e va rd s =
      if misaligned e.size va then .next (s1.useFree.setReg (lo rd) s1.freeVal).moveOn
      else .next (s1.setReg (lo rd) x).moveOn := by
  have next : s1.canAdvance = true := ((memRead_readSide _ _ _ _).of_ok h).canAdvance.trans hn
  rw [thumbLoad, Res.finish_ok h, thumbLoaded]
  split
  · exact advance_setReg (s := s1.useFree) next _ _
  next aligned =>
    rw [hx (Bool.eq_false_of_not_eq_true aligned)]
    exact advance_setReg next _ _

/-- A word at an aligned address is not rotated (spec/20 R206). -/
theorem rotateLoaded_aligned {va : Word} (h : misaligned .word va = false) (v : Word) : rotateLoaded va v = v := by
  have low : va.toNat % 4 = 0 := by simpa [misaligned_word] using h
  rw [rotateLoaded, toNat_lowBits, low]
  simp [BitVec.rotateRight_def]

/-- A Thumb store at an address it accepts. -/
theorem thumbStore_of_written {size : BusSize} {va : Word} {rd : LoReg} (hn : s.canAdvance = true)
    (ha : s.alignOn = true ∨ misaligned size va = false) (h : memWrite va size (s.reg (lo rd)) s.priv s = .ok () s1) :
    thumbStore size va rd s = .next s1.moveOn := by
  have next : s1.canAdvance = true := ((memWrite_memSide _ _ _ _ _).of_ok h).canAdvance.trans hn
  rw [thumbStore, require_pass (by simpa using ha)]
  exact (Res.finish_ok h).trans (advance_of_canAdvance next)

/-- A misaligned Thumb store is refused with A = 0 (U6). -/
theorem thumbStore_of_misaligned {size : BusSize} {va : Word} (rd : LoReg) (ha : s.alignOn = false)
    (hm : misaligned size va = true) : thumbStore size va rd s = .refused .misalignedThumbStore :=
  require_fail (by rw [ha, hm]; rfl)

/-- Settles O53: each form is `thumbLoad` or `thumbStore` at its address, an immediate scaled by the size. -/
theorem thumbTransfers : Obligations.ThumbTransfers := by
  have unscaled (i : BitVec 5) : (i.zeroExtend 32 <<< 0 : Word) = BitVec.ofNat 32 i.toNat := by
    rw [BitVec.shiftLeft_zero, BitVec.ofNat_toNat]
  refine ⟨?loads, ?stores⟩
  case loads =>
    intro rd rn rm i5 i8 s s1 v next n m off does
    have loaded (e : Extend) {i : Instr} {a a' x : Word} (ha : a' = a) (hi : exec i s = thumbLoad e a' rd s)
        (hx : misaligned e.size a = false → extendLoaded e a v = x) : does i e.size a x := by
      subst ha
      exact fun h => hi.trans (thumbLoad_of_read next hx h)
    have word {i : Instr} {a a' : Word} (ha : a' = a) (hi : exec i s = thumbLoad .word a' rd s) : does i .word a v :=
      loaded .word ha hi fun aligned => rotateLoaded_aligned aligned v
    refine ⟨?_, ?_, ?_, ?_, ?_, ?_, ?_, ?_, ?_, ?_⟩
    · exact word (congrArg (n + ·) (scaledWord_eq i5 (by decide))) rfl
    · exact loaded .half (congrArg (n + ·) (scaledHalfword_eq i5)) rfl fun _ => rfl
    · exact loaded .byte (congrArg (n + ·) (unscaled i5)) rfl fun _ => rfl
    · exact word rfl rfl
    · exact loaded .half rfl rfl fun _ => rfl
    · exact loaded .byte rfl rfl fun _ => rfl
    · exact loaded .signedByte rfl rfl fun _ => rfl
    · exact loaded .signedHalf rfl rfl fun _ => rfl
    · exact word (congrArg (literalBase s + ·) (scaledWord_eq i8 (by decide))) rfl
    · exact word (congrArg (s.reg regSp + ·) (scaledWord_eq i8 (by decide))) rfl
  case stores =>
    intro rd rn rm i5 i8 s s1 n m off does
    have stored {i : Instr} {size : BusSize} {a a' : Word} (ha : a' = a) (hi : exec i s = thumbStore size a' rd s) :
        does i size a := by
      subst ha
      exact ⟨fun next ha h => hi.trans (thumbStore_of_written next ha h),
        fun ha hm => hi.trans (thumbStore_of_misaligned rd ha hm)⟩
    refine ⟨?_, ?_, ?_, ?_, ?_, ?_, ?_⟩
    · exact stored (congrArg (n + ·) (scaledWord_eq i5 (by decide))) rfl
    · exact stored (congrArg (n + ·) (scaledHalfword_eq i5)) rfl
    · exact stored (congrArg (n + ·) (unscaled i5)) rfl
    · exact stored rfl rfl
    · exact stored rfl rfl
    · exact stored rfl rfl
    · exact stored (congrArg (s.reg regSp + ·) (scaledWord_eq i8 (by decide))) rfl

end Sys2Proof.Machine
end

section
/-!
What taking an exception saves, changes and keeps (O40), and BKPT (O39; spec/60 R840, R860, R861, R867; spec/61 R905, R909, R916).
-/
namespace Sys2Proof.Machine

variable {s t : State}

/-! ### Exception entry (spec/60 R860) -/

theorem entryCpsr_fiq (e : Exc) (w : Word) : (entryCpsr e w).getLsbD 6 = (e.masksFiq || w.getLsbD 6) := by
  have key : ∀ (a : BitVec 24) (x y z : BitVec 1) (m : BitVec 5), (a ++ x ++ y ++ z ++ m).getLsbD 6 = y.getLsbD 0 := by
    intro a x y z m
    simp only [BitVec.getLsbD_append]
    rfl
  refine (key _ _ _ _ _).trans ?_
  simp

theorem takeException_thumb (e : Exc) (link : Word) (s : State) : (takeException e link s).thumb = false := by
  rw [State.thumb, takeException_cpsr, entryCpsr_thumb]

theorem takeException_irq (e : Exc) (link : Word) (s : State) : (takeException e link s).cpsr.getLsbD 7 = true := by
  rw [takeException_cpsr, entryCpsr_irq]

/-- The mode entered has the bank of the exception. -/
theorem takeException_bank (e : Exc) (link : Word) (s : State) : (takeException e link s).bank = bankOf e.mode :=
  congrArg bankOf (takeException_mode e link s)

/-- Every exception's mode has an SPSR (spec/10 R45). -/
theorem Exc.spsrIndex_isSome (e : Exc) : ∃ k, spsrIndex (bankOf e.mode) = some k := by cases e <;> exact ⟨_, rfl⟩

theorem takeException_readSpsr (e : Exc) (link : Word) (s : State) : (takeException e link s).readSpsr = s.cpsr := by
  obtain ⟨k, hk⟩ := e.spsrIndex_isSome
  rw [State.readSpsr_of_index ((congrArg spsrIndex (takeException_bank e link s)).trans hk)]
  exact takeException_saved link s hk

/-- An SPSR that a write does not name keeps its value. -/
theorem setSpsrIn_spsr_ne (s : State) {b : Bank} (v : Word) {k : Fin 5} (h : some k ≠ spsrIndex b) :
    (s.setSpsrIn b v).spsr[k] = s.spsr[k] := by
  unfold State.setSpsrIn
  split
  next j hj =>
    have other : j.val ≠ k.val := fun e => h (by rw [hj, Fin.ext e])
    exact Vector.getElem_set_ne j.isLt k.isLt other
  next => rfl

theorem takeException_spsr_ne (e : Exc) (link : Word) (s : State) {k : Fin 5} (h : some k ≠ spsrIndex (bankOf e.mode)) :
    (takeException e link s).spsr[k] = s.spsr[k] := by
  refine (setSpsrIn_spsr_ne _ _ h).trans ?_
  rw [State.setRegIn_spsr]

/-- Settles O40: the laws of `takeException`, with the table of spec/60 R840 read off case by case. -/
theorem exceptionEntry : Obligations.ExceptionEntry := by
  intro e link s t b offset mode
  have masks : e.masksFiq = (e == .reset || e == .fiq) := by cases e <;> rfl
  refine ⟨by cases e <;> rfl, (takeException_mode e link s).trans (by cases e <;> rfl), ?link,
    takeException_readSpsr e link s, takeException_thumb e link s, takeException_irq e link s, ?maskF, fun k hk => ?above,
    fun k => takeException_regs_ne e link s, fun k => takeException_spsr_ne e link s, takeException_mem e link s,
    takeException_cp15 e link s, takeException_prefetch e link s⟩
  case link =>
    rw [State.reg, takeException_bank]
    exact takeException_link e link s
  case maskF => rw [takeException_cpsr, entryCpsr_fiq, masks, Bool.or_comm]
  case above => rw [takeException_cpsr, entryCpsr_bits e s.cpsr k hk]

/-! ### BKPT (spec/45 R676; spec/48 R831; spec/61 R909, R916) -/

/-- The method of entry is DSCR[4:2] (spec/12 R171). -/
theorem setMoe_getLsbD (d : Debug) (moe : BitVec 3) {k : Nat} (h : k < 2 ∨ 5 ≤ k) :
    (setMoe d moe).dscr.getLsbD k = d.dscr.getLsbD k := by
  have parts (a : BitVec 27) (l : BitVec 2) :
      (a ++ moe ++ l).getLsbD k = if k < 2 then l.getLsbD k else a.getLsbD (k - 5) := by
    rw [BitVec.getLsbD_append]
    split
    · rfl
    · rw [BitVec.getLsbD_append, if_neg (by omega), Nat.sub_sub]
  refine (parts _ _).trans ?_
  split
  next low => simp [low]
  next high =>
    simp only [BitVec.getLsbD_extractLsb']
    rw [show 5 + (k - 5) = k by omega]
    by_cases hk : k < 32
    · simp [show k - 5 < 27 by omega]
    · simp [BitVec.getLsbD_of_ge _ _ (Nat.le_of_not_lt hk)]

/-- A Prefetch Abort from a state that differs from `s` in the debug unit only (spec/60 R867). -/
structure PrefetchAborted (s t : State) (status : BitVec 4) : Prop where
  pc : t.pc = vectorBase s + 0x0C#32
  mode : t.mode = 0x17#5
  thumb : t.thumb = false
  irq : t.cpsr.getLsbD 7 = true
  link : t.regIn .abt regLr = s.pc + 4#32
  saved : t.spsr[3] = s.cpsr
  regs : ∀ k : Fin 30, k ≠ regIndex .abt regLr → t.regs[k] = s.regs[k]
  ifsr : t.cp15.ifsr.extractLsb' 0 4 = status
  dfsr : t.cp15.dfsr = s.cp15.dfsr
  dfar : t.cp15.dfar = s.cp15.dfar
  mem : t.mem = s.mem

theorem prefetchAbort_aborted (status : BitVec 4) (s : State) (d : Debug) :
    PrefetchAborted s (prefetchAbort status { s with dbg := d }) status := by
  obtain ⟨pc, link, saved⟩ := prefetchAbort_entry status { s with dbg := d }
  exact ⟨pc, takeException_mode _ _ _, takeException_thumb _ _ _, takeException_irq _ _ _, link, saved,
    fun k hk => takeException_regs_ne .prefetchAbort _ _ hk, prefetchAbort_ifsr _ _, prefetchAbort_dfsr _ _,
    prefetchAbort_dfar _ _, takeException_mem _ _ _⟩

/-- In monitor mode the event is a Prefetch Abort with the method of entry noted. -/
theorem debugEvent_aborted (moe : BitVec 3) (h : s.haltMode = false) :
    PrefetchAborted s (debugEvent moe s) 2#4 ∧ (debugEvent moe s).halted = s.halted := by
  rw [debugEvent_of_monitorMode moe h]
  exact ⟨prefetchAbort_aborted 2#4 s _, setMoe_getLsbD (caughtHere s).dbg moe (.inl (by decide))⟩

/-- Outside debug state a BKPT is a debug event or, with debugging disabled, a Prefetch Abort (D19). -/
theorem breakpointInstr_running (h : s.halted = false) :
    breakpointInstr s = .next (if s.debugEnabled then debugEvent 3#3 s else prefetchAbort 2#4 s) := by
  rw [breakpointInstr, h, if_neg Bool.false_ne_true]
  exact (apply_ite Host.Outcome.next _ _ _).symm

/-- Settles O39: BKPT is `breakpointInstr`, a Prefetch Abort with debugging disabled and in monitor mode, and in halt mode the entry
to debug state. -/
theorem breakpoints : Obligations.Breakpoints := by
  intro i s hi running
  have run : exec i s = breakpointInstr s := by obtain ⟨hi, lo, rfl⟩ | ⟨imm, rfl⟩ := hi <;> rfl
  have refused : ∀ c hi lo, c ≠ .al → exec (.bkpt c hi lo) s = .refused .conditionalBkpt := fun c hi lo hc =>
    require_fail (beq_eq_false_iff_ne.mpr hc)
  rw [run, breakpointInstr_running running]
  cases enabled : s.debugEnabled
  case false =>
    have a := prefetchAbort_aborted 2#4 s s.dbg
    exact ⟨_, rfl, fun _ => ⟨a.pc, a.mode, a.thumb, a.irq, a.link, a.saved, running, a.regs, a.ifsr, a.dfsr, a.dfar⟩,
      nofun, fun _ => rfl, nofun, a.mem, refused⟩
  case true =>
    refine ⟨_, rfl, fun monitor => ?_, fun _ => debugEvent_moe _ s, nofun, fun _ halt => ?_, debugEvent_mem _ s, refused⟩
    · obtain ⟨a, kept⟩ := debugEvent_aborted 3#3 (monitor.resolve_left nofun)
      exact ⟨a.pc, a.mode, a.thumb, a.irq, a.link, a.saved, kept.trans running, a.regs, a.ifsr, a.dfsr, a.dfar⟩
    · rw [if_pos rfl, debugEvent_of_haltMode _ halt]
      exact ⟨enterDebug_dbgack _ _, rfl, rfl, rfl, rfl, rfl⟩

end Sys2Proof.Machine
end

section
/-!
Instruction boundaries (O41) and wait for interrupt (O42; spec/60 R852, R869-R872, R890; spec/61 R905, R920; spec/70 R980).
-/
namespace Sys2Proof.Machine

variable {s : State}

/-! ### The processor's step (spec/70 R980; spec/62 R953) -/

/-- With no move of the outside world a step is one of the processor. -/
theorem step_of_noInputs (hin : s.inputs = []) : step s = processorStep s := by rw [step, stepBody, hin]

theorem inReset_eq_false (hh : s.pins.hresetn = true) (hs : s.pins.sfresetn = true) : s.inReset = false := by
  rw [State.inReset, hh, hs]
  rfl

/-- Nothing happens while a reset pin is LOW. -/
theorem step_of_inReset (hin : s.inputs = []) (h : s.pins.hresetn = false ∨ s.pins.sfresetn = false) : step s = .next s := by
  have low : s.inReset = true := by simpa [State.inReset] using h
  rw [step_of_noInputs hin, processorStep, if_pos low]

/-- Out of reset, with no low-power entry pending, the run state decides. -/
theorem step_byRun (hin : s.inputs = []) (hh : s.pins.hresetn = true) (hs : s.pins.sfresetn = true)
    (hpend : s.pm.pending = none) : step s = stepByRun s := by
  rw [step_of_noInputs hin, processorStep, inReset_eq_false hh hs, if_neg Bool.false_ne_true, hpend]

theorem stepByRun_halted (hrun : s.run = .running) (halted : s.halted = true) (hw : s.dbg.itrWait = false) :
    stepByRun s = .next s := by
  rw [stepByRun, hrun, halted]
  exact if_neg (by rw [hw]; exact Bool.false_ne_true)

theorem stepByRun_running (hrun : s.run = .running) (running : s.halted = false) : stepByRun s = boundary s := by
  rw [stepByRun, hrun, running]

/-! ### What comes first at a boundary (spec/60 R869, R870, R872; spec/61 R905, R920) -/

theorem debugRequest_eq_false (h : (s.pins.edbgrq = false ∧ s.dbg.haltReq = false) ∨ s.debugEnabled = false ∨ s.haltMode = false) :
    debugRequest s = false := by
  obtain ⟨h1, h2⟩ | h | h := h
  · simp [debugRequest, h1, h2]
  · simp [debugRequest, h]
  · simp [debugRequest, h]

theorem boundary_of_request (h : debugRequest s = true) :
    boundary s = .next (enterDebug (if s.dbg.haltReq then 0#3 else 4#3) s) := if_pos h

theorem boundary_of_noRequest (h : debugRequest s = false) : boundary s = interruptOr s (runInstruction s) :=
  if_neg (by rw [h]; exact Bool.false_ne_true)

section

variable {k : Outcome State}

theorem interruptOr_fiq (hn : s.pins.nfiq = false) (hf : s.cpsr.getLsbD 6 = false) :
    interruptOr s k = .next (takeException .fiq (s.pc + 4#32) s) := if_pos (by rw [fiqPending, hn, hf]; rfl)

theorem fiqPending_eq_false (h : s.pins.nfiq = true ∨ s.cpsr.getLsbD 6 = true) : fiqPending s = false := by
  simpa [fiqPending, imp_iff_not_or] using h

theorem irqPending_eq_false (h : s.pins.nirq = true ∨ s.cpsr.getLsbD 7 = true) : irqPending s = false := by
  simpa [irqPending, imp_iff_not_or] using h

theorem interruptOr_irq (h : s.pins.nfiq = true ∨ s.cpsr.getLsbD 6 = true) (hn : s.pins.nirq = false)
    (hi : s.cpsr.getLsbD 7 = false) : interruptOr s k = .next (takeException .irq (s.pc + 4#32) s) := by
  rw [interruptOr, fiqPending_eq_false h, if_neg Bool.false_ne_true]
  exact if_pos (by rw [irqPending, hn, hi]; rfl)

/-- With both interrupts masked or absent the processor goes on. -/
theorem interruptOr_none (hf : s.pins.nfiq = true ∨ s.cpsr.getLsbD 6 = true)
    (hi : s.pins.nirq = true ∨ s.cpsr.getLsbD 7 = true) : interruptOr s k = k := by
  rw [interruptOr, fiqPending_eq_false hf, irqPending_eq_false hi, if_neg Bool.false_ne_true, if_neg Bool.false_ne_true]

end

/-- Settles O41: a debug request first, then an FIQ, then an IRQ. -/
theorem boundaryEvents : Obligations.BoundaryEvents := by
  refine ⟨fun s => step_of_inReset, fun s hin hrun hh hs hpend => ?_⟩
  rw [step_byRun hin hh hs hpend]
  refine ⟨stepByRun_halted hrun, fun running hd hm due => ?request, fun running none => ?interrupts⟩
  all_goals rw [stepByRun_running hrun running]
  case request =>
    have request : debugRequest s = true := by simpa [debugRequest, hd, hm] using due
    exact ⟨_, boundary_of_request request, enterDebug_dbgack _ s, enterDebug_dbgack _ s, extract_moe _ _ _, rfl, rfl, rfl, rfl⟩
  case interrupts =>
    rw [boundary_of_noRequest (debugRequest_eq_false none)]
    exact ⟨interruptOr_fiq, interruptOr_irq⟩

/-! ### Wait for interrupt (spec/60 R890, D41) -/

/-- Which requests end STANDBY. -/
theorem wakeRequest_iff : wakeRequest s = true ↔
    s.pins.nfiq = false ∨ s.pins.nirq = false ∨ (s.pins.edbgrq = true ∧ s.haltMode = true ∧ s.debugEnabled = true) := by
  simp [wakeRequest, or_assoc, and_assoc]

theorem wakeRequest_eq_false (hf : s.pins.nfiq = true) (hi : s.pins.nirq = true)
    (hd : s.pins.edbgrq = false ∨ s.haltMode = false ∨ s.debugEnabled = false) : wakeRequest s = false := by
  rw [← Bool.not_eq_true, wakeRequest_iff, hf, hi]
  rintro (no | no | ⟨h1, h2, h3⟩)
  · cases no
  · cases no
  · simp [h1, h2, h3] at hd

/-- The MCR of wait for interrupt is `waitForInterrupt` of the state it is carried out in. -/
theorem exec_wait {c : Cond} {rd : Reg} (hp : s.priv = true) (hc : s.passes c = true) (hn : s.canAdvance = true)
    (hv : s.sent rd = 0#32) : exec (.mcr c ⟨0#3, 7#4, rd, 15#4, 4#3, 0#4⟩) s =
      .next (waitForInterrupt (s.sending rd)).moveOn := by
  refine exec_mcr_of_ok .waitForInterrupt hp hc rfl (cp15Write_zero rfl hv) ?_
  have drained : (drainAll (s.sending rd)).canAdvance = true :=
    (drainAll_memSide _).canAdvance.trans ((s.canAdvance_sending rd).trans hn)
  unfold waitForInterrupt
  dsimp only
  split <;> exact drained

theorem waitForInterrupt_sleeps (h : wakeRequest s = false) : waitForInterrupt s = { drainAll s with run := .standby } :=
  if_neg (by rw [h]; exact Bool.false_ne_true)

theorem waitForInterrupt_goesOn (h : wakeRequest s = true) : waitForInterrupt s = drainAll s := if_pos h

theorem stepByRun_standby (hrun : s.run = .standby) (running : s.halted = false) :
    stepByRun s = if wakeRequest s then wake { s with run := .running } else .next s := by
  rw [stepByRun, hrun, running]

end Sys2Proof.Machine

namespace Sys2Proof.Laws

open Sys2Proof.Machine

/-- Settles O42: the MCR drains and waits; STANDBY ends with an unmasked interrupt, or as a running processor goes on. -/
theorem waitForInterrupt : Obligations.WaitForInterrupt := by
  refine ⟨fun c rd u hp hc hn hv => exec_mcr_of_refuse .waitForInterrupt hp hc rfl (cp15Write_nonzero rfl hv),
    ?mcr, ?standby⟩
  case mcr =>
    intro c rd u hp hc hn hv wait s
    have waits : wait = .next (Machine.waitForInterrupt s).moveOn := exec_wait hp hc hn hv
    refine ⟨fun hf hi hd => ?_, fun pending => ?_, drainAll_wbuf s, drainAll_castout s⟩
    · rw [waits, waitForInterrupt_sleeps (wakeRequest_eq_false hf hi hd)]
    · rw [waits, waitForInterrupt_goesOn (wakeRequest_iff.mpr pending)]
  case standby =>
    intro s hin hrun running hh hs hpend
    have asleep : step s = if wakeRequest s then wake { s with run := .running } else .next s :=
      (step_byRun hin hh hs hpend).trans (stepByRun_standby hrun running)
    have woken (h : wakeRequest s = true) : step s = wake { s with run := .running } := asleep.trans (if_pos h)
    have runs : step { s with run := .running } = boundary { s with run := .running } :=
      (step_byRun (s := { s with run := .running }) hin hh hs hpend).trans (stepByRun_running rfl running)
    refine ⟨fun hf hi hd => ?_, fun hn hf => ?_, fun hf => ⟨fun hn hi => ?_, fun hi => ⟨fun due => ?_, fun hq hm hd => ?_⟩⟩⟩
    · rw [asleep, wakeRequest_eq_false hf hi hd, if_neg Bool.false_ne_true]
    · rw [woken (wakeRequest_iff.mpr (.inl hn))]
      exact interruptOr_fiq (s := { s with run := .running }) hn hf
    · rw [woken (wakeRequest_iff.mpr (.inr (.inl hn)))]
      exact interruptOr_irq (s := { s with run := .running }) hf hn hi
    · rw [woken (wakeRequest_iff.mpr (by tauto)), runs]
      exact interruptOr_none (s := { s with run := .running }) hf hi
    · have goesOn : step s = boundary { s with run := .running } := by
        rw [woken (wakeRequest_iff.mpr (.inr (.inr ⟨hq, hm, hd⟩)))]
        exact interruptOr_none (s := { s with run := .running }) hf hi
      have request : debugRequest { s with run := .running } = true := by
        show (s.debugEnabled && s.haltMode && (s.pins.edbgrq || s.dbg.haltReq)) = true
        rw [hd, hm, hq]
        rfl
      exact ⟨goesOn.trans runs.symm, _, goesOn.trans (boundary_of_request request), rfl, enterDebug_dbgack _ _, rfl, rfl, rfl⟩

end Sys2Proof.Laws
end

section
/-!
SUPPORT. The registers of a list (spec/44 R650): where each stands, what writing them in order leaves, and how many words a read
of several gives.
-/
namespace Sys2Proof.Machine

variable {s s1 : State} {list : BitVec 16}

/-! ### The registers of a list -/

/-- Of the numbers below `n` that have a property, `k` stands behind those below it. -/
theorem getElem?_filter_range (p : Nat → Bool) {k : Nat} (hp : p k = true) : ∀ {n : Nat}, k < n →
    ((List.range n).filter p)[(List.range k).countP p]? = some k
  | 0, hk => absurd hk (Nat.not_lt_zero k)
  | n + 1, hk => by
    rw [List.range_succ, List.filter_append]
    rcases Nat.lt_succ_iff_lt_or_eq.mp hk with below | rfl
    · have found := getElem?_filter_range p hp below
      rw [List.getElem?_append_left (List.getElem?_eq_some_iff.mp found).1, found]
    · rw [List.countP_eq_length_filter, List.getElem?_append_right (Nat.le_refl _), Nat.sub_self,
        List.filter_singleton, hp]
      rfl

theorem listRegs_eq_range (list : BitVec 16) :
    listRegs list = ((List.range 16).filter list.getLsbD).map (BitVec.ofNat 4) := by
  have names : ([0, 1, 2, 3, 4, 5, 6, 7, 8, 9, 10, 11, 12, 13, 14, 15] : List (BitVec 4)) =
      (List.range 16).map (BitVec.ofNat 4) := rfl
  rw [listRegs, names, List.filter_map]
  rfl

/-- The word of a register of the list stands behind those of the lower registers. -/
theorem getElem?_listRegs {r : Reg} (h : list.getLsbD r.toNat = true) : (listRegs list)[rankIn list r]? = some r := by
  rw [listRegs_eq_range, List.getElem?_map, rankIn, getElem?_filter_range list.getLsbD h r.isLt]
  simp

theorem mem_listRegs {r : Reg} : r ∈ listRegs list ↔ list.getLsbD r.toNat = true := by
  have all : r ∈ ([0, 1, 2, 3, 4, 5, 6, 7, 8, 9, 10, 11, 12, 13, 14, 15] : List (BitVec 4)) := by revert r; decide
  rw [listRegs, List.mem_filter]
  exact and_iff_right all

theorem nodup_listRegs (list : BitVec 16) : (listRegs list).Nodup := by
  unfold listRegs
  exact List.Nodup.filter _ (by decide)

/-- The lowest register of a list is the one with no other below it. -/
theorem head?_listRegs_iff {r : Reg} (h : list.getLsbD r.toNat = true) :
    (listRegs list).head? = some r ↔ rankIn list r = 0 := by
  have found := getElem?_listRegs h
  rw [List.head?_eq_getElem?]
  constructor
  · intro first
    have inside := (List.getElem?_eq_some_iff.mp found).1
    exact (List.getElem?_inj inside (nodup_listRegs list)).mp (found.trans first.symm)
  · intro lowest
    rwa [lowest] at found

/-- r15 comes last. -/
theorem listRegs_of_pc (h : list.getLsbD 15 = true) : ∃ l, listRegs list = l ++ [regPc] := by
  have names : ([0, 1, 2, 3, 4, 5, 6, 7, 8, 9, 10, 11, 12, 13, 14, 15] : List (BitVec 4)) =
      [0, 1, 2, 3, 4, 5, 6, 7, 8, 9, 10, 11, 12, 13, 14] ++ [regPc] := rfl
  refine ⟨([0, 1, 2, 3, 4, 5, 6, 7, 8, 9, 10, 11, 12, 13, 14] : List (BitVec 4)).filter fun r => list.getLsbD r.toNat, ?_⟩
  have last : ([regPc] : List Reg).filter (fun r => list.getLsbD r.toNat) = [regPc] := List.filter_cons_of_pos h
  rw [listRegs, names, List.filter_append, last]

/-! ### Registers written in order (spec/44 R651) -/

theorem setRegs_cons (b : Bank) (s : State) (p : Reg × Word) (l : List (Reg × Word)) :
    setRegs b s (p :: l) = setRegs b (s.setRegIn b p.1 p.2) l := rfl

theorem setRegs_append (b : Bank) (s : State) (l l' : List (Reg × Word)) :
    setRegs b s (l ++ l') = setRegs b (setRegs b s l) l' := List.foldl_append

/-- A register write changes the registers only. -/
theorem setRegIn_eq (s : State) (b : Bank) (r : Reg) (v : Word) : s.setRegIn b r v = { s with regs := (s.setRegIn b r v).regs } := by
  unfold State.setRegIn
  split <;> rfl

theorem setRegs_eq (b : Bank) (s : State) (l : List (Reg × Word)) : setRegs b s l = { s with regs := (setRegs b s l).regs } := by
  induction l generalizing s with
  | nil => rfl
  | cons p l ih =>
    rw [setRegs_cons]
    exact (ih _).trans (by rw [setRegIn_eq])

theorem setRegIn_regs_ne (s : State) {b : Bank} {r : Reg} (v : Word) {k : Fin 30} (h : k ≠ regIndex b r) :
    (s.setRegIn b r v).regs[k] = s.regs[k] := by
  unfold State.setRegIn
  split
  · rfl
  · have other : (regIndex b r).val ≠ k.val := fun e => h (Fin.ext e.symm)
    exact Vector.getElem_set_ne (regIndex b r).isLt k.isLt other

/-- A register that the list does not name keeps its value. -/
theorem setRegs_regs_ne (b : Bank) {k : Fin 30} {l : List (Reg × Word)} (h : ∀ p ∈ l, k ≠ regIndex b p.1) (s : State) :
    (setRegs b s l).regs[k] = s.regs[k] := by
  induction l generalizing s with
  | nil => rfl
  | cons p l ih =>
    obtain ⟨head, tail⟩ := List.forall_mem_cons.mp h
    rw [setRegs_cons, ih tail, setRegIn_regs_ne s p.2 head]

theorem setRegs_regIn_ne {b : Bank} {r : Reg} {l : List (Reg × Word)} (h : ∀ p ∈ l, r ≠ p.1) (s : State) :
    (setRegs b s l).regIn b r = s.regIn b r := by
  induction l generalizing s with
  | nil => rfl
  | cons p l ih =>
    obtain ⟨head, tail⟩ := List.forall_mem_cons.mp h
    rw [setRegs_cons, ih tail, State.regIn_setRegIn, if_neg (fun both => head both.1)]

/-- Each register gets its word, if no other pair names it. -/
theorem setRegs_regIn {b : Bank} {r : Reg} {v : Word} {l : List (Reg × Word)} (hr : r ≠ regPc) (hl : (l.map Prod.fst).Nodup)
    (h : (r, v) ∈ l) (s : State) : (setRegs b s l).regIn b r = v := by
  induction l generalizing s with
  | nil => cases h
  | cons p l ih =>
    obtain ⟨fresh, rest⟩ := List.nodup_cons.mp hl
    rw [setRegs_cons]
    rcases List.mem_cons.mp h with rfl | later
    · rw [setRegs_regIn_ne (fun q hq e => fresh (List.mem_map.mpr ⟨q, hq, e.symm⟩)), State.regIn_setRegIn, if_pos ⟨rfl, hr⟩]
    · exact ih rest later _

/-! ### How many words a read of several gives -/

theorem length_readRun {m : Multiple} {n : Nat} {first : Bool} {va : Word}
    (h : (readRun m n first va s).2 = .ok () s1) : (readRun m n first va s).1.length = n := by
  fun_induction readRun m n first va s
  case case1 => rfl
  case case2 => rfl
  case case5 pair => exact congrArg (· + 2) (pair h)
  case case8 word => exact congrArg (· + 1) (word h)
  all_goals cases h

theorem length_of_memReadMany {m : Multiple} {n : Nat} {va : Word} {vs : List Word}
    (h : memReadMany m n va s = .ok vs s1) : vs.length = n := by
  unfold memReadMany wordsOf at h
  cases run : (readRun m n true va s).2 with
  | ok _ t =>
    rw [run] at h
    cases h
    exact length_readRun run
  | abort _ _ => rw [run] at h; cases h
  | refuse _ => rw [run] at h; cases h

end Sys2Proof.Machine
end

section
/-!
LDM, STM and the Thumb forms of several transfers (O24, O27, O28, O29; spec/43 R605; spec/44 R650-R658; spec/48 R808-R811).
-/
namespace Sys2Proof.Machine

variable {s s1 : State} {list : BitVec 16} {ix : Index} {vs : List Word} {m : Multiple}

/-! ### The words of a list -/

theorem length_of_readList (h : readList m ix list s = .ok vs s1) : vs.length = (listRegs list).length :=
  length_of_memReadMany h

theorem readList_side (h : readList m ix list s = .ok vs s1) : MemSide s s1 :=
  ((memReadMany_readSide _ _ _ _).of_ok h).toMemSide

/-- Each listed register is paired with its word. -/
theorem mem_zip_listRegs {r : Reg} (hlen : vs.length = (listRegs list).length) (h : list.getLsbD r.toNat = true) :
    (r, vs.getD (rankIn list r) 0#32) ∈ (listRegs list).zip vs := by
  have found := getElem?_listRegs h
  have inside : rankIn list r < vs.length := hlen ▸ (List.getElem?_eq_some_iff.mp found).1
  refine List.mem_iff_getElem?.mpr ⟨rankIn list r, List.getElem?_zip_eq_some.mpr ⟨found, ?_⟩⟩
  simp [inside]

theorem map_fst_zip_listRegs (hlen : vs.length = (listRegs list).length) :
    ((listRegs list).zip vs).map Prod.fst = listRegs list :=
  List.map_fst_zip (Nat.le_of_eq hlen.symm)

theorem listed_of_mem_zip {p : Reg × Word} (h : p ∈ (listRegs list).zip vs) : list.getLsbD p.1.toNat = true :=
  mem_listRegs.mp (List.of_mem_zip h).1

/-! ### The state after a load of several (spec/44 R651) -/

/-- The registers of a load of several: the base first, then the listed registers of the bank. -/
def State.loadMany (s1 : State) (b : Bank) (ix : Index) (list : BitVec 16) (base : Word) (vs : List Word) : State :=
  setRegs b (multipleWriteBase ix list base s1) ((listRegs list).zip vs)

theorem multipleWriteBase_eq (ix : Index) (list : BitVec 16) (base : Word) (s : State) :
    multipleWriteBase ix list base s = { s with regs := (multipleWriteBase ix list base s).regs } := by
  unfold multipleWriteBase
  split
  · exact setRegIn_eq _ _ _ _
  · rfl

/-- It differs from the state in the registers only. -/
theorem State.loadMany_eq (s1 : State) (b : Bank) (ix : Index) (list : BitVec 16) (base : Word) (vs : List Word) :
    s1.loadMany b ix list base vs = { s1 with regs := (s1.loadMany b ix list base vs).regs } := by
  unfold State.loadMany
  rw [setRegs_eq, multipleWriteBase_eq]

theorem State.canAdvance_loadMany (s1 : State) (b : Bank) (ix : Index) (list : BitVec 16) (base : Word) (vs : List Word) :
    (s1.loadMany b ix list base vs).canAdvance = s1.canAdvance := by
  rw [State.loadMany_eq]
  rfl

theorem State.regIn_moveOn (t : State) (b : Bank) {r : Reg} (h : r ≠ regPc) : t.moveOn.regIn b r = t.regIn b r := by
  rw [State.regIn, State.regIn, if_neg h, if_neg h]
  rfl

/-- Every listed register holds its word. -/
theorem State.regIn_loadMany {b : Bank} {base : Word} {r : Reg} (hlen : vs.length = (listRegs list).length) (hr : r ≠ regPc)
    (h : list.getLsbD r.toNat = true) : (s1.loadMany b ix list base vs).regIn b r = vs.getD (rankIn list r) 0#32 :=
  setRegs_regIn hr (by rw [map_fst_zip_listRegs hlen]; exact nodup_listRegs list) (mem_zip_listRegs hlen h) _

/-- The base is written back, if it is not in the list. -/
theorem State.reg_loadMany {base : Word} (hw : ix.w = true) (hb : list.getLsbD ix.rn.toNat = false) (hr : ix.rn ≠ regPc) :
    (s1.loadMany s1.bank ix list base vs).regIn s1.bank ix.rn = multipleBase ix list base := by
  have fresh : ∀ p ∈ (listRegs list).zip vs, ix.rn ≠ p.1 := by
    intro p hp e
    rw [e, listed_of_mem_zip hp] at hb
    cases hb
  rw [State.loadMany, setRegs_regIn_ne fresh, multipleWriteBase, if_pos hw, State.setReg, State.regIn_setRegIn,
    if_pos ⟨rfl, hr⟩]

/-- Every register that is neither listed nor the written-back base keeps its value. -/
theorem State.loadMany_regs_ne {b : Bank} {base : Word} {k : Fin 30}
    (hl : ∀ r : Reg, list.getLsbD r.toNat = true → k ≠ regIndex b r) (hb : ix.w = true → k ≠ regIndex s1.bank ix.rn) :
    (s1.loadMany b ix list base vs).regs[k] = s1.regs[k] := by
  rw [State.loadMany, setRegs_regs_ne b (fun p hp => hl p.1 (listed_of_mem_zip hp))]
  unfold multipleWriteBase
  split
  next hw => exact setRegIn_regs_ne s1 _ (hb hw)
  · rfl

/-! ### Loads without r15 (spec/44 R651, R652) -/

/-- What a load of several without r15 leaves: each listed register holds its word, the base is written back, and nothing else of
what the reads left has changed. -/
def LoadedMany (s s1 : State) (vs : List Word) (b : Bank) (ix : Index) (list : BitVec 16) (x : Outcome State) : Prop :=
  ∃ t, x = .next t ∧
    (∀ r : Reg, list.getLsbD r.toNat = true → t.regIn b r = vs.getD (rankIn list r) 0#32) ∧
    (ix.w = true → t.reg ix.rn = multipleBase ix list (s.reg ix.rn)) ∧
    (∀ k : Fin 30, (∀ r : Reg, list.getLsbD r.toNat = true → k ≠ regIndex b r) →
      (ix.w = true → k ≠ regIndex s.bank ix.rn) → t.regs[k] = s.regs[k]) ∧
    t = { s1.moveOn with regs := t.regs }

theorem loadedMany_advance {b : Bank} (hn : s.canAdvance = true) (hs : MemSide s s1)
    (hlen : vs.length = (listRegs list).length) (hpc : list.getLsbD 15 = false)
    (hw : ix.w = true → b = s.bank ∧ list.getLsbD ix.rn.toNat = false ∧ ix.rn ≠ regPc) :
    LoadedMany s s1 vs b ix list (advance (s1.loadMany b ix list (s.reg ix.rn) vs)) := by
  have next : (s1.loadMany b ix list (s.reg ix.rn) vs).canAdvance = true :=
    (s1.canAdvance_loadMany ..).trans (hs.canAdvance.trans hn)
  have only := State.loadMany_eq s1 b ix list (s.reg ix.rn) vs
  refine ⟨_, advance_of_canAdvance next, fun r hr => ?listed, fun w => ?base, fun k hl hb => ?others, ?rest⟩
  case listed =>
    have notPc : r ≠ regPc := by
      rintro rfl
      rw [show list.getLsbD 15 = true from hr] at hpc
      cases hpc
    rw [State.regIn_moveOn _ _ notPc, State.regIn_loadMany hlen notPc hr]
  case base =>
    obtain ⟨rfl, outside, notPc⟩ := hw w
    have same : (s1.loadMany s.bank ix list (s.reg ix.rn) vs).moveOn.bank = s1.bank := by rw [only]; rfl
    rw [State.reg, same, State.regIn_moveOn _ _ notPc, ← hs.bank, State.reg_loadMany w outside notPc]
  case others =>
    rw [← hs.regs]
    exact State.loadMany_regs_ne hl (hs.bank ▸ hb)
  case rest =>
    rw [only]
    rfl

theorem loadMultiple_of_read (hpc : list.getLsbD 15 = false) (h : readList (.ordinary s.priv) ix list s = .ok vs s1) :
    loadMultiple ix list s = advance (s1.loadMany s.bank ix list (s.reg ix.rn) vs) := by
  rw [loadMultiple, Res.finish_ok h]
  exact if_neg (by rw [hpc]; decide)

theorem loadMultiple_loaded (hn : s.canAdvance = true) (hpc : list.getLsbD 15 = false)
    (hw : ix.w = true → list.getLsbD ix.rn.toNat = false ∧ ix.rn ≠ regPc)
    (h : readList (.ordinary s.priv) ix list s = .ok vs s1) : LoadedMany s s1 vs s.bank ix list (loadMultiple ix list s) := by
  rw [loadMultiple_of_read hpc h]
  exact loadedMany_advance hn (readList_side h) (length_of_readList h) hpc fun w => ⟨rfl, hw w⟩

theorem getLsbD_lo (list : BitVec 8) (rn : LoReg) : (0#8 ++ list : BitVec 16).getLsbD (lo rn).toNat = list.getLsbD rn.toNat := by
  have small := rn.isLt
  have same : (lo rn).toNat = rn.toNat := by simp [lo]; omega
  rw [same, BitVec.getLsbD_append, if_pos (by omega)]

theorem ldmAllowed_iff : ldmAllowed ix list = true ↔
    list ≠ 0#16 ∧ ix.rn ≠ regPc ∧ (ix.w = true → list.getLsbD ix.rn.toNat = false) := by
  simp only [ldmAllowed, multipleAllowed, baseInList, Bool.and_eq_true, bne_iff_ne, Bool.not_eq_true', Bool.and_eq_false_imp,
    and_assoc]

/-- Settles O27: every form reads its list and then writes its registers; write-back needs the base outside the list. -/
theorem loadMultiples : Obligations.LoadMultiples := by
  intro s s1 vs loaded reads
  refine ⟨?ldm1, ?ldm2, ?ldmia, ?pop⟩
  case ldm1 =>
    intro c ix list hpc hr h
    obtain ⟨hc, -, ho, hn⟩ := ready_iff.mp hr
    obtain ⟨-, notPc, outside⟩ := ldmAllowed_iff.mp ho
    rw [show exec (.ldm1 c ix list) s = loadMultiple ix list s from (whenCond_pass hc).trans (require_pass ho)]
    exact loadMultiple_loaded hn hpc (fun w => ⟨outside w, notPc⟩) h
  case ldm2 =>
    intro c ix list hs hr h
    obtain ⟨hc, hz, ho, hn⟩ := ready_iff.mp hr
    have noWrite : ix.w = false := by simpa [Instr.regular] using hz
    have steps : exec (.ldm2 c ix list) s = advance (s1.loadMany .usr ix (0#1 ++ list) (s.reg ix.rn) vs) := by
      rw [State.loadMany, multipleWriteBase, if_neg (by rw [noWrite]; decide)]
      exact (whenCond_pass hc).trans ((require_pass hz).trans ((require_pass ho).trans ((require_pass hs).trans
        (Res.finish_ok h))))
    have noPc : (0#1 ++ list : BitVec 16).getLsbD 15 = false := by rw [BitVec.getLsbD_append]; rfl
    rw [steps]
    exact loadedMany_advance hn (readList_side h) (length_of_readList h) noPc fun w => by rw [noWrite] at w; cases w
  case ldmia =>
    intro rn list hr ix h
    obtain ⟨-, -, ho, hn⟩ := ready_iff.mp hr
    have noPc : (0#8 ++ list : BitVec 16).getLsbD 15 = false := by rw [BitVec.getLsbD_append]; rfl
    rw [show exec (.tLdmia rn list) s = loadMultiple ix (0#8 ++ list) s from require_pass ho]
    refine loadMultiple_loaded hn noPc (fun w => ⟨?_, lo_ne_pc rn⟩) h
    rw [getLsbD_lo]
    simpa [ix] using w
  case pop =>
    intro list hr ix h
    obtain ⟨-, -, ho, hn⟩ := ready_iff.mp hr
    have high (k : Nat) (hk : 8 ≤ k ∧ k < 16) : (popList false list).getLsbD k = false := by
      obtain ⟨h8, h16⟩ := hk
      rw [popList, BitVec.getLsbD_append, if_neg (by omega)]
      interval_cases k <;> rfl
    rw [show exec (.tPop false list) s = loadMultiple ix (popList false list) s from require_pass ho]
    exact loadMultiple_loaded hn (high 15 (by decide)) (fun _ => ⟨high 13 (by decide), by decide⟩) h

/-! ### Loads of r15 (spec/43 R605; spec/44 R651, R653) -/

/-- The pair of r15, the last, has no effect: `loadPc` writes it. -/
theorem State.loadMany_dropLast {b : Bank} {base v : Word} (hpc : list.getLsbD 15 = true)
    (hlen : (vs ++ [v]).length = (listRegs list).length) :
    s1.loadMany b ix list base (vs ++ [v]) = s1.loadMany b ix list base vs := by
  obtain ⟨l, e⟩ := listRegs_of_pc hpc
  have same : l.length = vs.length := by simpa [e] using hlen.symm
  unfold State.loadMany
  rw [e, List.zip_append same, setRegs_append]
  nth_rw 2 [← List.append_nil vs]
  rw [List.zip_append same, setRegs_append]
  rfl

/-- A word loaded into r15: with L4 set T stays, else it is an exchange. -/
theorem loadPc_eq (v : Word) (t : State) : loadPc v t =
    if t.l4 then .next (t.branchTo (v &&& (if t.thumb then 0xFFFFFFFE#32 else 0xFFFFFFFC#32)))
    else if v.getLsbD 0 = true then .next ((t.setThumb true).branchTo (v - 1#32))
    else if v.toNat % 4 = 0 then .next ((t.setThumb false).branchTo v) else .refused .pcMisaligned := by
  rw [loadPc, exchangeTo_eq]
  rfl

theorem lastWord_append (vs : List Word) (v : Word) : lastWord (vs ++ [v]) = v := by
  simp [lastWord]

theorem require_aligned (va : Word) (r : Refusal) (k : Outcome State) :
    require (!misaligned .word va) r k = if va.toNat % 4 = 0 then k else .refused r := by
  rw [misaligned_word]
  by_cases h : va.toNat % 4 = 0 <;> simp [require, h]

theorem loadMultiple_of_readPc {v : Word} (hpc : list.getLsbD 15 = true)
    (h : readList (.ordinary s.priv) ix list s = .ok (vs ++ [v]) s1) :
    loadMultiple ix list s = if (s.reg ix.rn).toNat % 4 = 0
      then loadPc v (s1.loadMany s.bank ix list (s.reg ix.rn) vs) else .refused .misalignedPcLoad := by
  rw [loadMultiple, Res.finish_ok h, ← State.loadMany_dropLast hpc (length_of_readList h), ← require_aligned]
  exact (if_pos hpc).trans (by rw [lastWord_append]; rfl)

theorem writeBase_regs (ix : Index) (target : Word) (s : State) :
    writeBase ix target s = { s with regs := (writeBase ix target s).regs } := by
  unfold writeBase
  split
  · exact setRegIn_eq _ _ _ _
  · rfl

/-- Settles O24: each form goes through `loadPc` in a state with the L4 and T bits of the first. -/
theorem loadsToPc : Obligations.LoadsToPc := by
  intro s go
  have goes {t : State} (hl : t.l4 = s.l4) (ht : t.thumb = s.thumb) (v : Word) : loadPc v t = go v t := by
    rw [loadPc_eq, hl, ht]
  have multiple {ix : Index} {list : BitVec 16} {vs : List Word} {v : Word} {s1 : State} (hpc : list.getLsbD 15 = true)
      (h : readList (.ordinary s.priv) ix list s = .ok (vs ++ [v]) s1) :
      loadMultiple ix list s = if (s.reg ix.rn).toNat % 4 = 0
        then go v (s1.loadMany s.bank ix list (s.reg ix.rn) vs) else .refused .misalignedPcLoad := by
    have side := readList_side h
    rw [loadMultiple_of_readPc hpc h, State.loadMany_eq, goes]
    · exact congrArg (fun c : Cp15 => c.ctl.getLsbD 15) side.cp15
    · exact side.thumb
  refine ⟨?single, ?ldm, ?pop⟩
  case single =>
    intro c ix off v s1 hr h
    obtain ⟨hc, -, ho⟩ := runs_iff.mp hr
    have side := ((memRead_readSide _ _ _ _).of_ok h).toMemSide
    have written := writeBase_regs ix (indexTarget ix (offset2 off s) s) s1
    have steps : exec (.ldr c ix regPc off) s = loadToPc ix (offset2 off s) s :=
      (whenCond_pass hc).trans ((require_pass ho).trans (if_pos rfl))
    rw [steps, loadToPc, Res.finish_ok h, require_aligned, goes]
    · rw [written]
      exact congrArg (fun c : Cp15 => c.ctl.getLsbD 15) side.cp15
    · rw [written]
      exact side.thumb
  case ldm =>
    intro c ix list vs v s1 hpc hr h
    obtain ⟨hc, -, ho⟩ := runs_iff.mp hr
    exact (whenCond_pass hc).trans ((require_pass ho).trans (multiple hpc h))
  case pop =>
    intro list vs v s1 h
    have last : (popList true list).getLsbD 15 = true := by rw [popList, BitVec.getLsbD_append]; rfl
    have listed : (popList true list != 0#16) = true := by
      rw [bne_iff_ne]
      intro e
      rw [e] at last
      cases last
    exact (require_pass listed).trans (multiple last h)

theorem MemSide.hasSpsr (h : MemSide s s1) : s1.hasSpsr = s.hasSpsr := by
  rw [State.hasSpsr, State.hasSpsr, h.bank]

theorem MemSide.readSpsr (h : MemSide s s1) (hs : s.hasSpsr = true) : s1.readSpsr = s.readSpsr := by
  obtain ⟨k, hk⟩ := Option.isSome_iff_exists.mp hs
  rw [State.readSpsr_of_index hk, State.readSpsr_of_index (h.bank ▸ hk), h.spsr]

/-- Settles O28: the registers are loaded as for LDM(1), then the exception return. -/
theorem loadMultipleWithReturn : Obligations.LoadMultipleWithReturn := by
  intro c ix list list16 s s1 vs v
  refine ⟨fun hr hs legal aligned h => ?returns, fun hs hr => ?_, fun hs hr => ?_, fun hs hr => ?_⟩
  case returns =>
    obtain ⟨hc, -, ho⟩ := runs_iff.mp hr
    have side := readList_side h
    have last : (1#1 ++ list : BitVec 16).getLsbD 15 = true := by rw [BitVec.getLsbD_append]; rfl
    have steps : exec (.ldm3 c ix list) s =
        exceptionReturn v (s1.loadMany s.bank ix (1#1 ++ list) (s.reg ix.rn) (vs ++ [v])) := by
      refine (whenCond_pass hc).trans ((require_pass ho).trans ((require_pass hs).trans ((Res.finish_ok h).trans ?_)))
      rw [require_aligned, if_pos aligned, lastWord_append]
      rfl
    have saved : (s1.loadMany s.bank ix (1#1 ++ list) (s.reg ix.rn) (vs ++ [v])).hasSpsr = true ∧
        (s1.loadMany s.bank ix (1#1 ++ list) (s.reg ix.rn) (vs ++ [v])).readSpsr = s.readSpsr := by
      rw [State.loadMany_eq]
      exact ⟨side.hasSpsr.trans hs, side.readSpsr hs⟩
    rw [steps, exceptionReturn_of_hasSpsr _ saved.1, saved.2, if_pos legal,
      State.loadMany_dropLast last (length_of_readList h)]
    rfl
  all_goals obtain ⟨hc, hz, ho⟩ := runs_iff.mp hr
  · exact (whenCond_pass hc).trans ((require_pass ho).trans (require_fail hs))
  · exact (whenCond_pass hc).trans ((require_pass hz).trans ((require_pass ho).trans (require_fail hs)))
  · exact (whenCond_pass hc).trans ((require_pass hz).trans ((require_pass ho).trans (require_fail hs)))

/-! ### Stores (spec/44 R654, R655, R658) -/

/-- A base is stored as a free value if a lower register is listed with it. -/
theorem baseStoreFree_eq (ix : Index) (list : BitVec 16) :
    baseStoreFree ix list = (ix.w && list.getLsbD ix.rn.toNat && rankIn list ix.rn != 0) := by
  unfold baseStoreFree baseInList
  cases hl : list.getLsbD ix.rn.toNat
  · simp
  · rw [Bool.eq_iff_iff]
    simp [head?_listRegs_iff hl]

theorem multipleWriteBase_canAdvance (ix : Index) (list : BitVec 16) (base : Word) (s : State) :
    (multipleWriteBase ix list base s).canAdvance = s.canAdvance := by
  rw [multipleWriteBase_eq]
  rfl

/-- A store of several whose accesses are answered: write-back. -/
theorem storeMultiple_of_written (hn : s.canAdvance = true)
    (h : memWriteMany (.ordinary s.priv) ((listRegs list).map (stmValue ix list s)) (multipleStart ix list (s.reg ix.rn))
      (stmFree ix list s) = .ok () s1) :
    storeMultiple ix list s = .next (multipleWriteBase ix list (s.reg ix.rn) s1).moveOn := by
  have side : MemSide s s1 := (stmFree_memSide ix list).trans ((memWriteMany_memSide _ _ _ _).of_ok h)
  rw [storeMultiple, Res.finish_ok h]
  exact advance_of_canAdvance ((multipleWriteBase_canAdvance ..).trans (side.canAdvance.trans hn))

theorem storeMultiple_pass {ok : Bool} {r : Refusal} (ho : ok = true) (hn : s.canAdvance = true)
    (h : memWriteMany (.ordinary s.priv) ((listRegs list).map (stmValue ix list s)) (multipleStart ix list (s.reg ix.rn))
      (stmFree ix list s) = .ok () s1) :
    require ok r (storeMultiple ix list s) = .next (multipleWriteBase ix list (s.reg ix.rn) s1).moveOn :=
  (require_pass ho).trans (storeMultiple_of_written hn h)

/-- PUSH lists neither r13 nor r15, so it stores the registers' values. -/
theorem stmValue_push (r : Bool) (list : BitVec 8) :
    (listRegs (pushList r list)).map (stmValue ⟨true, false, true, regSp⟩ (pushList r list) s) =
      (listRegs (pushList r list)).map s.reg ∧ stmFree ⟨true, false, true, regSp⟩ (pushList r list) s = s := by
  have noSp : (pushList r list).getLsbD 13 = false := by
    rw [pushList, BitVec.getLsbD_append, if_neg (by decide)]
    cases r <;> rfl
  have noPc : (pushList r list).getLsbD 15 = false := by
    rw [pushList, BitVec.getLsbD_append, if_neg (by decide)]
    cases r <;> rfl
  have given : baseStoreFree ⟨true, false, true, regSp⟩ (pushList r list) = false := by
    rw [baseStoreFree_eq, show (pushList r list).getLsbD (regSp).toNat = false from noSp]
    rfl
  refine ⟨List.map_congr_left fun q hq => ?_, if_neg (by rw [given]; decide)⟩
  have notPc : q ≠ regPc := by
    rintro rfl
    rw [show (pushList r list).getLsbD 15 = true from mem_listRegs.mp hq] at noPc
    cases noPc
  rw [stmValue, given, storeValue, storeValueIn, if_neg notPc]
  rfl

/-- Settles O29: every form is one store of its list; the base is free where `baseStoreFree` says so. -/
theorem storeMultiples : Obligations.StoreMultiples := by
  intro s s1 open1 values begun done
  have same (ix : Index) (list : BitVec 16) : baseStoreFree ix list = open1 ix list := baseStoreFree_eq ix list
  have stored (ix : Index) (list : BitVec 16) : (listRegs list).map (stmValue ix list s) = values ix list := by
    refine List.map_congr_left fun r _ => ?_
    rw [stmValue, same]
    simp [storeValue, storeValueIn, State.stored, State.reg]
  have start (ix : Index) (list : BitVec 16) : stmFree ix list s = begun ix list := by
    rw [stmFree, same]
  refine ⟨?stm1, ?stm2, ?stmia, ?push⟩
  case stm1 =>
    intro c ix list hr h
    obtain ⟨hc, -, ho, hn⟩ := ready_iff.mp hr
    rw [← stored, ← start] at h
    exact (whenCond_pass hc).trans (storeMultiple_pass ho hn h)
  case stm2 =>
    intro c ix list hr hs h
    obtain ⟨hc, hz, ho, hn⟩ := ready_iff.mp hr
    have user : (listRegs list).map (storeValueIn s .usr) =
        (listRegs list).map fun r => if r = regPc then s.stored r else s.regIn .usr r := by
      refine List.map_congr_left fun r _ => ?_
      rw [storeValueIn, State.stored]
      split <;> rfl
    rw [← user] at h
    have next : s1.canAdvance = true := ((memWriteMany_memSide _ _ _ _).of_ok h).canAdvance.trans hn
    exact (whenCond_pass hc).trans ((require_pass hz).trans ((require_pass ho).trans ((require_pass hs).trans
      ((Res.finish_ok h).trans (advance_of_canAdvance next)))))
  case stmia =>
    intro rn list hr ix h
    obtain ⟨-, -, ho, hn⟩ := ready_iff.mp hr
    rw [← stored, ← start] at h
    exact storeMultiple_pass ho hn h
  case push =>
    intro r list hr ix h
    obtain ⟨-, -, ho, hn⟩ := ready_iff.mp hr
    obtain ⟨given, begins⟩ := stmValue_push (s := s) r list
    refine storeMultiple_pass ho hn ?_
    rw [given, begins]
    exact h

end Sys2Proof.Machine
end

section
/-!
Accesses that abort (O31; spec/20 R226; spec/21 R290, R298; spec/43 R603; spec/44 R657; spec/46 R722; spec/60 R866, R868).
-/
namespace Sys2Proof.Machine

variable {s s1 : State} {m : Multiple}

/-! ### A run of stores up to the transfer that aborts (spec/44 R654) -/

theorem writeAt_burst {loc : Located} (hr : loc.region = .ncnb) (va : Word) (size : BusSize) (v : BitVec 64)
    (priv ext locked : Bool) (b b' : Burst) (s : State) :
    writeAt loc va size v priv ext locked b s = writeAt loc va size v priv ext locked b' s := by
  unfold writeAt
  rw [hr]
  cases locked <;> cases s.wbufOn <;> rfl

/-- With the DCache off and nothing buffered no write is part of a burst. -/
theorem memWriteWide_burst (hu : s.uncached = true) (va : Word) (size : BusSize) (v : BitVec 64) (a : Access) (b b' : Burst) :
    memWriteWide va size v a b s = memWriteWide va size v a b' s := by
  unfold memWriteWide
  split
  · rfl
  · cases hl : locate va true a.priv s with
    | ok loc u =>
      obtain ⟨-, -, -, hr⟩ := locate_uncached hu hl
      rw [Res.bind, Res.bind, writeAt_burst hr va size v a.priv a.ext a.locked b b' u]
    | abort i u => rfl
    | refuse r => rfl

/-- The transfer a run of stores begins with: a pair of words or a word. -/
def firstTransfer (m : Multiple) (vs : List Word) (first : Bool) (va : Word) (s : State) : Res Unit :=
  if m.pairAt va = true ∧ 1 < vs.length then
    memWriteWide va .dword (vs.getD 1 0#32 ++ vs.getD 0 0#32) (m.access first va) .single s
  else memWriteWide va .word ((vs.getD 0 0#32).zeroExtend 64) (m.access first va) .single s

theorem firstTransfer_pair {va : Word} (hp : m.pairAt va = true) (v w : Word) (l : List Word) (first : Bool) (s : State) :
    firstTransfer m (v :: w :: l) first va s = memWriteWide va .dword (w ++ v) (m.access first va) .single s :=
  if_pos ⟨hp, by simp⟩

theorem firstTransfer_word {va : Word} {l : List Word} (hp : m.pairAt va = true → l = []) (v : Word) (first : Bool) (s : State) :
    firstTransfer m (v :: l) first va s = memWriteWide va .word (v.zeroExtend 64) (m.access first va) .single s := by
  refine if_neg ?_
  rintro ⟨pair, long⟩
  rw [hp pair, List.length_singleton] at long
  exact absurd long (by decide)

theorem writeRun_pair {va : Word} (hu : s.uncached = true) (hp : m.pairAt va = true) (v w : Word) (l : List Word)
    (first : Bool) : writeRun m (v :: w :: l) first va s =
      (memWriteWide va .dword (w ++ v) (m.access first va) .single s).bind fun _ u => writeRun m l false (va + 8#32) u := by
  rw [writeRun, if_pos hp, memWriteWide_burst hu _ _ _ _ _ .single]

theorem writeRun_word {va : Word} {l : List Word} (hu : s.uncached = true) (hp : m.pairAt va = true → l = []) (v : Word)
    (first : Bool) : writeRun m (v :: l) first va s =
      (memWriteWide va .word (v.zeroExtend 64) (m.access first va) .single s).bind
        fun _ u => writeRun m l false (va + 4#32) u := by
  cases l with
  | nil =>
    rw [writeRun, memWriteWide_burst hu _ _ _ _ _ .single]
    cases memWriteWide va .word (v.zeroExtend 64) (m.access first va) .single s <;> rfl
  | cons w l =>
    rw [writeRun, if_neg fun pair => absurd (hp pair) (by simp), memWriteWide_burst hu _ _ _ _ _ .single]

/-- The transfer that begins with the word `k` of a list. -/
theorem firstTransfer_drop (m : Multiple) (vs : List Word) (first : Bool) (k : Nat) (a : Word) (s : State) :
    firstTransfer m (vs.drop k) first a s =
      if m.pairAt a = true ∧ k + 1 < vs.length then
        memWriteWide a .dword (vs.getD (k + 1) 0#32 ++ vs.getD k 0#32) (m.access first a) .single s
      else memWriteWide a .word ((vs.getD k 0#32).zeroExtend 64) (m.access first a) .single s := by
  have word (j : Nat) : (vs.drop k).getD j 0#32 = vs.getD (k + j) 0#32 := by simp [List.getD_eq_getElem?_getD]
  have long : 1 < (vs.drop k).length ↔ k + 1 < vs.length := by
    rw [List.length_drop]
    omega
  simp only [firstTransfer, word, long, Nat.add_zero]

theorem firstTransfer_aborted {vs : List Word} {first : Bool} {va : Word} {e : AbortInfo} (hu : s.uncached = true)
    (h : firstTransfer m vs first va s = .abort e s1) : s1.mem = s.mem := by
  unfold firstTransfer at h
  split at h
  · exact memWriteWide_abort hu h
  · exact memWriteWide_abort hu h

/-- The run has stored its first `k` words when the transfer that follows them aborts. -/
def AbortsAt (m : Multiple) (vs : List Word) (first : Bool) (va : Word) (s s1 : State) (e : AbortInfo) (k : Nat) : Prop :=
  k < vs.length ∧ ∃ s2, writeRun m (vs.take k) first va s = .ok () s2 ∧ s2.uncached = true ∧
    firstTransfer m (vs.drop k) (first && k == 0) (va + BitVec.ofNat 32 (4 * k)) s2 = .abort e s1

theorem abortsAt_first {vs : List Word} {first : Bool} {va : Word} {e : AbortInfo} (hu : s.uncached = true) (hv : vs ≠ [])
    (h : firstTransfer m vs first va s = .abort e s1) : AbortsAt m vs first va s s1 e 0 := by
  refine ⟨List.length_pos_of_ne_nil hv, s, rfl, hu, ?_⟩
  simpa using h

/-- What is stored before it goes before the words stored. -/
theorem AbortsAt.after {vs before : List Word} {first : Bool} {va : Word} {u : State} {e : AbortInfo} {k n : Nat}
    (h : AbortsAt m vs false (va + BitVec.ofNat 32 (4 * n)) u s1 e k) (hn : before.length = n) (hpos : 0 < n)
    (run : writeRun m (before ++ vs.take k) first va s =
      writeRun m (vs.take k) false (va + BitVec.ofNat 32 (4 * n)) u) : AbortsAt m (before ++ vs) first va s s1 e (n + k) := by
  obtain ⟨hk, s2, stored, idle, aborts⟩ := h
  subst hn
  have address : va + BitVec.ofNat 32 (4 * (before.length + k)) =
      va + BitVec.ofNat 32 (4 * before.length) + BitVec.ofNat 32 (4 * k) := by
    rw [Nat.mul_add, BitVec.ofNat_add, BitVec.add_assoc]
  have notFirst : (first && before.length + k == 0) = false := by
    rw [beq_false_of_ne (by omega), Bool.and_false]
  refine ⟨by simpa using hk, s2, ?_, idle, ?_⟩
  · rw [List.take_length_add_append, run, stored]
  · rw [List.drop_length_add_append, notFirst, address]
    exact aborts

/-- A run that aborts does so at some transfer of it. -/
theorem writeRun_abort {e : AbortInfo} : ∀ (vs : List Word) (first : Bool) (va : Word) {s : State}, s.uncached = true →
    writeRun m vs first va s = .abort e s1 → ∃ k, AbortsAt m vs first va s s1 e k
  | [], _, _, _, _, h => by cases h
  | [v], first, va, s, hu, h => by
    have alone := firstTransfer_word (m := m) (va := va) (fun _ => rfl : _ → [] = []) v first s
    rw [writeRun_word hu fun _ => rfl] at h
    rcases Res.bind_abort h with now | ⟨_, u, -, later⟩
    · exact ⟨0, abortsAt_first hu (List.cons_ne_nil _ _) (alone.trans now)⟩
    · cases later
  | v :: w :: l, first, va, s, hu, h => by
    by_cases pair : m.pairAt va = true
    · rw [writeRun_pair hu pair] at h
      rcases Res.bind_abort h with now | ⟨_, u, done, later⟩
      · exact ⟨0, abortsAt_first hu (List.cons_ne_nil _ _) ((firstTransfer_pair pair v w l first s).trans now)⟩
      · obtain ⟨k, hk⟩ := writeRun_abort l false (va + 8#32) (memWriteWide_ok hu done).1 later
        exact ⟨2 + k, AbortsAt.after (before := [v, w]) hk rfl (by decide)
          ((writeRun_pair hu pair v w (l.take k) first).trans (by rw [done]; rfl))⟩
    · rw [writeRun_word hu (absurd · pair)] at h
      rcases Res.bind_abort h with now | ⟨_, u, done, later⟩
      · exact ⟨0, abortsAt_first hu (List.cons_ne_nil _ _) ((firstTransfer_word (absurd · pair) v first s).trans now)⟩
      · obtain ⟨k, hk⟩ := writeRun_abort (w :: l) false (va + 4#32) (memWriteWide_ok hu done).1 later
        exact ⟨1 + k, AbortsAt.after (before := [v]) hk rfl (by decide)
          ((writeRun_word hu (absurd · pair) v first).trans (by rw [done]; rfl))⟩

/-! ### The instructions -/

/-- A single load that runs is its access, and what follows it. -/
theorem exec_load_access {i : Instr} {a : Word} {size : BusSize} {p : Bool} (hr : s.runs i = true)
    (ht : loadTarget s i = some (a, size, p)) : ∃ k, exec i s = (memRead a size p s).finish k := by
  cases i
  case ldr c ix rd off =>
    cases ht
    by_cases hrd : rd = regPc
    · obtain ⟨hc, -, ho⟩ := runs_iff.mp hr
      exact ⟨_, (whenCond_pass hc).trans ((require_pass ho).trans (if_pos hrd))⟩
    · exact ⟨_, exec_ldr hr hrd⟩
  case ldrb =>
    cases ht
    exact ⟨_, exec_ldrb hr⟩
  case ldrt =>
    cases ht
    exact ⟨_, exec_ldrt hr⟩
  case ldrbt =>
    cases ht
    exact ⟨_, exec_ldrbt hr⟩
  case ldrh =>
    cases ht
    exact ⟨_, exec_ldrh hr⟩
  case ldrsb =>
    cases ht
    exact ⟨_, exec_ldrsb hr⟩
  case ldrsh =>
    cases ht
    exact ⟨_, exec_ldrsh hr⟩
  case tLdrPc | tLdrsbReg | tLdrReg | tLdrhReg | tLdrbReg | tLdrshReg | tLdrImm | tLdrbImm | tLdrhImm | tLdrSp =>
    cases ht
    exact ⟨_, rfl⟩
  all_goals cases ht

/-- A single store that runs is its access, and what follows it; STRH and the Thumb stores check the address before it. -/
theorem exec_store_access {i : Instr} {a : Word} {size : BusSize} {p : Bool} (hr : s.runs i = true)
    (ht : storeTarget s i = some (a, size, p))
    (ha : size = .half ∨ condOf i = none → s.alignOn = true ∨ misaligned size a = false) :
    ∃ k, exec i s = (memWrite a size (storeData s i) p s).finish k := by
  have checked (h : s.alignOn = true ∨ misaligned size a = false) : (s.alignOn || !misaligned size a) = true := by simpa using h
  cases i
  case str =>
    cases ht
    exact ⟨_, exec_str hr⟩
  case strb =>
    cases ht
    exact ⟨_, exec_strb hr⟩
  case strt =>
    cases ht
    exact ⟨_, exec_strt hr⟩
  case strbt =>
    cases ht
    exact ⟨_, exec_strbt hr⟩
  case strh =>
    cases ht
    have ok := checked (ha (.inl rfl))
    rw [misaligned_half] at ok
    exact ⟨_, (exec_strh hr).trans (require_pass ok)⟩
  case tStrReg | tStrhReg | tStrbReg | tStrImm | tStrbImm | tStrhImm | tStrSp =>
    cases ht
    exact ⟨_, require_pass (checked (ha (.inr rfl)))⟩
  all_goals cases ht

/-- A store of a list whose transfers abort. -/
theorem storeMultiple_aborted {ix : Index} {list : BitVec 16} {e : AbortInfo}
    (h : memWriteMany (.ordinary s.priv) ((listRegs list).map (stmValue ix list s)) (multipleStart ix list (s.reg ix.rn))
      (stmFree ix list s) = .abort e s1) : ∃ t, storeMultiple ix list s = .next t ∧ dataAborted s s1 e t :=
  finish_aborted ((memWriteMany_memSide _ _ _ _).mono fun _ side => (stmFree_memSide ix list).trans side) h

/-- Settles O31: every instruction is its access, whose abort is the Data Abort; a run of stores stops at the transfer that
aborts. -/
theorem abortedAccesses : Obligations.AbortedAccesses := by
  have passes {x y : Outcome State} {s s1 : State} {e : AbortInfo} (hxy : x = y) (hy : ∃ t, y = .next t ∧ dataAborted s s1 e t) :
      ∃ t, x = .next t ∧ dataAborted s s1 e t := hxy ▸ hy
  have list {m : Multiple} {n : Nat} {va : Word} {s s1 : State} {e : AbortInfo} {k : List Word → State → Outcome State}
      (h : memReadMany m n va s = .abort e s1) : ∃ t, (memReadMany m n va s).finish k = .next t ∧ dataAborted s s1 e t :=
    finish_aborted ((memReadMany_readSide _ _ _ _).mono fun _ side => side.toMemSide) h
  have words {m : Multiple} {vs : List Word} {va : Word} {s s1 : State} {e : AbortInfo} {k : Unit → State → Outcome State}
      (h : memWriteMany m vs va s = .abort e s1) : ∃ t, (memWriteMany m vs va s).finish k = .next t ∧ dataAborted s s1 e t :=
    finish_aborted (memWriteMany_memSide _ _ _ _) h
  refine ⟨?single, ?several, ?stored, ?alignment⟩
  case single =>
    rintro i s s1 a size p e hr (⟨ht, h⟩ | ⟨ht, h, ha⟩)
    · obtain ⟨k, he⟩ := exec_load_access hr ht
      exact passes he (finish_aborted ((memRead_readSide _ _ _ _).mono fun _ side => side.toMemSide) h)
    · obtain ⟨k, he⟩ := exec_store_access hr ht ha
      exact passes he (finish_aborted (memWrite_memSide _ _ _ _ _) h)
  case several =>
    intro i s s1 e hr h
    obtain ⟨hc, hz, ho⟩ := runs_iff.mp hr
    cases i
    case ldm1 => exact passes ((whenCond_pass hc).trans (require_pass ho)) (list h)
    case ldm2 =>
      exact passes ((whenCond_pass hc).trans ((require_pass hz).trans ((require_pass ho).trans (require_pass h.1)))) (list h.2)
    case ldm3 => exact passes ((whenCond_pass hc).trans ((require_pass ho).trans (require_pass h.1))) (list h.2)
    case tLdmia | tPop => exact passes (require_pass ho) (list h)
    case stm1 => exact passes ((whenCond_pass hc).trans (require_pass ho)) (storeMultiple_aborted h)
    case stm2 =>
      exact passes ((whenCond_pass hc).trans ((require_pass hz).trans ((require_pass ho).trans (require_pass h.1)))) (words h.2)
    case tStmia => exact passes (require_pass ho) (storeMultiple_aborted h)
    case tPush r list =>
      obtain ⟨given, begins⟩ := stmValue_push (s := s) r list
      refine passes (require_pass ho) (storeMultiple_aborted ?_)
      rw [given, begins]
      exact h
    case ldc c f =>
      obtain ⟨hcp, hcrd, allowed, h⟩ := h
      exact passes ((exec_ldc_cp14 hc hcp).trans ((if_pos hcrd).trans (require_pass allowed))) (list h)
    case stc c f =>
      obtain ⟨hcp, hcrd, allowed, h⟩ := h
      exact passes ((exec_stc_cp14 hc hcp).trans ((if_pos hcrd).trans (require_pass allowed))) (words h)
    all_goals exact h.elim
  case stored =>
    intro s s1 m vs va e hu h
    obtain ⟨k, hk, s2, stored, idle, aborts⟩ := writeRun_abort vs true va hu h
    exact ⟨k, s2, hk, stored, firstTransfer_aborted idle aborts, (firstTransfer_drop m vs (k == 0) k _ s2).symm.trans aborts⟩
  case alignment =>
    intro s a v vs n m size p ha
    refine ⟨fun hs hm => ?_, fun hm => ⟨memReadMany_misaligned ha hm m n, memWriteMany_misaligned ha hm m v vs⟩⟩
    have faults : faultsAlignment size a = true := (faultsAlignment_eq hs a).trans hm
    refine ⟨?_, memWriteWide_misaligned ha faults _ _ _, ?_⟩
    · rw [memRead, memReadX, memReadWide_misaligned ha faults]
      rfl
    · rw [memSwap, memReadX, memReadWide_misaligned ha faults]
      rfl

end Sys2Proof.Machine
end

section
/-!
SUPPORT. Two more things an access to memory leaves alone: the counter of free values only grows, and with debugging disabled the
debug unit is as it was (spec/20 R210, R211; spec/61 R907).
-/
namespace Sys2Proof.Machine

variable {s t u : State}

/-! ### Buses and buffers -/

theorem busRead_freeCount (m : BusMaster) (size : BusSize) (pa : Word) (prot : BitVec 4) (locked : Bool) (s : State) :
    s.freeCount ≤ (busRead m size pa prot locked s).2.freeCount := by
  unfold busRead
  split <;> simp

theorem busReadPair_freeCount (m : BusMaster) (pa : Word) (prot : BitVec 4) (s : State) :
    s.freeCount ≤ (busReadPair m pa prot s).2.2.freeCount := by
  unfold busReadPair
  split <;> simp [Nat.add_assoc]

theorem fillBeats_freeCount (m : BusMaster) (line : Word) (prot : BitVec 4) (l : List (BitVec 2))
    (acc : Vector Word 8 × State) : acc.2.freeCount ≤ (l.foldl (fillBeat m line prot) acc).2.freeCount := by
  induction l generalizing acc with
  | nil => exact Nat.le_refl _
  | cons k l ih =>
    refine Nat.le_trans ?_ (ih _)
    exact busReadPair_freeCount m _ prot acc.2

theorem readLine_freeCount (m : BusMaster) (pa : Word) (prot : BitVec 4) (s : State) :
    s.freeCount ≤ (readLine m pa prot s).2.freeCount := fillBeats_freeCount m _ prot _ (_, s)

theorem busWrite_freeCount (big : Bool) (size : BusSize) (pa : Word) (v : BitVec 64) (prot : BitVec 4) (locked : Bool)
    (burst : Burst) (s : State) : (busWrite big size pa v prot locked burst s).2.freeCount = s.freeCount := by
  unfold busWrite
  split <;> simp

theorem drainEntry_freeCount (s : State) (e : WriteEntry) : (drainEntry s e).freeCount = s.freeCount :=
  busWrite_freeCount _ _ _ _ _ _ _ s

theorem castoutBeats_freeCount (line : Word) (d : Vector Word 8) (l : List (BitVec 2)) (s : State) :
    s.freeCount ≤ (l.foldl (castoutBeat line d) s).freeCount := by
  induction l generalizing s with
  | nil => exact Nat.le_refl _
  | cons k l ih =>
    refine Nat.le_trans ?_ (ih _)
    unfold castoutBeat
    dsimp only
    split <;> simp

theorem drainCastout_freeCount (s : State) : s.freeCount ≤ (drainCastout s).freeCount := by
  unfold drainCastout
  split
  · exact Nat.le_refl _
  · show ({ s with castout := none } : State).freeCount ≤ _
    exact castoutBeats_freeCount _ _ _ _

theorem drainOne_freeCount (s : State) : s.freeCount ≤ (drainOne s).freeCount := by
  unfold drainOne
  split
  · exact drainCastout_freeCount s
  · rw [drainEntry_freeCount]
  · split
    · exact drainCastout_freeCount s
    · rw [drainEntry_freeCount]

theorem drains_freeCount (n : Nat) (s : State) : s.freeCount ≤ (drains n s).freeCount := by
  induction n generalizing s with
  | zero => exact Nat.le_refl _
  | succ n ih => exact Nat.le_trans (drainOne_freeCount s) (ih _)

theorem drainAll_freeCount (s : State) : s.freeCount ≤ (drainAll s).freeCount := by
  rw [drainAll_eq_drains]
  exact drains_freeCount _ s

theorem bufferWrite_freeCount (e : WriteEntry) (s : State) : s.freeCount ≤ (bufferWrite e s).freeCount := by
  obtain ⟨n, h, -⟩ := bufferWrite_drains s e
  rw [h]
  exact drains_freeCount n s

theorem castIfDirty_freeCount (o : Option CacheLine) (start : BitVec 2) (s : State) :
    s.freeCount ≤ (castIfDirty o start s).freeCount := by
  cases o with
  | none => exact Nat.le_refl _
  | some l =>
    obtain ⟨n, h, -⟩ := castIfDirty_drains l start s
    rw [h]
    exact drains_freeCount n s

/-! ### The DCache and translation -/

theorem dataFill_freeCount (mva pa : Word) (wb priv : Bool) (s : State) : s.freeCount ≤ (dataFill mva pa wb priv s).2.freeCount := by
  have filled := Nat.le_trans (drainAll_freeCount s) (readLine_freeCount .dbiu pa (hprot true priv wb true) (drainAll s))
  unfold dataFill
  generalize readLine .dbiu pa (hprot true priv wb true) (drainAll s) = r at filled ⊢
  exact Nat.le_succ_of_le (Nat.le_trans filled (castIfDirty_freeCount (r.2.dcache.occupant mva) 0#2 r.2))

theorem storeInCache_freeCount (loc : Located) (size : BusSize) (v : BitVec 64) (dirty : Bool) (s : State) :
    (storeInCache loc size v dirty s).freeCount = s.freeCount := by
  unfold storeInCache
  split
  · rfl
  · split <;> rfl

theorem walkRead_freeCount (side : Side) (pa : Word) (s : State) : s.freeCount ≤ (walkRead side pa s).2.freeCount := by
  have read {t s1 : State} {prot : BitVec 4} {o : Option (BitVec 64)} (ht : s.freeCount ≤ t.freeCount)
      (h : busRead side.master .word pa prot false t.useFree = (o, s1)) : s.freeCount ≤ s1.freeCount := by
    have more := busRead_freeCount side.master .word pa prot false t.useFree
    rw [h] at more
    exact Nat.le_trans ht (Nat.le_trans (Nat.le_succ _) more)
  unfold walkRead
  dsimp only
  cases side
  case instr =>
    split
    next h => exact read (Nat.le_refl _) h
    next h => exact read (Nat.le_refl _) h
  case data =>
    split
    next h => exact read (drainAll_freeCount s) h
    next h => exact read (drainAll_freeCount s) h

theorem freeCount_of_walkRead {side : Side} {pa : Word} {o : Option Word} (h : walkRead side pa s = (o, t)) :
    s.freeCount ≤ t.freeCount := by
  have more := walkRead_freeCount side pa s
  rw [h] at more
  exact more

theorem tableWalk_freeCount (side : Side) (mva : Word) (s : State) : s.freeCount ≤ (tableWalk side mva s).2.freeCount := by
  unfold tableWalk
  dsimp only
  split
  next h => exact freeCount_of_walkRead h
  next h =>
    have first := freeCount_of_walkRead h
    split
    · exact first
    · exact first
    all_goals
      split
      next h' => exact Nat.le_trans first (freeCount_of_walkRead h')
      next h' => exact Nat.le_trans first (freeCount_of_walkRead h')

theorem usePermission_freeCount (e : TlbEntry) (s : State) : s.freeCount ≤ (usePermission e s).freeCount := by
  unfold usePermission
  split
  · exact Nat.le_refl _
  · exact Nat.le_succ _

theorem translate_freeCount (side : Side) (mva : Word) (write priv : Bool) (s : State) :
    s.freeCount ≤ (translate side mva write priv s).2.freeCount := by
  unfold translate
  split
  · exact usePermission_freeCount _ s
  · exact Nat.le_refl _
  · split
    · exact Nat.le_refl _
    · have walked := tableWalk_freeCount side mva s
      split
      next h =>
        rw [h] at walked
        exact walked
      next h =>
        rw [h] at walked
        cases side <;> exact walked

/-! ### Up to the comparison with the watchpoints -/

/-- What an access changes before it is compared with the watchpoints: the memory side, and of the free values the counter, upwards. -/
structure Unwatched (s t : State) : Prop extends MemSide s t where
  same : t.dbg = s.dbg
  free : s.freeCount ≤ t.freeCount

theorem Unwatched.refl (s : State) : Unwatched s s := ⟨MemSide.refl s, rfl, Nat.le_refl _⟩

theorem Unwatched.trans (h : Unwatched s t) (k : Unwatched t u) : Unwatched s u :=
  ⟨h.toMemSide.trans k.toMemSide, k.same.trans h.same, Nat.le_trans h.free k.free⟩

theorem drainAll_unwatched (s : State) : Unwatched s (drainAll s) :=
  ⟨drainAll_memSide s, (drainAll_drainSide s).dbg, drainAll_freeCount s⟩

theorem dataFill_unwatched (mva pa : Word) (wb priv : Bool) (s : State) : Unwatched s (dataFill mva pa wb priv s).2 :=
  ⟨dataFill_memSide mva pa wb priv s, dataFill_dbg mva pa wb priv s, dataFill_freeCount mva pa wb priv s⟩

theorem readLine_unwatched (m : BusMaster) (pa : Word) (prot : BitVec 4) (s : State) : Unwatched s (readLine m pa prot s).2 :=
  ⟨(readLine_readSide m pa prot s).toMemSide, readLine_dbg m pa prot s, readLine_freeCount m pa prot s⟩

theorem storeInCache_unwatched (loc : Located) (size : BusSize) (v : BitVec 64) (dirty : Bool) (s : State) :
    Unwatched s (storeInCache loc size v dirty s) :=
  ⟨storeInCache_memSide loc size v dirty s, storeInCache_dbg loc size v dirty s,
    Nat.le_of_eq (storeInCache_freeCount loc size v dirty s).symm⟩

theorem bufferWrite_unwatched (e : WriteEntry) (s : State) : Unwatched s (bufferWrite e s) :=
  ⟨bufferWrite_memSide e s, bufferWrite_dbg e s, bufferWrite_freeCount e s⟩

theorem locate_unwatched (va : Word) (write priv : Bool) (s : State) : (locate va write priv s).All (Unwatched s) := by
  unfold locate
  dsimp only
  split
  · exact Unwatched.refl s
  · have moved : Unwatched s (translate .data (relocate s.cp15.pid va) write priv s).2 :=
      ⟨(translate_readSide ..).toMemSide, translate_dbg .., translate_freeCount ..⟩
    split
    next h =>
      rw [h] at moved
      exact moved
    next h =>
      rw [h] at moved
      exact moved
    · trivial

theorem readAt_unwatched (loc : Located) (va : Word) (size : BusSize) (priv ext locked : Bool) (s : State) :
    (readAt loc va size priv ext locked s).All (Unwatched s) := by
  unfold readAt
  split
  · split
    · exact Unwatched.refl s
    · exact dataFill_unwatched _ _ _ _ s
  · have read : Unwatched s
        (busRead .dbiu size (alignDown size loc.pa) (hprot true priv loc.b loc.c) locked (drainAll s)).2 :=
      (drainAll_unwatched s).trans ⟨(busRead_readSide ..).toMemSide, busRead_dbg .., busRead_freeCount ..⟩
    split
    next h =>
      rw [h] at read
      exact read
    next s1 h =>
      rw [h] at read
      cases ext
      · exact read.trans ⟨((useFree_readSide s1).trans (useFree_readSide _)).toMemSide, rfl, Nat.le_add_right s1.freeCount 2⟩
      · exact read

theorem writeUnbuffered_unwatched (loc : Located) (va : Word) (size : BusSize) (v : BitVec 64) (priv ext locked : Bool)
    (s : State) : (writeUnbuffered loc va size v priv ext locked s).All (Unwatched s) := by
  have written : Unwatched s (busWrite s.big size (alignDown size loc.pa) v (hprot true priv loc.b loc.c) locked .single
      (drainAll s)).2 :=
    (drainAll_unwatched s).trans ⟨busWrite_memSide .., busWrite_dbg .., Nat.le_of_eq (busWrite_freeCount ..).symm⟩
  unfold writeUnbuffered
  split
  next h =>
    rw [h] at written
    exact written.trans (storeInCache_unwatched loc size v false _)
  next h =>
    rw [h] at written
    cases ext
    · exact written.trans (storeInCache_unwatched loc size v false _)
    · exact written

theorem writeAt_unwatched (loc : Located) (va : Word) (size : BusSize) (v : BitVec 64) (priv ext locked : Bool) (burst : Burst)
    (s : State) : (writeAt loc va size v priv ext locked burst s).All (Unwatched s) := by
  unfold writeAt
  split
  · exact writeUnbuffered_unwatched _ va size v priv ext true s
  · split
    · exact writeUnbuffered_unwatched _ va size v priv ext false s
    · exact writeUnbuffered_unwatched loc va size v priv ext false s
    · exact (storeInCache_unwatched loc size v false s).trans (bufferWrite_unwatched _ _)
    · exact (storeInCache_unwatched loc size v false s).trans (bufferWrite_unwatched _ _)
    · split
      · exact storeInCache_unwatched loc size v true s
      · exact bufferWrite_unwatched _ s

/-! ### The accesses -/

/-- What an access changes: the memory side, the counter of free values upwards, and the debug unit only if debugging is enabled. -/
structure AccessSide (s t : State) : Prop extends MemSide s t where
  free : s.freeCount ≤ t.freeCount
  disabled : s.debugEnabled = false → t.dbg = s.dbg

theorem AccessSide.refl (s : State) : AccessSide s s := ⟨MemSide.refl s, Nat.le_refl _, fun _ => rfl⟩

theorem AccessSide.trans (h : AccessSide s t) (k : AccessSide t u) : AccessSide s u :=
  ⟨h.toMemSide.trans k.toMemSide, Nat.le_trans h.free k.free, fun off =>
    (k.disabled (h.toMemSide.debugEnabled.trans off)).trans (h.disabled off)⟩

theorem Unwatched.accessSide (h : Unwatched s t) : AccessSide s t := ⟨h.toMemSide, h.free, fun _ => h.same⟩

theorem useFree_accessSide (s : State) : AccessSide s s.useFree := ⟨(useFree_readSide s).toMemSide, Nat.le_succ _, fun _ => rfl⟩

theorem noteWatch_freeCount (va : Word) (size : BusSize) (load priv : Bool) (s : State) :
    (noteWatch va size load priv s).freeCount = s.freeCount := by
  unfold noteWatch
  split <;> rfl

theorem noteAccess_freeCount (va : Word) (size : BusSize) (load priv : Bool) (s : State) :
    (noteAccess va size load priv s).freeCount = s.freeCount := by
  unfold noteAccess
  split
  · rw [noteWatch_freeCount, noteWatch_freeCount]
  · exact noteWatch_freeCount _ _ _ _ s

theorem noteAccess_accessSide (va : Word) (size : BusSize) (load priv : Bool) (s : State) :
    AccessSide s (noteAccess va size load priv s) :=
  ⟨(noteAccess_readSide va size load priv s).toMemSide, Nat.le_of_eq (noteAccess_freeCount va size load priv s).symm,
    fun off => by rw [noteAccess_of_disabled off]⟩

/-- What each of two operations in turn changes. -/
theorem Res.All.bind_accessSide {α β : Type} {x : Res α} {k : α → State → Res β} (hx : x.All (AccessSide s))
    (hk : ∀ a t, (k a t).All (AccessSide t)) : (x.bind k).All (AccessSide s) :=
  hx.bind (fun a t h => (hk a t).mono fun _ later => h.trans later) fun _ h => h

theorem memReadWide_accessSide (va : Word) (size : BusSize) (a : Access) (s : State) :
    (memReadWide va size a s).All (AccessSide s) := by
  unfold memReadWide
  split
  · exact AccessSide.refl s
  · exact ((locate_unwatched ..).mono fun _ h => h.accessSide).bind_accessSide fun loc t =>
      ((readAt_unwatched ..).mono fun _ h => h.accessSide).bind_accessSide fun v u => noteAccess_accessSide ..

theorem memWriteWide_accessSide (va : Word) (size : BusSize) (v : BitVec 64) (a : Access) (burst : Burst) (s : State) :
    (memWriteWide va size v a burst s).All (AccessSide s) := by
  unfold memWriteWide
  split
  · exact AccessSide.refl s
  · exact ((locate_unwatched ..).mono fun _ h => h.accessSide).bind_accessSide fun loc t =>
      ((writeAt_unwatched ..).mono fun _ h => h.accessSide).bind_accessSide fun _ u => noteAccess_accessSide ..

theorem memReadX_accessSide (va : Word) (size : BusSize) (a : Access) (s : State) : (memReadX va size a s).All (AccessSide s) :=
  (memReadWide_accessSide va size a s).bind_accessSide fun _ t => AccessSide.refl t

theorem memRead_accessSide (va : Word) (size : BusSize) (priv : Bool) (s : State) :
    (memRead va size priv s).All (AccessSide s) := memReadX_accessSide va size _ s

theorem memWrite_accessSide (va : Word) (size : BusSize) (v : Word) (priv : Bool) (s : State) :
    (memWrite va size v priv s).All (AccessSide s) := memWriteWide_accessSide va size _ _ .single s

theorem memSwap_accessSide (va : Word) (size : BusSize) (v : Word) (priv : Bool) (s : State) :
    (memSwap va size v priv s).All (AccessSide s) :=
  (memReadX_accessSide ..).bind_accessSide fun _ _ =>
    Res.All.bind_accessSide (memWriteWide_accessSide ..) fun _ t => AccessSide.refl t

theorem readRun_accessSide (m : Multiple) (n : Nat) (first : Bool) (va : Word) (s : State) :
    (readRun m n first va s).2.All (AccessSide s) := by
  have one (size : BusSize) (first : Bool) (va : Word) (s : State) := memReadWide_accessSide va size (m.access first va) s
  fun_induction readRun m n first va s
  case case1 s => exact AccessSide.refl s
  case case2 h => exact (one ..).of_ok h
  case case3 h => exact (one ..).of_abort h
  case case5 h _ ih => exact ih.mono fun _ later => ((one ..).of_ok h).trans later
  case case6 h => exact (one ..).of_abort h
  case case8 h _ ih => exact ih.mono fun _ later => ((one ..).of_ok h).trans later
  case case9 h => exact (one ..).of_abort h
  all_goals trivial

theorem memReadMany_accessSide (m : Multiple) (n : Nat) (va : Word) (s : State) :
    (memReadMany m n va s).All (AccessSide s) :=
  (readRun_accessSide m n true va s).bind_accessSide fun _ t => AccessSide.refl t

theorem memWriteMany_accessSide (m : Multiple) (vs : List Word) (va : Word) (s : State) :
    (memWriteMany m vs va s).All (AccessSide s) := by
  unfold memWriteMany
  generalize true = first
  fun_induction writeRun m vs first va s
  case case1 s => exact AccessSide.refl s
  case case2 => exact memWriteWide_accessSide ..
  case case3 ih => exact (memWriteWide_accessSide ..).bind_accessSide fun _ t => ih t
  case case4 ih => exact (memWriteWide_accessSide ..).bind_accessSide fun _ t => ih t

theorem preload_accessSide (va : Word) (priv : Bool) (s : State) : (preload va priv s).All (AccessSide s) := by
  have located := locate_unwatched va false priv s
  unfold preload
  split
  next loc s1 h =>
    have moved := (located.of_ok h).accessSide
    split
    · exact moved
    · split
      · exact moved
      · split
        · exact moved.trans ((drainAll_unwatched s1).trans (readLine_unwatched ..)).accessSide
        · exact moved.trans (dataFill_unwatched ..).accessSide
  next h => exact (located.of_abort h).accessSide
  · trivial

end Sys2Proof.Machine
end

section
/-!
The frame of loads and stores apart from memory (O34; spec/43 R602, R603; spec/44 R651, R654, R657; spec/45 R680; spec/48): an
instruction that accesses memory ends with register writes after its accesses, or with the Data Abort of one of them.
-/
namespace Sys2Proof.Machine

variable {s t u v : State} {ds : List Reg}

/-! ### Register writes -/

/-- From `u` to `v` only the registers of `ds` in the bank of `u` are written. -/
structure RegFrame (u v : State) (ds : List Reg) : Prop where
  only : v = { u with regs := v.regs }
  kept : ∀ k : Fin 30, (∀ d ∈ ds, k ≠ regIndex u.bank d) → v.regs[k] = u.regs[k]

theorem RegFrame.refl (u : State) (ds : List Reg) : RegFrame u u ds := ⟨rfl, fun _ _ => rfl⟩

theorem RegFrame.bank (h : RegFrame u v ds) : v.bank = u.bank := by rw [h.only]; rfl

theorem RegFrame.setRegIn (h : RegFrame u v ds) {r : Reg} (hr : r ∈ ds) (w : Word) :
    RegFrame u (v.setRegIn u.bank r w) ds :=
  ⟨by rw [setRegIn_eq, h.only], fun k hk => (setRegIn_regs_ne v w (hk r hr)).trans (h.kept k hk)⟩

theorem RegFrame.setReg (h : RegFrame u v ds) {r : Reg} (hr : r ∈ ds) (w : Word) : RegFrame u (v.setReg r w) ds := by
  rw [State.setReg, h.bank]
  exact h.setRegIn hr w

theorem RegFrame.writeBase {ix : Index} (h : RegFrame u v ds) (hr : ix.rn ∈ ds) (w : Word) :
    RegFrame u (writeBase ix w v) ds := by
  unfold Machine.writeBase
  split
  · exact h.setReg hr w
  · exact h

theorem RegFrame.multipleWriteBase {ix : Index} (h : RegFrame u v ds) (hr : ix.rn ∈ ds) (list : BitVec 16) (w : Word) :
    RegFrame u (multipleWriteBase ix list w v) ds := by
  unfold Machine.multipleWriteBase
  split
  · exact h.setReg hr _
  · exact h

theorem RegFrame.setRegs {l : List (Reg × Word)} (h : RegFrame u v ds) (hl : ∀ p ∈ l, p.1 ∈ ds) :
    RegFrame u (setRegs u.bank v l) ds := by
  induction l generalizing v with
  | nil => exact h
  | cons p l ih =>
    obtain ⟨head, tail⟩ := List.forall_mem_cons.mp hl
    exact ih (h.setRegIn head p.2) tail

/-! ### How an instruction that accesses memory ends -/

/-- It is complete, with its registers written after its accesses. -/
def Completed (s t : State) (ds : List Reg) : Prop := ∃ u v, AccessSide s u ∧ RegFrame u v ds ∧ t = v.moveOn

/-- An access has aborted. -/
def Aborted (s t : State) : Prop := ∃ e u, AccessSide s u ∧ dataAbort e u = .next t

/-- Where it gives a next state, it ends in one of the two ways. -/
def Ends (s : State) (ds : List Reg) (x : Outcome State) : Prop := ∀ t, x = .next t → Completed s t ds ∨ Aborted s t

theorem Ends.advance (hs : AccessSide s u) (hv : RegFrame u v ds) : Ends s ds (advance v) := fun _ e =>
  .inl ⟨u, v, hs, hv, advance_next e⟩

theorem Ends.whenCond {c : Cond} {k : Outcome State} (hk : Ends s ds k) : Ends s ds (whenCond c s k) := by
  unfold Machine.whenCond
  split
  · exact hk
  · exact .advance (AccessSide.refl s) (RegFrame.refl s ds)

theorem Ends.require {ok : Bool} {r : Refusal} {k : Outcome State} (hk : Ends s ds k) : Ends s ds (require ok r k) :=
  fun t e => hk t (require_next e).2

theorem Ends.finish {α : Type} {x : Res α} {k : α → State → Outcome State} (hx : x.All (AccessSide s))
    (hk : ∀ a u, AccessSide s u → Ends s ds (k a u)) : Ends s ds (x.finish k) := by
  intro t e
  rcases Res.finish_next e with ⟨a, u, ok, e⟩ | ⟨i, u, abort, e⟩
  · exact hk a u (hx.of_ok ok) t e
  · exact .inr ⟨i, u, hx.of_abort abort, e⟩

/-! ### The templates -/

theorem loadedValue_accessSide (e : Extend) (va w : Word) (s : State) : AccessSide s (loadedValue e va w s).2 := by
  unfold loadedValue
  split
  · exact useFree_accessSide s
  · exact AccessSide.refl s

theorem thumbLoaded_accessSide (e : Extend) (va w : Word) (s : State) : AccessSide s (thumbLoaded e va w s).2 := by
  unfold thumbLoaded
  split
  · exact useFree_accessSide s
  · exact AccessSide.refl s

theorem stmFree_accessSide (ix : Index) (list : BitVec 16) (s : State) : AccessSide s (stmFree ix list s) := by
  unfold stmFree
  split
  · exact useFree_accessSide s
  · exact AccessSide.refl s

theorem loadReg_ends (e : Extend) (priv : Bool) (ix : Index) (o : Word) (rd : Reg) (s : State) :
    Ends s [rd, ix.rn] (loadReg e priv ix o rd s) :=
  .finish (memRead_accessSide ..) fun _ _ h => .advance (h.trans (loadedValue_accessSide ..))
    (((RegFrame.refl _ _).writeBase (by simp) _).setReg (by simp) _)

theorem storeReg_ends (size : BusSize) (priv : Bool) (ix : Index) (o w : Word) (s : State) :
    Ends s [ix.rn] (storeReg size priv ix o w s) :=
  .finish (memWrite_accessSide ..) fun _ _ h => .advance h ((RegFrame.refl _ _).writeBase (by simp) _)

theorem thumbLoad_ends (e : Extend) (va : Word) (rd : LoReg) (s : State) : Ends s [lo rd] (thumbLoad e va rd s) :=
  .finish (memRead_accessSide ..) fun _ _ h => .advance (h.trans (thumbLoaded_accessSide ..))
    ((RegFrame.refl _ _).setReg (by simp) _)

theorem thumbStore_ends (size : BusSize) (va : Word) (rd : LoReg) (s : State) : Ends s [] (thumbStore size va rd s) :=
  .require (.finish (memWrite_accessSide ..) fun _ _ h => .advance h (RegFrame.refl _ _))

theorem loadMultiple_ends {list : BitVec 16} (ix : Index) (hpc : list.getLsbD 15 = false) (s : State) :
    Ends s (ix.rn :: listRegs list) (loadMultiple ix list s) := by
  refine .finish (memReadMany_accessSide ..) fun vs u h => ?_
  dsimp only
  rw [if_neg (by rw [hpc]; decide), ← h.toMemSide.bank]
  exact .advance h (((RegFrame.refl _ _).multipleWriteBase (by simp) _ _).setRegs fun p hp =>
    List.mem_cons_of_mem _ (List.of_mem_zip hp).1)

theorem storeMultiple_ends (ix : Index) (list : BitVec 16) (s : State) : Ends s [ix.rn] (storeMultiple ix list s) :=
  .finish ((memWriteMany_accessSide ..).mono fun _ h => (stmFree_accessSide ix list s).trans h) fun _ _ h =>
    .advance h ((RegFrame.refl _ _).multipleWriteBase (by simp) _ _)

theorem swapOp_ends (e : Extend) (c : Cond) (rn rd : Reg) (z : BitVec 4) (rm : Reg) (s : State) :
    Ends s [rd] (swapOp e c rn rd z rm s) :=
  .whenCond (.require (.require (.finish (memSwap_accessSide ..) fun _ _ h => .advance h ((RegFrame.refl _ _).setReg (by simp) _))))

theorem popList_noPc (list : BitVec 8) : (popList false list).getLsbD 15 = false := by
  rw [popList, BitVec.getLsbD_append, if_neg (by decide)]
  rfl

/-- Every load and store that `accessDests` names ends with its registers written, or with a Data Abort. -/
theorem exec_ends {i : Instr} (hd : accessDests i = some ds) : Ends s ds (exec i s) := by
  cases i
  case ldr c ix rd off =>
    obtain ⟨notPc, e⟩ := Option.ite_none_left_eq_some.mp hd
    cases e
    refine .whenCond (.require ?_)
    rw [if_neg notPc]
    exact loadReg_ends _ _ _ _ _ _
  case ldrb | ldrt | ldrbt =>
    cases hd
    exact .whenCond (.require (loadReg_ends _ _ _ _ _ _))
  case ldrh | ldrsb | ldrsh =>
    cases hd
    exact .whenCond (.require (.require (loadReg_ends _ _ _ _ _ _)))
  case ldrd c ix rd off =>
    obtain ⟨even, e⟩ := Option.ite_none_left_eq_some.mp hd
    cases e
    refine .whenCond (.require ?_)
    rw [if_neg even]
    exact .require (.require (.finish (memReadMany_accessSide ..) fun _ _ h => .advance h
      ((((RegFrame.refl _ _).writeBase (by simp) _).setReg (by simp) _).setReg (by simp [pairHigh]) _)))
  case str | strb | strt | strbt =>
    cases hd
    exact .whenCond (.require (storeReg_ends _ _ _ _ _ _))
  case strh =>
    cases hd
    exact .whenCond (.require (.require (.require (storeReg_ends _ _ _ _ _ _))))
  case strd c ix rd off =>
    obtain ⟨even, e⟩ := Option.ite_none_left_eq_some.mp hd
    cases e
    refine .whenCond (.require ?_)
    rw [if_neg even]
    exact .require (.require (.finish (memWriteMany_accessSide ..) fun _ _ h => .advance h
      ((RegFrame.refl _ _).writeBase (by simp) _)))
  case swp | swpb =>
    cases hd
    exact swapOp_ends _ _ _ _ _ _ _
  case pld =>
    cases hd
    exact .require (.finish (preload_accessSide ..) fun _ _ h => .advance h (RegFrame.refl _ _))
  case ldm1 c ix list =>
    obtain ⟨noPc, e⟩ := Option.ite_none_left_eq_some.mp hd
    cases e
    exact .whenCond (.require (loadMultiple_ends _ (Bool.eq_false_of_not_eq_true noPc) _))
  case stm1 =>
    cases hd
    exact .whenCond (.require (storeMultiple_ends _ _ _))
  case stm2 =>
    cases hd
    exact .whenCond (.require (.require (.require (.finish (memWriteMany_accessSide ..) fun _ _ h =>
      .advance h (RegFrame.refl _ _)))))
  case tLdrPc | tLdrsbReg | tLdrReg | tLdrhReg | tLdrbReg | tLdrshReg | tLdrImm | tLdrbImm | tLdrhImm | tLdrSp =>
    cases hd
    exact thumbLoad_ends _ _ _ _
  case tStrReg | tStrhReg | tStrbReg | tStrImm | tStrbImm | tStrhImm | tStrSp =>
    cases hd
    exact thumbStore_ends _ _ _ _
  case tPush | tStmia =>
    cases hd
    exact .require (storeMultiple_ends _ _ _)
  case tPop r list =>
    cases r with
    | true => cases hd
    | false =>
      cases hd
      exact .require (loadMultiple_ends _ (popList_noPc list) _)
  case tLdmia rn list =>
    cases hd
    exact .require (loadMultiple_ends _ (by rw [BitVec.getLsbD_append]; rfl) _)
  all_goals cases hd

/-! ### What each ending leaves alone -/

/-- An exception changes the registers and the status, empties the prefetch buffer and may remember a vector to catch. -/
theorem takeException_eq (e : Exc) (link : Word) (s : State) : takeException e link s =
    { s with
      regs := (takeException e link s).regs, pc := (takeException e link s).pc, cpsr := (takeException e link s).cpsr
      spsr := (takeException e link s).spsr, prefetch := []
      dbg := { s.dbg with catchAt := (takeException e link s).dbg.catchAt } } := by
  cases e <;> rfl

/-- A Data Abort records its fault, and is taken or, in debug state, noted. -/
theorem dataAbort_eq (e : AbortInfo) (s : State) : ∃ (f : BitVec 8) (n : Nat), s.freeCount ≤ n ∧
    let r : State := { s with
      cp15 := { s.cp15 with dfsr := f, dfar := e.va, ifar := s.pc + s.pcOffset }, freeCount := n
      dbg := { s.dbg with watch := none } }
    dataAbort e s = if s.halted then
        .next { r with dbg := setMoe { r.dbg with dscr := r.dbg.dscr ||| 0x20#32 } 0b110#3 }
      else .next (takeException .dataAbort (s.pc + 8#32) r) := by
  unfold dataAbort recordDataFault
  cases e.domain with
  | none => exact ⟨_, s.freeCount + 1, Nat.le_succ _, rfl⟩
  | some d => exact ⟨_, s.freeCount, Nat.le_refl _, rfl⟩

/-- In debug state an abort changes MOE and the sticky bit of the DSCR. -/
theorem stickyAbort_getLsbD (d : Debug) {k : Nat} (hk : k ∉ [2, 3, 4, 5]) :
    (setMoe { d with dscr := d.dscr ||| 0x20#32 } 0b110#3).dscr.getLsbD k = d.dscr.getLsbD k := by
  simp only [List.mem_cons, List.not_mem_nil, or_false, not_or] at hk
  rw [setMoe_getLsbD _ _ (by omega)]
  have other : (BitVec.twoPow 32 5).getLsbD k = false := by
    rw [BitVec.getLsbD_twoPow, decide_eq_false (p := 5 = k) (by omega), Bool.and_false]
  show (d.dscr ||| BitVec.twoPow 32 5).getLsbD k = _
  rw [BitVec.getLsbD_or, other, Bool.or_false]

/-- An access leaves of the debug unit all but a noted watchpoint. -/
theorem MemSide.dbg_eq (h : MemSide s u) : u.dbg = { s.dbg with watch := u.dbg.watch } := by
  have same : u.dbg = { ({ u.dbg with watch := none } : Debug) with watch := u.dbg.watch } := rfl
  rw [h.dbg] at same
  exact same

theorem MemSide.dbg_frame (h : MemSide s u) :
    u.dbg = { s.dbg with dscr := u.dbg.dscr, watch := u.dbg.watch, catchAt := u.dbg.catchAt } := by
  rw [h.dbg_eq]

theorem MemSide.cp15_eq (h : MemSide s u) :
    u.cp15 = { s.cp15 with dfsr := u.cp15.dfsr, dfar := u.cp15.dfar, ifar := u.cp15.ifar } := by
  rw [h.cp15]

theorem MemSide.moveOn_pc (h : MemSide s u) : u.moveOn.pc = s.moveOn.pc := by
  rw [State.moveOn, State.moveOn, State.instrSize, State.instrSize, h.halted, h.thumb, h.pc]

/-- Settles O34: both ways an access instruction can end keep the frame. -/
theorem accessRegisterFrame : Obligations.AccessRegisterFrame := by
  intro i s t ds hd ht
  rcases exec_ends hd t ht with ⟨u, v, side, wrote, rfl⟩ | ⟨e, u, side, abort⟩
  case inl =>
    obtain ⟨regs, rfl⟩ : ∃ regs, v = { u with regs := regs } := ⟨_, wrote.only⟩
    have kept (k : Fin 30) (hk : ∀ d ∈ ds, k ≠ regIndex s.bank d) : regs[k] = s.regs[k] := by
      rw [← side.regs]
      exact wrote.kept k (by rwa [side.toMemSide.bank])
    have catchAt : u.dbg.catchAt = s.dbg.catchAt := by rw [side.toMemSide.dbg_eq]
    exact ⟨fun k hk _ => kept k hk, fun k _ => congrArg (fun x : Vector Word 5 => x[k]) side.spsr, side.toMemSide.cp15_eq,
      side.toMemSide.dbg_frame, fun k _ => congrArg (fun w : Word => w.getLsbD k) side.dscr, fun _ => side.dscr,
      fun _ _ _ => ⟨kept, side.cpsr, side.spsr, side.cp15, side.toMemSide.moveOn_pc, side.prefetch, catchAt, side.disabled⟩,
      side.memMap, side.free, side.pm, side.tap, side.pins, side.run, side.cpHistory, side.inputs⟩
  case inr =>
    obtain ⟨f, n, grows, eq⟩ := dataAbort_eq e u
    have free := Nat.le_trans side.free grows
    have same := side.toMemSide.halted
    rw [eq] at abort
    by_cases halted : u.halted = true
    · rw [if_pos halted] at abort
      cases abort
      have off : s.halted ≠ false := by rw [← same, halted]; decide
      refine ⟨fun k _ _ => congrArg (fun x : Vector Word 30 => x[k]) side.regs,
        fun k _ => congrArg (fun x : Vector Word 5 => x[k]) side.spsr, ?_, ?_, fun k hk => ?_, fun no => absurd no off,
        fun no => absurd no off, side.memMap, free, side.pm, side.tap, side.pins, side.run, side.cpHistory, side.inputs⟩
      · show { u.cp15 with dfsr := f, dfar := e.va, ifar := u.pc + u.pcOffset } = _
        rw [side.cp15]
      · dsimp only
        rw [side.toMemSide.dbg_eq]
        rfl
      · exact (stickyAbort_getLsbD { u.dbg with watch := none } hk).trans (congrArg (fun w : Word => w.getLsbD k) side.dscr)
    · rw [if_neg halted] at abort
      cases abort
      refine ⟨fun k _ hk => (takeException_regs_ne .dataAbort _ _ hk).trans (congrArg (fun x : Vector Word 30 => x[k]) side.regs),
        fun k hk => ?_, ?_, ?_, fun k hk => ?_, fun _ => side.dscr,
        fun no mode stay => ?_, side.memMap, free, side.pm, side.tap, side.pins, side.run, side.cpHistory, side.inputs⟩
      · refine (takeException_spsr_ne .dataAbort _ _ fun here => hk (Option.some.inj here)).trans ?_
        exact congrArg (fun x : Vector Word 5 => x[k]) side.spsr
      · rw [takeException_cp15]
        show { u.cp15 with dfsr := f, dfar := e.va, ifar := u.pc + u.pcOffset } = _
        rw [side.cp15]
      · rw [takeException_eq]
        dsimp only
        rw [side.toMemSide.dbg_eq]
      · exact congrArg (fun w : Word => w.getLsbD k) side.dscr
      · exact absurd (stay.symm.trans (takeException_mode .dataAbort _ _)) mode

end Sys2Proof.Machine
end

section
/-!
The frame of the instructions that work on registers and flags only (O16; spec/40 R500, R530; spec/41 R551; spec/47 R774).
-/
namespace Sys2Proof.Machine

variable {s t u : State} {ds : List Reg} {fs : List Nat}

/-! ### Writes of registers and flags -/

/-- From `s` to `t` only the registers of `ds` in the bank of `s`, the bits `fs` of the CPSR and the pc are written. -/
structure DataFrame (s t : State) (ds : List Reg) (fs : List Nat) : Prop where
  regs : ∀ k : Fin 30, (∀ d ∈ ds, k ≠ regIndex s.bank d) → t.regs[k] = s.regs[k]
  bits : ∀ n, n ∉ fs → t.cpsr.getLsbD n = s.cpsr.getLsbD n
  only : t = { s with regs := t.regs, cpsr := t.cpsr, pc := t.pc }
  bank : t.bank = s.bank

theorem DataFrame.refl (s : State) (ds : List Reg) (fs : List Nat) : DataFrame s s ds fs := ⟨fun _ _ => rfl, fun _ _ => rfl, rfl, rfl⟩

theorem DataFrame.setReg (h : DataFrame s u ds fs) {r : Reg} (hr : r ∈ ds) (v : Word) : DataFrame s (u.setReg r v) ds fs where
  regs k hk := (setRegIn_regs_ne u v (by rw [h.bank]; exact hk r hr)).trans (h.regs k hk)
  bits n hn := by rw [State.setReg_cpsr, h.bits n hn]
  only := by
    rw [State.setReg, setRegIn_eq, h.only]
  bank := (State.bank_congr (State.mode_congr (State.setReg_cpsr u r v))).trans h.bank

/-- C and V may be written as they are. -/
theorem DataFrame.setNZCV (h : DataFrame s u ds fs) {n z c v : Bool} (hN : 31 ∈ fs) (hZ : 30 ∈ fs)
    (hC : 29 ∈ fs ∨ c = u.flagC) (hV : 28 ∈ fs ∨ v = u.flagV) : DataFrame s (u.setNZCV n z c v) ds fs where
  regs := h.regs
  bits k hk := by
    refine Eq.trans ?_ (h.bits k hk)
    have notN : k ≠ 31 := fun e => hk (e ▸ hN)
    have notZ : k ≠ 30 := fun e => hk (e ▸ hZ)
    rcases Nat.lt_or_ge k 28 with low | high
    · exact u.setNZCV_getLsbD n z c v k low
    rcases Nat.lt_or_ge k 32 with inside | outside
    · obtain rfl | rfl : k = 28 ∨ k = 29 := by omega
      · exact (u.setNZCV_flagV n z c v).trans (hV.resolve_left hk)
      · exact (u.setNZCV_flagC n z c v).trans (hC.resolve_left hk)
    · rw [BitVec.getLsbD_of_ge _ _ outside, BitVec.getLsbD_of_ge _ _ outside]
  only := by
    rw [State.setNZCV, h.only]
  bank := (u.setNZCV_bank n z c v).trans h.bank

theorem DataFrame.setQ (h : DataFrame s u ds fs) (hQ : 27 ∈ fs) (q : Bool) : DataFrame s (u.setQ q) ds fs where
  regs := h.regs
  bits k hk := (u.setQ_getLsbD q k fun e => hk (e ▸ hQ)).trans (h.bits k hk)
  only := by
    rw [State.setQ, h.only]
  bank := (u.setQ_bank q).trans h.bank

theorem DataFrame.moveOn (h : DataFrame s u ds fs) : DataFrame s u.moveOn ds fs where
  regs := h.regs
  bits := h.bits
  only := by
    rw [State.moveOn, h.only]
  bank := h.bank

/-! ### The templates -/

/-- Where an instruction gives a next state, it keeps the frame. -/
def Frames (s : State) (ds : List Reg) (fs : List Nat) (x : Outcome State) : Prop := ∀ t, x = .next t → DataFrame s t ds fs

theorem Frames.advance (h : DataFrame s u ds fs) : Frames s ds fs (advance u) := fun _ e => by
  rw [advance_next e]
  exact h.moveOn

theorem Frames.whenCond {c : Cond} {k : Outcome State} (hk : Frames s ds fs k) : Frames s ds fs (whenCond c s k) := by
  unfold Machine.whenCond
  split
  · exact hk
  · exact .advance (DataFrame.refl s ds fs)

theorem Frames.require {ok : Bool} {r : Refusal} {k : Outcome State} (hk : Frames s ds fs k) : Frames s ds fs (require ok r k) :=
  fun t e => hk t (require_next e).2

/-- A result, with its flags if S is set. -/
theorem writeResult_frames {rd : Reg} {sf : Bool} {a : Alu} (hrd : rd ≠ regPc) (hfs : 31 ∈ fs ∧ 30 ∈ fs ∧ 29 ∈ fs)
    (hV : 28 ∈ fs ∨ a.v = s.flagV) : Frames s [rd] (if sf then fs else []) (writeResult sf rd a s) := by
  obtain ⟨hN, hZ, hC⟩ := hfs
  rw [writeResult, if_neg hrd]
  cases sf
  · exact .advance ((DataFrame.refl s _ _).setReg (by simp) _)
  · exact .advance (((DataFrame.refl s _ _).setNZCV hN hZ (.inl hC) hV).setReg (by simp) _)

theorem dataOp_frames {c : Cond} {sf : Bool} {rn rd : Reg} {op : Op2} {f : AluFn} (hrd : rd ≠ regPc)
    (hfs : 31 ∈ fs ∧ 30 ∈ fs ∧ 29 ∈ fs) (hV : 28 ∈ fs ∨ ∀ n m x v, (f n m x v).v = v) :
    Frames s [rd] (if sf then fs else []) (dataOp c sf rn rd op f s) :=
  .whenCond (.require (writeResult_frames hrd hfs (hV.imp_right fun keeps => keeps _ _ _ _)))

theorem moveOp_frames {c : Cond} {sf : Bool} {z : BitVec 4} {rd : Reg} {op : Op2} {f : Word → Word} (hrd : rd ≠ regPc) :
    Frames s [rd] (if sf then [31, 30, 29] else []) (moveOp c sf z rd op f s) :=
  .whenCond (.require (.require (writeResult_frames hrd (by simp) (.inr rfl))))

theorem compareOp_frames {c : Cond} {rn : Reg} {z : BitVec 4} {op : Op2} {f : AluFn} (hfs : 31 ∈ fs ∧ 30 ∈ fs ∧ 29 ∈ fs)
    (hV : 28 ∈ fs ∨ ∀ n m x v, (f n m x v).v = v) : Frames s [] fs (compareOp c rn z op f s) :=
  .whenCond (.require (.require (.advance ((DataFrame.refl s _ _).setNZCV hfs.1 hfs.2.1 (.inl hfs.2.2)
    (hV.imp_right fun keeps => keeps _ _ _ _)))))

theorem saturatingOp_frames {c : Cond} {rn rd rm : Reg} {z : BitVec 4} {f : Int → Int → Saturated} :
    Frames s [rd] [27] (saturatingOp c rn rd z rm f s) :=
  .whenCond (.require (.require (.advance (((DataFrame.refl s _ _).setQ (by simp) _).setReg (by simp) _))))

theorem writeProduct_frames {sf : Bool} {rd : Reg} {p : Word} :
    Frames s [rd] (if sf then [31, 30] else []) (writeProduct sf rd p s) := by
  refine .advance (.setReg ?_ (by simp) _)
  cases sf
  · exact DataFrame.refl s _ _
  · exact (DataFrame.refl s _ _).setNZCV (by simp) (by simp) (.inr rfl) (.inr rfl)

theorem writeLong_frames {sf : Bool} {hi lo : Reg} {p : BitVec 64} :
    Frames s [hi, lo] (if sf then [31, 30] else []) (writeLong sf hi lo p s) := by
  refine .advance (.setReg (.setReg ?_ (by simp) _) (by simp) _)
  cases sf
  · exact DataFrame.refl s _ _
  · exact (DataFrame.refl s _ _).setNZCV (by simp) (by simp) (.inr rfl) (.inr rfl)

theorem accumulateQ_frames {rd rn : Reg} {p : Int} : Frames s [rd] [27] (accumulateQ rd p rn s) :=
  .advance (((DataFrame.refl s _ _).setQ (by simp) _).setReg (by simp) _)

theorem thumbAlu_frames {rd : LoReg} {a : Alu} : Frames s [lo rd] [31, 30, 29, 28] (thumbAlu rd a s) :=
  .advance (((DataFrame.refl s _ _).setNZCV (by simp) (by simp) (.inl (by simp)) (.inl (by simp))).setReg (by simp) _)

theorem thumbShift_frames {rd : LoReg} {r : Shifted} : Frames s [lo rd] [31, 30, 29] (thumbShift rd r s) :=
  .advance (((DataFrame.refl s _ _).setNZCV (by simp) (by simp) (.inl (by simp)) (.inr rfl)).setReg (by simp) _)

theorem thumbLogic_frames {rd : LoReg} {v : Word} : Frames s [lo rd] [31, 30] (thumbLogic rd v s) :=
  .advance (((DataFrame.refl s _ _).setNZCV (by simp) (by simp) (.inr rfl) (.inr rfl)).setReg (by simp) _)

theorem thumbHigh_frames {rd : Reg} (hrd : rd ≠ regPc) {v : Word} : Frames s [rd] [] (thumbHigh rd v s) := by
  rw [thumbHigh, if_neg hrd]
  exact .advance ((DataFrame.refl s _ _).setReg (by simp) _)

theorem setAlu_frames {a : Alu} : Frames s [] [31, 30, 29, 28] (advance (s.setAlu a)) :=
  .advance ((DataFrame.refl s _ _).setNZCV (by simp) (by simp) (.inl (by simp)) (.inl (by simp)))

theorem setNZ_frames {v : Word} : Frames s [] [31, 30] (advance (s.setNZ v)) :=
  .advance ((DataFrame.refl s _ _).setNZCV (by simp) (by simp) (.inr rfl) (.inr rfl))

theorem setReg_frames {rd : Reg} {v : Word} : Frames s [rd] [] (advance (s.setReg rd v)) :=
  .advance ((DataFrame.refl s _ _).setReg (by simp) _)

/-! ### The instructions -/

/-- Every instruction that `dataDests` names keeps the frame of its destinations and flags. -/
theorem exec_frames {i : Instr} (hd : dataDests i = some ds) : Frames s ds (dataFlags i) (exec i s) := by
  cases i
  case and | eor | orr | bic =>
    obtain ⟨hrd, e⟩ := Option.ite_none_left_eq_some.mp hd
    cases e
    exact dataOp_frames (fs := [31, 30, 29]) hrd (by simp) (.inr fun _ _ _ _ => rfl)
  case sub | rsb | add | adc | sbc | rsc =>
    obtain ⟨hrd, e⟩ := Option.ite_none_left_eq_some.mp hd
    cases e
    exact dataOp_frames (fs := [31, 30, 29, 28]) hrd (by simp) (.inl (by simp))
  case mov | mvn =>
    obtain ⟨hrd, e⟩ := Option.ite_none_left_eq_some.mp hd
    cases e
    exact moveOp_frames hrd
  case tst | teq =>
    cases hd
    exact compareOp_frames (fs := [31, 30, 29]) (by simp) (.inr fun _ _ _ _ => rfl)
  case cmp | cmn =>
    cases hd
    exact compareOp_frames (fs := [31, 30, 29, 28]) (by simp) (.inl (by simp))
  case clz =>
    cases hd
    exact .whenCond (.require (.require setReg_frames))
  case qadd =>
    cases hd
    exact saturatingOp_frames (f := fun m n => saturate (m + n))
  case qsub =>
    cases hd
    exact saturatingOp_frames (f := fun m n => saturate (m - n))
  case qdadd | qdsub =>
    cases hd
    exact saturatingOp_frames
  case mul =>
    cases hd
    exact .whenCond (.require (.require writeProduct_frames))
  case mla =>
    cases hd
    exact .whenCond (.require writeProduct_frames)
  case umull | umlal | smull | smlal =>
    cases hd
    exact .whenCond (.require writeLong_frames)
  case smlalxy =>
    cases hd
    exact .whenCond (.require (writeLong_frames (sf := false)))
  case smulxy | smulwy =>
    cases hd
    exact .whenCond (.require (.require setReg_frames))
  case smlaxy | smlawy =>
    cases hd
    exact .whenCond (.require accumulateQ_frames)
  case tAddReg | tSubReg | tAddImm3 | tSubImm3 | tAddImm8 | tSubImm8 | tAdc | tSbc | tNeg =>
    cases hd
    exact thumbAlu_frames
  case tLslImm | tLsrImm | tAsrImm | tLslReg | tLsrReg | tAsrReg | tRor =>
    cases hd
    exact thumbShift_frames
  case tMovImm | tAnd | tEor | tOrr | tMul | tBic | tMvn =>
    cases hd
    exact thumbLogic_frames
  case tCmpImm | tCmpReg | tCmn =>
    cases hd
    exact setAlu_frames
  case tTst =>
    cases hd
    exact setNZ_frames
  case tCmpHi =>
    cases hd
    exact .require setAlu_frames
  case tAddHi | tMovHi =>
    obtain ⟨hrd, e⟩ := Option.ite_none_left_eq_some.mp hd
    cases e
    exact .require (thumbHigh_frames hrd)
  case tAddPc | tAddSpRd | tAddSp | tSubSp | tBlPrefix =>
    cases hd
    exact setReg_frames
  all_goals cases hd

/-- Settles O16: `exec_frames`, and memory is among what is as before. -/
theorem dataInstructionFrame : Obligations.DataInstructionFrame := by
  intro i s t ds hd ht
  obtain ⟨regs, bits, only, -⟩ := exec_frames hd t ht
  refine ⟨regs, bits, only, fun a => ?_⟩
  rw [only]

end Sys2Proof.Machine
end

section
/-!
SUPPORT. The TAP controller edge by edge: what a state does when TCK leaves it, what entering the next one does, and the reset that
five edges with TMS = 1 reach (spec/61 R930-R932; spec/12 R189-R192).
-/
namespace Sys2Proof.Machine

variable {s t u : State} {tms tdi : Bool} {rest : List Event} {st : TapState}

/-! ### One rising edge of TCK (spec/61 R931) -/

/-- The TAP controller is in this state. -/
def State.tapAt (s : State) (st : TapState) : State := { s with tap := { s.tap with state := st } }

theorem step_of_tck (hp : s.run ≠ .poweredDown) (hn : s.pins.ntrst = true) (h : s.inputs = .tck tms tdi :: rest) :
    step s = tckEdge tms tdi { s with inputs := rest } := by
  refine (step_of_event h).trans (if_neg ?_)
  rintro (off | low)
  · exact hp off
  · rw [show s.pins.ntrst = false from low] at hn
    cases hn

/-- The state that is left acts, and the one that is entered does. -/
theorem tckEdge_eq (h : ¬(s.tap.state = .idle ∧ s.tap.state.next tms = .idle)) :
    tckEdge tms tdi s = tapEnter (s.tap.state.next tms) ((tapAct tdi s).tapAt (s.tap.state.next tms)) := if_neg h

/-- An edge that leaves a state other than Run-Test/Idle, as a step. -/
theorem step_of_edge (hp : s.run ≠ .poweredDown) (hn : s.pins.ntrst = true) (h : s.inputs = .tck tms tdi :: rest)
    (hst : s.tap.state = st) (hi : st ≠ .idle) :
    step s = tapEnter (st.next tms) ((tapAct tdi { s with inputs := rest }).tapAt (st.next tms)) := by
  subst hst
  exact (step_of_tck hp hn h).trans (tckEdge_eq fun both => hi both.1)

theorem tapAct_captureDr (h : s.tap.state = .captureDr) : tapAct tdi s = s.captureDr := by rw [tapAct, h]
theorem tapAct_shiftDr (h : s.tap.state = .shiftDr) : tapAct tdi s = s.shiftDr tdi := by rw [tapAct, h]

theorem tapAct_captureIr (h : s.tap.state = .captureIr) : tapAct tdi s = { s with tap := { s.tap with irShift := 1#4 } } := by
  rw [tapAct, h]

theorem tapAct_shiftIr (h : s.tap.state = .shiftIr) : tapAct tdi s =
    { s with tap := { s.tap with irShift := BitVec.ofBool tdi ++ s.tap.irShift.extractLsb' 1 3 } } := by
  rw [tapAct, h]

/-- The other states do nothing when they are left. -/
theorem tapAct_other (h : s.tap.state ∉ [.captureDr, .shiftDr, .captureIr, .shiftIr]) : tapAct tdi s = s := by
  simp only [List.mem_cons, List.not_mem_nil, or_false, not_or] at h
  obtain ⟨captureDr, shiftDr, captureIr, shiftIr⟩ := h
  unfold tapAct
  split
  next e => exact absurd e captureDr
  next e => exact absurd e shiftDr
  next e => exact absurd e captureIr
  next e => exact absurd e shiftIr
  next => rfl

/-- An edge that leaves a state which does nothing, as a step. -/
theorem step_of_inert (hp : s.run ≠ .poweredDown) (hn : s.pins.ntrst = true) (h : s.inputs = .tck tms tdi :: rest)
    (hst : s.tap.state = st) (hi : st ∉ [.idle, .captureDr, .shiftDr, .captureIr, .shiftIr]) :
    step s = tapEnter (st.next tms) (({ s with inputs := rest } : State).tapAt (st.next tms)) := by
  obtain ⟨away, inert⟩ := not_or.mp fun e => hi (List.mem_cons.mpr e)
  rw [step_of_edge hp hn h hst away, tapAct_other (by rw [hst]; exact inert)]

/-! ### TMS = 1: the port moves alone, and GE stays -/

/-- Only the port has moved, and the DSCR's GE bit, which is the core's own, has not. -/
def PortMove (s t : State) : Prop := AtPort s t ∧ t.dbg.dscr.getLsbD 31 = s.dbg.dscr.getLsbD 31

theorem AtPort.trans (h : AtPort s t) (k : AtPort t u) : AtPort s u := by
  obtain ⟨_, _, rfl⟩ := h
  obtain ⟨_, _, rfl⟩ := k
  exact ⟨_, _, rfl⟩

theorem PortMove.trans (h : PortMove s t) (k : PortMove t u) : PortMove s u := ⟨h.1.trans k.1, k.2.trans h.2⟩

theorem PortMove.of_dbg (h : AtPort s t) (hd : t.dbg = s.dbg) : PortMove s t := ⟨h, by rw [hd]⟩

theorem captureDr_portMove (s : State) : PortMove s s.captureDr := by
  refine ⟨captureDr_atPort s, ?_⟩
  unfold State.captureDr
  split
  case h_3 => split <;> simp [State.clearWdtr]
  case h_4 => split <;> rfl
  all_goals rfl

theorem tapAct_portMove (tdi : Bool) (s : State) : PortMove s (tapAct tdi s) := by
  unfold tapAct
  split
  case h_1 => exact captureDr_portMove s
  all_goals exact .of_dbg ⟨_, _, rfl⟩ rfl

theorem jtagRdtr_ge (s : State) (v : Word) : (s.jtagRdtr v).dbg.dscr.getLsbD 31 = s.dbg.dscr.getLsbD 31 := by
  unfold State.jtagRdtr
  split
  · simp
  · rfl

theorem updateDr_portMove (s : State) : PortMove s s.updateDr := by
  refine ⟨updateDr_atPort s, ?_⟩
  unfold State.updateDr
  split
  case h_2 =>
    unfold State.updateChain
    split
    case h_1 => exact (maskedWrite_getLsbD _ _ _ 31).trans (if_neg (by decide))
    case h_3 => exact jtagRdtr_ge s _
    case h_4 => exact jtagRdtr_ge s _
    all_goals rfl
  all_goals rfl

theorem updateDr_tapState (s : State) : s.updateDr.tap.state = s.tap.state := by
  unfold State.updateDr
  split
  case h_2 =>
    unfold State.updateChain State.jtagRdtr
    split
    case h_3 => split <;> rfl
    case h_4 => split <;> rfl
    all_goals rfl
  all_goals rfl

theorem tapReset_portMove (s : State) : PortMove s s.tapReset := by
  refine ⟨⟨_, _, rfl⟩, ?_⟩
  simp [State.tapReset]

/-- Entering a state other than Run-Test/Idle is a move of the port. -/
theorem tapEnter_portMove (hi : st ≠ .idle) (hs : s.tap.state = st) :
    ∃ t, tapEnter st s = .next t ∧ PortMove s t ∧ t.tap.state = st ∧ (st = .reset → t = s.tapReset) := by
  cases st
  case idle => exact absurd rfl hi
  case reset => exact ⟨_, rfl, tapReset_portMove s, rfl, fun _ => rfl⟩
  case updateDr => exact ⟨_, rfl, updateDr_portMove s, (updateDr_tapState s).trans hs, nofun⟩
  all_goals exact ⟨_, rfl, .of_dbg ⟨_, _, rfl⟩ rfl, hs, nofun⟩

/-- With TMS = 1 Run-Test/Idle is never entered. -/
theorem TapState.next_high_ne_idle (st : TapState) : st.next true ≠ .idle := by cases st <;> decide

/-- What Test-Logic-Reset leaves of the port (spec/61 R932). -/
def PortReset (t : State) : Prop :=
  t.tap.state = .reset ∧ t.tap.ir = 14#4 ∧ t.tap.chain = 3#5 ∧ t.dbg.dscr.extractLsb' 27 4 = 0#4 ∧
    t.dbg.dscr.extractLsb' 16 8 = 0#8 ∧ t.dbg.dscr.getLsbD 5 = false

theorem tapReset_portReset (s : State) : PortReset s.tapReset := by
  have field {a n : Nat} (h : ∀ i, i < n → (0x8700FFC0#32).getLsbD (a + i) = false) :
      (s.dbg.dscr &&& 0x8700FFC0#32).extractLsb' a n = 0#n := by
    apply BitVec.eq_of_getLsbD_eq
    intro i hi
    rw [BitVec.getLsbD_extractLsb', BitVec.getLsbD_and, h i hi, Bool.and_false, Bool.and_false, BitVec.getLsbD_zero]
  refine ⟨rfl, rfl, rfl, field (by decide), field (by decide), ?_⟩
  exact (BitVec.getLsbD_and ..).trans (Bool.and_false _)

/-- One edge with TMS = 1, as a step. -/
theorem step_of_high (hp : s.run ≠ .poweredDown) (hn : s.pins.ntrst = true) (h : s.inputs = .tck true tdi :: rest) :
    ∃ t, step s = .next t ∧ PortMove { s with inputs := rest } t ∧ t.tap.state = s.tap.state.next true ∧
      (s.tap.state.next true = .reset → PortReset t) := by
  have away := s.tap.state.next_high_ne_idle
  obtain ⟨t, ht, moved, state, reset⟩ :=
    tapEnter_portMove (s := (tapAct tdi { s with inputs := rest }).tapAt (s.tap.state.next true)) away rfl
  refine ⟨t, ((step_of_tck hp hn h).trans (tckEdge_eq fun both => away both.2)).trans ht, ?_, state, fun e => ?_⟩
  · exact ((tapAct_portMove tdi _).trans (.of_dbg ⟨_, _, rfl⟩ rfl)).trans moved
  · rw [reset e]
    exact tapReset_portReset _

/-- What a move of the port leaves of the world outside. -/
theorem PortMove.world (h : PortMove { s with inputs := rest } t) : t.run = s.run ∧ t.pins = s.pins ∧ t.inputs = rest := by
  obtain ⟨⟨tap, dbg, rfl⟩, -⟩ := h
  exact ⟨rfl, rfl, rfl⟩

/-- A run of edges with TMS = 1 moves the port alone, along the TAP states. -/
theorem TapState.five_high (st : TapState) :
    ((((st.next true).next true).next true).next true).next true = .reset := by cases st <;> rfl

/-- The next edge of a run of edges with TMS = 1. -/
theorem PortMove.step {n : Nat} (hp : s.run ≠ .poweredDown) (hn : s.pins.ntrst = true)
    (h : PortMove { s with inputs := List.replicate (n + 1) (Event.tck true tdi) ++ rest } t) :
    ∃ u, Machine.step t = .next u ∧ PortMove { s with inputs := List.replicate n (Event.tck true tdi) ++ rest } u ∧
      u.tap.state = t.tap.state.next true ∧ (t.tap.state.next true = .reset → PortReset u) := by
  obtain ⟨run, pins, inputs⟩ := h.world
  obtain ⟨u, hu, moved, state, reset⟩ := step_of_high (run ▸ hp) (pins ▸ hn) inputs
  refine ⟨u, hu, ?_, state, reset⟩
  obtain ⟨⟨tap, dbg, rfl⟩, ge⟩ := h
  obtain ⟨⟨tap', dbg', rfl⟩, ge'⟩ := moved
  exact ⟨⟨tap', dbg', rfl⟩, ge'.trans ge⟩

end Sys2Proof.Machine
end

section
/-!
What the TAP controller does (O59; spec/61 R905, R911, R913, R921, R925, R926, R930-R932; spec/12 R162, R165, R173, R176, R177,
R188-R191).
-/
namespace Sys2Proof.Machine

variable {s t u : State} {tms tdi : Bool} {rest : List Event}

/-! ### Captures and shifts (spec/12 R189-R191; spec/61 R931) -/

/-- The edge leaves `w` in the shift stage, of which TDO shows bit 0 in Shift-DR, and the state `u` but for it. -/
def Captured (s : State) (tms : Bool) (holds : BitVec 66 → Prop) (u : State) : Prop :=
  ∃ t, step s = .next t ∧ holds t.tap.drShift ∧ (tms = false → t.tap.tdo = t.tap.drShift.getLsbD 0) ∧
    t = { u with tap := { u.tap with drShift := t.tap.drShift, tdo := t.tap.tdo } }

/-- Where a scan of data goes from Capture-DR and Shift-DR. -/
theorem TapState.next_scanDr {st : TapState} (h : st = .captureDr ∨ st = .shiftDr) (tms : Bool) :
    st ≠ .idle ∧ st.next tms = if tms then .exit1Dr else .shiftDr := by
  obtain rfl | rfl := h
  · exact ⟨by decide, by cases tms <;> rfl⟩
  · exact ⟨by decide, by cases tms <;> rfl⟩

theorem captured_of {w : BitVec 66} {holds : BitVec 66 → Prop} (hp : s.run ≠ .poweredDown) (hn : s.pins.ntrst = true)
    (h : s.inputs = .tck tms tdi :: rest) (hst : s.tap.state = .captureDr ∨ s.tap.state = .shiftDr)
    (act : tapAct tdi { s with inputs := rest } = { u with tap := { u.tap with drShift := w } }) (hw : holds w) :
    Captured s tms holds (u.tapAt (if tms then .exit1Dr else .shiftDr)) := by
  obtain ⟨away, next⟩ := TapState.next_scanDr hst tms
  have edge := step_of_edge hp hn h rfl away
  rw [next, act] at edge
  cases tms with
  | true => exact ⟨_, edge, hw, nofun, rfl⟩
  | false => exact ⟨_, edge, hw, fun _ => rfl, rfl⟩

theorem captureDr_idcode (h : s.tap.ir = 14#4) :
    s.captureDr = { s with tap := { s.tap with drShift := s.pins.tapid.zeroExtend 66 } } := by
  have code : s.tapInstr = .idcode := by rw [State.tapInstr, h]; rfl
  rw [State.captureDr, code]

theorem captureDr_scanN (h : s.tap.ir = 2#4) : s.captureDr = { s with tap := { s.tap with drShift := 0b10000#66 } } := by
  have code : s.tapInstr = .scanN := by rw [State.tapInstr, h]; rfl
  rw [State.captureDr, code]

theorem captureDr_bypass (h : s.tap.ir = 15#4) : s.captureDr = { s with tap := { s.tap with drShift := 0#66 } } := by
  have code : s.tapInstr = .bypass := by rw [State.tapInstr, h]; rfl
  rw [State.captureDr, code]

theorem State.tapInstr_extest (h : s.tap.ir = 0#4) : s.tapInstr = .extest := by rw [State.tapInstr, h]; rfl

theorem State.tapInstr_intest (h : s.tap.ir = 12#4) : s.tapInstr = .intest := by rw [State.tapInstr, h]; rfl

/-- INTEST marks the wDTR read, if the chain holds it. -/
theorem captureDr_intest (h : s.tap.ir = 12#4) : s.captureDr =
    { (if s.chainHasData then s.clearWdtr else s) with tap := { s.tap with drShift := s.chainCapture true } } := by
  rw [State.captureDr, State.tapInstr_intest h]
  cases s.chainHasData <;> rfl

/-- EXTEST notes whether the rDTR is free, if the chain holds it. -/
theorem captureDr_extest (h : s.tap.ir = 0#4) : s.captureDr =
    { s with tap := { (if s.chainHasData then s.noteReady else s).tap with drShift := s.chainCapture false } } := by
  rw [State.captureDr, State.tapInstr_extest h]
  cases s.chainHasData <;> rfl

theorem State.chain_of (n : BitVec 5) (h : s.tap.chain = n) : s.chain = scanChainOf n := by rw [State.chain, h]

/-- A chain without the DTR is captured alike under EXTEST and INTEST. -/
theorem captureDr_scan (hs : s.tap.ir = 0#4 ∨ s.tap.ir = 12#4) (hc : s.chainHasData = false) :
    s.captureDr = { s with tap := { s.tap with drShift := s.chainCapture false } } := by
  have alike : s.chainCapture true = s.chainCapture false := by
    unfold State.chainCapture
    unfold State.chainHasData at hc
    cases hk : s.chain
    case data => rw [hk] at hc; cases hc
    case transferData => rw [hk] at hc; cases hc
    all_goals rfl
  rcases hs with extest | intest
  · rw [captureDr_extest extest, hc]
    rfl
  · rw [captureDr_intest intest, hc, alike]
    rfl

/-- The low bits of a value that is put into the shift stage. -/
theorem getLsbD_intoStage {n : Nat} (v : BitVec n) {k : Nat} (hk : k < 66) : (v.zeroExtend 66).getLsbD k = v.getLsbD k := by
  rw [BitVec.zeroExtend, BitVec.getLsbD_setWidth, decide_eq_true hk, Bool.true_and]

theorem extract_intoStage {n a m : Nat} (v : BitVec n) (h : a + m ≤ 66) :
    (v.zeroExtend 66).extractLsb' a m = v.extractLsb' a m := by
  apply BitVec.eq_of_getLsbD_eq
  intro i hi
  rw [BitVec.getLsbD_extractLsb', BitVec.getLsbD_extractLsb', getLsbD_intoStage v (by omega)]

/-- A word and its flag in the stage. -/
theorem stage_wordFlag (w : Word) (b : Bool) :
    ((w ++ BitVec.ofBool b).zeroExtend 66).extractLsb' 1 32 = w ∧ ((w ++ BitVec.ofBool b).zeroExtend 66).getLsbD 0 = b := by
  refine ⟨(extract_intoStage _ (by decide)).trans BitVec.extractLsb'_append_eq_left, (getLsbD_intoStage _ (by decide)).trans ?_⟩
  rw [BitVec.getLsbD_append]
  exact BitVec.getLsbD_ofBool b 0

/-- The ITR above the DTR's word and flag. -/
theorem stage_transferData (v w : Word) (b : Bool) :
    ((v ++ (w ++ BitVec.ofBool b)).zeroExtend 66).extractLsb' 33 32 = v ∧
      ((v ++ (w ++ BitVec.ofBool b)).zeroExtend 66).extractLsb' 1 32 = w ∧
      ((v ++ (w ++ BitVec.ofBool b)).zeroExtend 66).getLsbD 0 = b := by
  have low : ((v ++ (w ++ BitVec.ofBool b)).zeroExtend 66).extractLsb' 1 32 =
      ((w ++ BitVec.ofBool b).zeroExtend 66).extractLsb' 1 32 := by
    rw [extract_intoStage _ (by decide), extract_intoStage _ (by decide)]
    apply BitVec.eq_of_getLsbD_eq
    intro i hi
    rw [BitVec.getLsbD_extractLsb', BitVec.getLsbD_extractLsb', BitVec.getLsbD_append, if_pos (by omega)]
  refine ⟨(extract_intoStage _ (by decide)).trans BitVec.extractLsb'_append_eq_left, low.trans (stage_wordFlag w b).1, ?_⟩
  refine (getLsbD_intoStage _ (by decide)).trans (BitVec.getLsbD_append.trans ?_)
  exact (getLsbD_intoStage (w ++ BitVec.ofBool b) (by decide)).symm.trans (stage_wordFlag w b).2

/-- The length of the data register, from the codes of the instruction and of the chain (spec/61 R930; spec/12 R192). -/
theorem drLength_eq (s : State) : s.drLength =
    if s.tap.ir = 0#4 ∨ s.tap.ir = 12#4 then
      (if s.tap.chain = 0#5 ∨ s.tap.chain = 1#5 then 32 else if s.tap.chain = 2#5 then 65
        else if s.tap.chain = 4#5 ∨ s.tap.chain = 5#5 then 33 else 1)
    else if s.tap.ir = 2#4 then 5 else if s.tap.ir = 14#4 then 32 else 1 := by
  have chain (n : BitVec 5) : (scanChainOf n).length = if n = 0#5 ∨ n = 1#5 then 32 else if n = 2#5 then 65
      else if n = 4#5 ∨ n = 5#5 then 33 else 1 := by
    revert n
    decide
  unfold State.drLength State.tapInstr State.chain
  rw [chain]
  generalize (if s.tap.chain = 0#5 ∨ s.tap.chain = 1#5 then 32 else if s.tap.chain = 2#5 then 65
      else if s.tap.chain = 4#5 ∨ s.tap.chain = 5#5 then 33 else 1) = len
  generalize s.tap.ir = ir
  cases ir with
  | ofFin f => fin_cases f <;> rfl

theorem State.drLength_bounds (s : State) : 0 < s.drLength ∧ s.drLength < 66 := by
  have chain : ∀ c : ScanChain, 0 < c.length ∧ c.length < 66 := by
    intro c
    cases c <;> decide
  unfold State.drLength
  cases s.tapInstr
  case extest | intest => exact chain _
  all_goals simp

/-- Shift-DR moves the data register one place towards bit 0 and takes TDI in at its length. -/
theorem shiftDr_getLsbD {k : Nat} (hk : k < s.drLength) : (s.shiftDr tdi).tap.drShift.getLsbD k =
    if k + 1 = s.drLength then tdi else s.tap.drShift.getLsbD (k + 1) := by
  obtain ⟨pos, short⟩ := s.drLength_bounds
  have inside : k < 66 := by omega
  show (((s.tap.drShift >>> 1) &&& ~~~(1#66 <<< (s.drLength - 1))) |||
    ((BitVec.ofBool tdi).zeroExtend 66 <<< (s.drLength - 1))).getLsbD k = _
  rw [BitVec.getLsbD_or, BitVec.getLsbD_and, BitVec.getLsbD_not, BitVec.getLsbD_shiftLeft, BitVec.getLsbD_shiftLeft,
    BitVec.getLsbD_ushiftRight, Nat.add_comm 1 k]
  split
  next top =>
    have here : k - (s.drLength - 1) = 0 := by omega
    rw [here]
    simp [inside, show ¬k < s.drLength - 1 by omega]
  next below => simp [inside, show k < s.drLength - 1 by omega]

/-- Capture-DR of a chain without the DTR changes the shift stage only. -/
theorem captured_scan {holds : BitVec 66 → Prop} (hp : s.run ≠ .poweredDown) (hn : s.pins.ntrst = true)
    (h : s.inputs = .tck tms tdi :: rest) (hst : s.tap.state = .captureDr) (hs : s.tap.ir = 0#4 ∨ s.tap.ir = 12#4)
    (hc : s.chainHasData = false) (hw : holds (s.chainCapture false)) :
    Captured s tms holds (({ s with inputs := rest } : State).tapAt (if tms then .exit1Dr else .shiftDr)) :=
  captured_of hp hn h (.inl hst)
    ((tapAct_captureDr (s := { s with inputs := rest }) hst).trans (captureDr_scan hs hc)) hw

/-- The chains that hold the DTR (spec/12 R192). -/
theorem chainHasData_of (h : s.tap.chain = 5#5 ∨ s.tap.chain = 2#5) : s.chainHasData = true := by
  rcases h with h | h
  · rw [State.chainHasData, State.chain_of _ h]
    rfl
  · rw [State.chainHasData, State.chain_of _ h]
    rfl

/-- What a chain with the DTR captures: the DTR's word and flag, and in chain 2 the ITR above them. -/
theorem chainCapture_data {intest : Bool} {w : Word} {b : Bool} (h : s.tap.chain = 5#5 ∨ s.tap.chain = 2#5)
    (hd : s.dtrCapture intest = w ++ BitVec.ofBool b) :
    (s.chainCapture intest).extractLsb' 1 32 = w ∧
      (s.tap.chain = 2#5 → (s.chainCapture intest).extractLsb' 33 32 = s.dbg.itr) ∧
      (s.chainCapture intest).getLsbD 0 = b := by
  rcases h with h | h
  · have holds : s.chainCapture intest = (w ++ BitVec.ofBool b).zeroExtend 66 := by
      rw [State.chainCapture, State.chain_of _ h, ← hd]
      rfl
    obtain ⟨word, flag⟩ := stage_wordFlag w b
    rw [holds]
    exact ⟨word, fun two => absurd (h.symm.trans two) (by decide), flag⟩
  · have holds : s.chainCapture intest = (s.dbg.itr ++ (w ++ BitVec.ofBool b)).zeroExtend 66 := by
      rw [State.chainCapture, State.chain_of _ h, ← hd]
      rfl
    obtain ⟨itr, word, flag⟩ := stage_transferData s.dbg.itr w b
    rw [holds]
    exact ⟨word, fun _ => itr, flag⟩

/-! ### Updates (spec/12 R189; spec/61 R930) -/

/-- Update-DR is entered from either exit. -/
theorem step_updateDr (hp : s.run ≠ .poweredDown) (hn : s.pins.ntrst = true) (h : s.inputs = .tck true tdi :: rest)
    (hst : s.tap.state = .exit1Dr ∨ s.tap.state = .exit2Dr) :
    step s = .next (({ s with inputs := rest } : State).tapAt .updateDr).updateDr := by
  rcases hst with e | e
  · exact step_of_inert hp hn h e (by decide)
  · exact step_of_inert hp hn h e (by decide)

theorem updateDr_extest (h : s.tap.ir = 0#4) : s.updateDr = s.updateChain := by
  rw [State.updateDr, State.tapInstr_extest h]

theorem updateDr_scanN (h : s.tap.ir = 2#4) :
    s.updateDr = { s with tap := { s.tap with chain := s.tap.drShift.extractLsb' 0 5 } } := by
  have code : s.tapInstr = .scanN := by rw [State.tapInstr, h]; rfl
  rw [State.updateDr, code]

/-- INTEST, IDCODE and BYPASS write nothing. -/
theorem updateDr_inert (h : s.tap.ir = 12#4 ∨ s.tap.ir = 14#4 ∨ s.tap.ir = 15#4) : s.updateDr = s := by
  have code : s.tapInstr = .intest ∨ s.tapInstr = .idcode ∨ s.tapInstr = .bypass := by
    unfold State.tapInstr
    rcases h with e | e | e
    · exact .inl (by rw [e]; rfl)
    · exact .inr (.inl (by rw [e]; rfl))
    · exact .inr (.inr (by rw [e]; rfl))
  rw [State.updateDr]
  rcases code with e | e | e <;> rw [e]

theorem updateChain_status (h : s.tap.chain = 1#5) : s.updateChain = s.jtagDscr (s.tap.drShift.extractLsb' 0 32) := by
  have code : s.chain = .status := State.chain_of _ h
  rw [State.updateChain, code]

theorem updateChain_transfer (h : s.tap.chain = 4#5) : s.updateChain = s.jtagItr (s.tap.drShift.extractLsb' 1 32) := by
  have code : s.chain = .transfer := State.chain_of _ h
  rw [State.updateChain, code]

theorem updateChain_data (h : s.tap.chain = 5#5) : s.updateChain = s.jtagRdtr (s.tap.drShift.extractLsb' 1 32) := by
  have code : s.chain = .data := State.chain_of _ h
  rw [State.updateChain, code]

theorem updateChain_transferData (h : s.tap.chain = 2#5) : s.updateChain =
    (s.jtagRdtr (s.tap.drShift.extractLsb' 1 32)).jtagItr (s.tap.drShift.extractLsb' 33 32) := by
  have code : s.chain = .transferData := State.chain_of _ h
  rw [State.updateChain, code]

/-- The debugger's write of the rDTR is one of the debug unit. -/
theorem jtagRdtr_eq (s : State) (v : Word) : s.jtagRdtr v = { s with
    dbg := if s.tap.rxReady then { s.dbg with rdtr := v, dscr := s.dbg.dscr ||| 0x80#32 } else s.dbg } := by
  unfold State.jtagRdtr
  split <;> rfl

/-- The bits of the DSCR that the debugger owns (spec/12 R165). -/
theorem jtagDscr_getLsbD (old v : Word) {k : Nat} (hk : k < 32) : (maskedWrite old v 0x78DF0000#32).getLsbD k =
    if k ∈ [30, 29, 28, 27, 23, 22, 20, 19, 18, 17, 16] then v.getLsbD k else old.getLsbD k := by
  have owned : (0x78DF0000#32).getLsbD k = decide (k ∈ [30, 29, 28, 27, 23, 22, 20, 19, 18, 17, 16]) := by
    interval_cases k <;> rfl
  rw [maskedWrite_getLsbD, owned]
  simp only [decide_eq_true_eq]

/-! ### Run-Test/Idle (spec/61 R911, R913, R921) -/

/-- Run-Test/Idle is entered from either update. -/
theorem step_enterIdle (hp : s.run ≠ .poweredDown) (hn : s.pins.ntrst = true) (h : s.inputs = .tck false tdi :: rest)
    (hst : s.tap.state = .updateDr ∨ s.tap.state = .updateIr) :
    step s = enterIdle (({ s with inputs := rest } : State).tapAt .idle) := by
  rcases hst with e | e
  · exact step_of_inert hp hn h e (by decide)
  · exact step_of_inert hp hn h e (by decide)

theorem enterIdle_scan (hs : s.tap.ir = 0#4 ∨ s.tap.ir = 12#4) (hh : s.halted = true) (hi : s.dbg.dscr.getLsbD 29 = true) :
    enterIdle s = runItr s := by
  have both : (s.halted && s.dbg.dscr.getLsbD 29) = true := by rw [hh, hi]; rfl
  rcases hs with e | e
  · rw [enterIdle, State.tapInstr_extest e]
    exact if_pos both
  · rw [enterIdle, State.tapInstr_intest e]
    exact if_pos both

theorem enterIdle_restart (h : s.tap.ir = 4#4) (hh : s.halted = true) : enterIdle s = .next s.restart := by
  have code : s.tapInstr = .restart := by rw [State.tapInstr, h]; rfl
  rw [enterIdle, code]
  exact if_pos hh

theorem enterIdle_halt (h : s.tap.ir = 8#4) (hh : s.halted = false) (hd : s.debugEnabled = true) (hm : s.haltMode = true) :
    enterIdle s = .next { s with dbg := { s.dbg with haltReq := true } } := by
  have code : s.tapInstr = .halt := by rw [State.tapInstr, h]; rfl
  rw [enterIdle, code]
  exact if_pos (by rw [hh, hd, hm]; rfl)

/-- RESTART clears DSCR[0] and sets DSCR[1] (spec/61 R913). -/
theorem restart_dscr_getLsbD (w : Word) {k : Nat} (hk : k < 32) : (w.extractLsb' 2 30 ++ 0b10#2 : Word).getLsbD k =
    if k = 0 then false else if k = 1 then true else w.getLsbD k := by
  have bits := BitVec.getLsbD_append (x := w.extractLsb' 2 30) (y := 0b10#2) (i := k)
  refine bits.trans ?_
  split
  next low => interval_cases k <;> rfl
  next high =>
    rw [if_neg (by omega), if_neg (by omega), BitVec.getLsbD_extractLsb', decide_eq_true (by omega), Bool.true_and]
    congr 1
    omega

/-- Chain 1 shows RF and WE inverted (spec/12 R165, R170). -/
theorem statusCapture_getLsbD (w : Word) {k : Nat} (hk : k < 32) : ((w ^^^ 0xC0#32).zeroExtend 66).getLsbD k =
    if k = 7 ∨ k = 6 then !w.getLsbD k else w.getLsbD k := by
  have flags : (0xC0#32).getLsbD k = decide (k = 7 ∨ k = 6) := by interval_cases k <;> rfl
  rw [getLsbD_intoStage _ (by omega), BitVec.getLsbD_xor, flags]
  split
  next inverted => rw [decide_eq_true inverted, Bool.xor_true]
  next shown => rw [decide_eq_false shown, Bool.xor_false]

/-- Under INTEST the wDTR is captured and marked read. -/
theorem captured_intest (hp : s.run ≠ .poweredDown) (hn : s.pins.ntrst = true) (h : s.inputs = .tck tms tdi :: rest)
    (hst : s.tap.state = .captureDr) (hi : s.tap.ir = 12#4) (hc : s.tap.chain = 5#5 ∨ s.tap.chain = 2#5) :
    Captured s tms
      (fun w => w.extractLsb' 1 32 = s.dbg.wdtr ∧ (s.tap.chain = 2#5 → w.extractLsb' 33 32 = s.dbg.itr) ∧
        w.getLsbD 0 = (if s.dbg.dscr.getLsbD 27 then !s.dbg.dscr.getLsbD 6 else s.dbg.itrDone))
      (({ s with inputs := rest } : State).clearWdtr.tapAt (if tms then .exit1Dr else .shiftDr)) := by
  have act := (tapAct_captureDr (s := { s with inputs := rest }) (tdi := tdi) hst).trans (captureDr_intest hi)
  rw [if_pos (chainHasData_of (s := { s with inputs := rest }) hc)] at act
  exact captured_of hp hn h (.inl hst) act (chainCapture_data (s := { s with inputs := rest }) (b := s.wdtrFlag) hc rfl)

/-- Under EXTEST the rDTR is captured, and whether it is free is noted. -/
theorem captured_extest (hp : s.run ≠ .poweredDown) (hn : s.pins.ntrst = true) (h : s.inputs = .tck tms tdi :: rest)
    (hst : s.tap.state = .captureDr) (hi : s.tap.ir = 0#4) (hc : s.tap.chain = 5#5 ∨ s.tap.chain = 2#5) :
    Captured s tms
      (fun w => w.extractLsb' 1 32 = s.dbg.rdtr ∧ (s.tap.chain = 2#5 → w.extractLsb' 33 32 = s.dbg.itr) ∧
        w.getLsbD 0 = !s.dbg.dscr.getLsbD 7)
      (({ s with inputs := rest } : State).noteReady.tapAt (if tms then .exit1Dr else .shiftDr)) := by
  have act := (tapAct_captureDr (s := { s with inputs := rest }) (tdi := tdi) hst).trans (captureDr_extest hi)
  rw [if_pos (chainHasData_of (s := { s with inputs := rest }) hc)] at act
  exact captured_of (u := ({ s with inputs := rest } : State).noteReady) hp hn h (.inl hst) act
    (chainCapture_data (s := { s with inputs := rest }) (b := !s.dtrFull) hc rfl)

/-- What a capture leaves of the debug unit. -/
theorem Captured.dbg {holds : BitVec 66 → Prop} (h : Captured s tms holds u) (ht : step s = .next t) : t.dbg = u.dbg := by
  obtain ⟨t', ht', -, -, e⟩ := h
  rw [ht] at ht'
  cases ht'
  rw [e]

/-- Shift-DR moves the chain by one place. -/
theorem captured_shift (hp : s.run ≠ .poweredDown) (hn : s.pins.ntrst = true) (h : s.inputs = .tck tms tdi :: rest)
    (hst : s.tap.state = .shiftDr) :
    Captured s tms
      (fun w => ∀ k, k < s.drLength → w.getLsbD k = if k + 1 = s.drLength then tdi else s.tap.drShift.getLsbD (k + 1))
      (({ s with inputs := rest } : State).tapAt (if tms then .exit1Dr else .shiftDr)) :=
  captured_of (u := { s with inputs := rest }) hp hn h (.inr hst) (tapAct_shiftDr hst) fun _ hk =>
    shiftDr_getLsbD (s := { s with inputs := rest }) hk

/-- A scan of an instruction: the edge leaves `w` in the shift stage, of which TDO shows bit 0 in Shift-IR. -/
theorem step_scanIr {w : BitVec 4} (hp : s.run ≠ .poweredDown) (hn : s.pins.ntrst = true)
    (h : s.inputs = .tck tms tdi :: rest) (hst : s.tap.state = .captureIr ∨ s.tap.state = .shiftIr)
    (act : tapAct tdi { s with inputs := rest } = { s with inputs := rest, tap := { s.tap with irShift := w } }) :
    ∃ t, step s = .next t ∧ (tms = false → t.tap.tdo = t.tap.irShift.getLsbD 0) ∧
      t = { s with
        inputs := rest
        tap := { s.tap with state := if tms then .exit1Ir else .shiftIr, tdo := t.tap.tdo, irShift := w } } := by
  have away : s.tap.state ≠ .idle ∧ s.tap.state.next tms = if tms then .exit1Ir else .shiftIr := by
    rcases hst with e | e
    · rw [e]
      exact ⟨by decide, by cases tms <;> rfl⟩
    · rw [e]
      exact ⟨by decide, by cases tms <;> rfl⟩
  have edge := step_of_edge hp hn h rfl away.1
  rw [away.2, act] at edge
  cases tms with
  | true => exact ⟨_, edge, nofun, rfl⟩
  | false => exact ⟨_, edge, fun _ => rfl, rfl⟩

/-- Update-IR is entered from either exit and makes the instruction current. -/
theorem step_updateIr (hp : s.run ≠ .poweredDown) (hn : s.pins.ntrst = true) (h : s.inputs = .tck true tdi :: rest)
    (hst : s.tap.state = .exit1Ir ∨ s.tap.state = .exit2Ir) :
    step s = .next { s with inputs := rest, tap := { s.tap with state := .updateIr, ir := s.tap.irShift } } := by
  rcases hst with e | e
  · exact step_of_inert hp hn h e (by decide)
  · exact step_of_inert hp hn h e (by decide)

end Sys2Proof.Machine
end

section
/-!
The whole of the TAP controller's statement (O59).
-/
namespace Sys2Proof.Machine

variable {s : State} {tms tdi : Bool} {rest : List Event}

/-! ### What Capture-DR loads, instruction by instruction (spec/12 R189-R191) -/

/-- A chain that does not hold the DTR. -/
theorem chainHasData_of_other {n : BitVec 5} (hc : s.tap.chain = n)
    (hd : scanChainOf n ≠ .data ∧ scanChainOf n ≠ .transferData) : s.chainHasData = false := by
  rw [State.chainHasData, State.chain_of n hc, beq_false_of_ne hd.1, beq_false_of_ne hd.2]
  rfl

/-- Chain 0 shows the ID. -/
theorem captured_ident (hp : s.run ≠ .poweredDown) (hn : s.pins.ntrst = true) (h : s.inputs = .tck tms tdi :: rest)
    (hst : s.tap.state = .captureDr) (hs : s.tap.ir = 0#4 ∨ s.tap.ir = 12#4)
    (hc : s.tap.chain = 0#5) : Captured s tms
      (fun w => w.extractLsb' 0 32 = 0x41006201#32)
      (({ s with inputs := rest } : State).tapAt (if tms then .exit1Dr else .shiftDr)) := by
  refine captured_scan hp hn h hst hs (chainHasData_of_other hc (by decide)) ?_
  rw [State.chainCapture, State.chain_of _ hc]
  rfl

/-- Chain 1 shows the DSCR, RF and WE inverted. -/
theorem captured_status (hp : s.run ≠ .poweredDown) (hn : s.pins.ntrst = true) (h : s.inputs = .tck tms tdi :: rest)
    (hst : s.tap.state = .captureDr) (hs : s.tap.ir = 0#4 ∨ s.tap.ir = 12#4)
    (hc : s.tap.chain = 1#5) : Captured s tms
      (fun w => ∀ k, k < 32 → w.getLsbD k = if k = 7 ∨ k = 6 then !s.dbg.dscr.getLsbD k else s.dbg.dscr.getLsbD k)
      (({ s with inputs := rest } : State).tapAt (if tms then .exit1Dr else .shiftDr)) := by
  refine captured_scan hp hn h hst hs (chainHasData_of_other hc (by decide)) ?_
  rw [State.chainCapture, State.chain_of _ hc]
  exact fun k hk => statusCapture_getLsbD s.dbg.dscr hk

/-- Chain 4 shows the ITR and its completion bit. -/
theorem captured_transfer (hp : s.run ≠ .poweredDown) (hn : s.pins.ntrst = true) (h : s.inputs = .tck tms tdi :: rest)
    (hst : s.tap.state = .captureDr) (hs : s.tap.ir = 0#4 ∨ s.tap.ir = 12#4)
    (hc : s.tap.chain = 4#5) : Captured s tms
      (fun w => w.extractLsb' 1 32 = s.dbg.itr ∧ w.getLsbD 0 = s.dbg.itrDone)
      (({ s with inputs := rest } : State).tapAt (if tms then .exit1Dr else .shiftDr)) := by
  refine captured_scan hp hn h hst hs (chainHasData_of_other hc (by decide)) ?_
  rw [State.chainCapture, State.chain_of _ hc]
  exact stage_wordFlag s.dbg.itr s.dbg.itrDone

/-- IDCODE shows the TAP ID. -/
theorem captured_idcode (hp : s.run ≠ .poweredDown) (hn : s.pins.ntrst = true) (h : s.inputs = .tck tms tdi :: rest)
    (hst : s.tap.state = .captureDr) (hi : s.tap.ir = 14#4) :
    Captured s tms (fun w => w.extractLsb' 0 32 = s.pins.tapid)
      (({ s with inputs := rest } : State).tapAt (if tms then .exit1Dr else .shiftDr)) :=
  captured_of (u := { s with inputs := rest }) hp hn h (.inl hst)
    ((tapAct_captureDr (s := { s with inputs := rest }) hst).trans (captureDr_idcode hi))
    ((extract_intoStage (a := 0) (m := 32) s.pins.tapid (by decide)).trans BitVec.extractLsb'_eq_self)

/-- SCAN_N shows 10000. -/
theorem captured_scanN (hp : s.run ≠ .poweredDown) (hn : s.pins.ntrst = true) (h : s.inputs = .tck tms tdi :: rest)
    (hst : s.tap.state = .captureDr) (hi : s.tap.ir = 2#4) :
    Captured s tms (fun w => w.extractLsb' 0 5 = 0b10000#5)
      (({ s with inputs := rest } : State).tapAt (if tms then .exit1Dr else .shiftDr)) :=
  captured_of (u := { s with inputs := rest }) hp hn h (.inl hst)
    ((tapAct_captureDr (s := { s with inputs := rest }) hst).trans (captureDr_scanN hi))
    rfl

/-- BYPASS shows 0. -/
theorem captured_bypass (hp : s.run ≠ .poweredDown) (hn : s.pins.ntrst = true) (h : s.inputs = .tck tms tdi :: rest)
    (hst : s.tap.state = .captureDr) (hi : s.tap.ir = 15#4) :
    Captured s tms (fun w => w.getLsbD 0 = false)
      (({ s with inputs := rest } : State).tapAt (if tms then .exit1Dr else .shiftDr)) :=
  captured_of (u := { s with inputs := rest }) hp hn h (.inl hst)
    ((tapAct_captureDr (s := { s with inputs := rest }) hst).trans (captureDr_bypass hi))
    rfl

/-! ### What the two updates reach (spec/12 R189; spec/61 R911, R913) -/

/-- Update-DR under EXTEST (spec/61 R930): the chain's own write. -/
theorem step_updateChain (hp : s.run ≠ .poweredDown) (hn : s.pins.ntrst = true) (h : s.inputs = .tck true tdi :: rest)
    (hst : s.tap.state = .exit1Dr ∨ s.tap.state = .exit2Dr) (hi : s.tap.ir = 0#4) :
    step s = .next (({ s with inputs := rest } : State).tapAt .updateDr).updateChain := by
  rw [step_updateDr hp hn h hst]
  exact congrArg _ (updateDr_extest hi)

theorem jtagRdtr_commrx (hr : s.tap.rxReady = true) (v : Word) : (s.jtagRdtr v).commrx = true := by
  rw [State.commrx_eq, State.jtagRdtr, if_pos hr]
  simp

/-- A write of the rDTR that was free raises COMMRX (spec/61 R925). -/
theorem updateChain_commrx (hc : s.tap.chain = 5#5 ∨ s.tap.chain = 2#5) (hr : s.tap.rxReady = true) :
    s.updateChain.commrx = true := by
  rcases hc with hc | hc
  · rw [updateChain_data hc]
    exact jtagRdtr_commrx hr _
  · rw [updateChain_transferData hc]
    exact jtagRdtr_commrx hr _

theorem step_commrx (hp : s.run ≠ .poweredDown) (hn : s.pins.ntrst = true) (h : s.inputs = .tck true tdi :: rest)
    (hst : s.tap.state = .exit1Dr ∨ s.tap.state = .exit2Dr) (hi : s.tap.ir = 0#4)
    (hc : s.tap.chain = 5#5 ∨ s.tap.chain = 2#5) (hr : s.tap.rxReady = true) {t : State} (ht : step s = .next t) :
    t.commrx = true := by
  rw [step_updateChain hp hn h hst hi] at ht
  cases ht
  exact updateChain_commrx (s := ({ s with inputs := rest } : State).tapAt .updateDr) hc hr

/-- The ITR's instruction, from Run-Test/Idle (spec/61 R911). -/
theorem step_runItr (hp : s.run ≠ .poweredDown) (hn : s.pins.ntrst = true) (h : s.inputs = .tck false tdi :: rest)
    (hst : s.tap.state = .updateDr ∨ s.tap.state = .updateIr) (hs : s.tap.ir = 0#4 ∨ s.tap.ir = 12#4)
    (hh : s.halted = true) (hi : s.dbg.dscr.getLsbD 29 = true) :
    step s = runItr (({ s with inputs := rest } : State).tapAt .idle) := by
  rw [step_enterIdle hp hn h hst]
  exact enterIdle_scan hs hh hi

/-- RESTART, from Run-Test/Idle (spec/61 R913). -/
theorem step_restart (hp : s.run ≠ .poweredDown) (hn : s.pins.ntrst = true) (h : s.inputs = .tck false tdi :: rest)
    (hst : s.tap.state = .updateDr ∨ s.tap.state = .updateIr) (hi : s.tap.ir = 4#4) (hh : s.halted = true) :
    step s = .next (({ s with inputs := rest } : State).tapAt .idle).restart := by
  rw [step_enterIdle hp hn h hst]
  exact enterIdle_restart hi hh

/-- Settles O59: five edges with TMS = 1 go along `TapState.five_high`; each other clause is one edge, with what the state that is
left does and what the one that is entered does. -/
theorem tapReset : Obligations.TapReset := by
  intro s tms tdi rest done moved shift scans len
  refine ⟨fun hp hn h => ?five, fun h => ?ntrst, ?edge⟩
  case five =>
    have start : PortMove { s with inputs := List.replicate 5 (Event.tck true tdi) ++ rest } s := by
      rw [← h]
      exact ⟨AtPort.refl s, rfl⟩
    obtain ⟨s1, h1, m1, e1, -⟩ := start.step hp hn
    obtain ⟨s2, h2, m2, e2, -⟩ := m1.step hp hn
    obtain ⟨s3, h3, m3, e3, -⟩ := m2.step hp hn
    obtain ⟨s4, h4, m4, e4, -⟩ := m3.step hp hn
    obtain ⟨t, h5, m5, -, reset⟩ := m4.step hp hn
    obtain ⟨state, ir, chain, high, middle, sticky⟩ := reset (by rw [e4, e3, e2, e1, TapState.five_high])
    obtain ⟨⟨tap, dbg, rfl⟩, ge⟩ := m5
    exact ⟨s1, s2, s3, s4, _, h1, h2, h3, h4, h5, state, ir, chain, high, middle, sticky, rfl, rfl, rfl, rfl, ge, rfl⟩
  case ntrst =>
    obtain ⟨state, ir, chain, high, middle, sticky⟩ := tapReset_portReset { s with inputs := rest }
    obtain ⟨-, ge⟩ := tapReset_portMove { s with inputs := rest }
    rcases h with h | h
    · exact ⟨_, step_of_event h, state, ir, chain, high, middle, sticky, rfl, rfl, rfl, rfl, ge, rfl⟩
    · exact ⟨_, step_of_event h, state, ir, chain, high, middle, sticky, rfl, rfl, rfl, rfl, ge, rfl⟩
  case edge =>
    intro hp hn h captures left
    refine ⟨fun hst => ?capture, fun hst => ?shift, fun hst => ?pause, fun hst => ?ir, fun high hst => ?updateIr,
      fun high hst => ?updateDr, fun low hst => ?idle⟩
    case capture =>
      refine ⟨captured_ident hp hn h hst, captured_status hp hn h hst, captured_transfer hp hn h hst, fun hi hc => ?intest,
        captured_extest hp hn h hst, captured_idcode hp hn h hst, captured_scanN hp hn h hst, captured_bypass hp hn h hst⟩
      case intest =>
        have captured := captured_intest hp hn h hst hi hc
        refine ⟨captured, fun t ht => ?_⟩
        have dbg : t.dbg = s.clearWdtr.dbg := captured.dbg ht
        rw [State.commtx_eq, State.commrx_eq, dbg]
        exact ⟨s.clearWdtr_commtx, s.clearWdtr_commrx⟩
    case shift =>
      have length : s.drLength = len := drLength_eq s
      rw [← length]
      exact captured_shift hp hn h hst
    case pause =>
      rw [step_of_inert hp hn h hst (by decide)]
      cases tms <;> rfl
    case ir =>
      rcases hst with e | e
      · rw [if_pos e]
        exact step_scanIr hp hn h (.inl e) (tapAct_captureIr e)
      · have shifts : s.tap.state ≠ .captureIr := by
          rw [e]
          decide
        rw [if_neg shifts]
        exact step_scanIr hp hn h (.inr e) (tapAct_shiftIr e)
    case updateIr =>
      subst high
      exact step_updateIr hp hn h hst
    case updateDr =>
      subst high
      intro written rdtr
      refine ⟨fun hi => ?extest, fun hi => ?scanN, fun hi => ?inert⟩
      case extest =>
        have edge := step_updateChain hp hn h hst hi
        have both (hc : s.tap.chain = 2#5) := updateChain_transferData (s := written) hc
        refine ⟨fun hc => ⟨_, edge.trans (congrArg _ (updateChain_status hc)), fun k hk => ?_⟩,
          fun hc => edge.trans (congrArg _ (updateChain_transfer hc)),
          fun hc => edge.trans (congrArg _ ((updateChain_data (s := written) hc).trans (jtagRdtr_eq _ _))),
          fun hc => edge.trans (congrArg _ ((both hc).trans (congrArg (State.jtagItr · _) (jtagRdtr_eq _ _)))),
          fun hc hr t ht => step_commrx hp hn h hst hi hc hr ht⟩
        rw [jtagDscr_getLsbD _ _ hk, BitVec.getLsbD_extractLsb', decide_eq_true hk, Bool.true_and, Nat.zero_add]
        rfl
      case scanN =>
        rw [step_updateDr hp hn h hst]
        exact congrArg _ (updateDr_scanN hi)
      case inert =>
        rw [step_updateDr hp hn h hst]
        exact congrArg _ (updateDr_inert hi)
    case idle =>
      subst low
      intro s1
      refine ⟨fun hs hh hi => ?itr, fun hi hh => ?restart, fun hi hh hd hm => ?halt⟩
      case itr =>
        intro i waits
        have edge := step_runItr hp hn h hst hs hh hi
        have busy : busyWaits i s1 = busyWaits i s := busyWaits_congr rfl i
        refine ⟨fun hb => edge.trans (if_pos (busy.trans hb)), fun hb => edge.trans ?_⟩
        exact if_neg (Bool.eq_false_iff.mp (busy.trans hb))
      case restart =>
        have edge := step_restart hp hn h hst hi hh
        refine ⟨_, edge, fun k hk => restart_dscr_getLsbD _ hk, fun t ht => ?_⟩
        have left : t = (({ s with inputs := rest } : State).tapAt .idle).restart := by
          rw [edge] at ht
          exact (Host.Outcome.next.inj ht).symm
        have clear : t.halted = false := by
          rw [left]
          exact restart_dscr_getLsbD s.dbg.dscr (k := 0) (by decide)
        exact ⟨clear, clear⟩
      case halt =>
        rw [step_enterIdle hp hn h hst]
        exact enterIdle_halt hi hh hd hm

end Sys2Proof.Machine
end
